-- ==== Sys2Proof/Word.lean ====
section
/-! DEFINITION. The word types of the GD7240: the bytes of a frame, the 16-bit words of the array and
of the host bus, and the host's word addresses. -/

namespace Sys2Proof

/-- One byte: a frame character's data, or one lane of a word (chapter 13, R216). -/
abbrev Byte := BitVec 8

/-- A word of the array or of the host bus: lane 0 is the lower byte, lane 1 the upper (00_scope, section 7). -/
abbrev Word := BitVec 16

/-- A host word address HA[20:0] (R1). -/
abbrev HostAddr := BitVec 21

end Sys2Proof
end

