-- ==== Sys2Proof/Syntax.lean ====
section
/-! DEFINITION. The commands of the GD7240: one constructor for each row of spec/opcode_table.json, with what
the command brings with it (pins, characters, a report's word or result). The bridge is a block: it fetches no
program, and each command is one event at one of its edges. -/

namespace Sys2Proof

/-- The host bus pins that the host port samples at an arrival (R208, R210). -/
structure HostPins where
  /-- HA[20:0]. -/
  addr  : HostAddr
  /-- HWE# active: a write (R210). -/
  write : Bool
  /-- HBE0# active: lane 0 is enabled. -/
  lane0 : Bool
  /-- HBE1# active: lane 1 is enabled. -/
  lane1 : Bool
  /-- HD[15:0], used by a write only. -/
  data  : Word
deriving DecidableEq, Repr

/-- The eight strap inputs, sampled at the release of RST# (R213). -/
structure Straps where
  /-- SADDR[3:0]: this bridge's setup address. -/
  saddr     : BitVec 4
  /-- SRATE[1:0]: the setup bit rate, 0..3. -/
  srate     : BitVec 2
  /-- CFGIGNORE: high replaces a stored image by the default image (R151). -/
  cfgIgnore : Bool
  /-- DEFAF: high gives AF 48 in the default image, low AF 16 (R8). -/
  defAf     : Bool
deriving DecidableEq, Repr

/-- The pins taken at the release of RST#: the straps (R213), and AREADY, which is high when the array is ready (Table 11-3). -/
structure ReleasePins where
  straps : Straps
  aready : Bool
deriving DecidableEq, Repr

/-- A complete frame as the receiver hands it on (R173): its command character, its length character, the payload
bytes it holds (at most 250), and whether the sum of its characters is 0 modulo 256. -/
structure SetupFrame where
  code    : Byte
  length  : Nat
  payload : List Byte
  sumZero : Bool
deriving DecidableEq, Repr

/-- Which of its two limits a SUSPENDING port has reached (R104). -/
inductive SuspendLimit
  /-- The acknowledgement timer stands at 100 µs. -/
  | acknowledgement
  /-- The erase's running time stands at 200 ms. -/
  | eraseTime
deriving DecidableEq, Repr

/-- The commands, one for each row of spec/opcode_table.json. A setup command's `payload` is the payload its frame
carries, right length or not (R180). -/
inductive Instr
  /-- HOST_ACCESS_ARRIVAL: HCS# becomes active with these pins while the host port is IDLE (R208). -/
  | hostAccessArrival (pins : HostPins)
  /-- HOST_SELECT_RELEASE: HCS# goes inactive (R209). -/
  | hostSelectRelease
  /-- RESET: RST#, or a supply fall, is active for 10 µs or more (R215). -/
  | reset
  /-- RESET_RELEASE: RST# is released, or power-on ends, with these straps (R148, R213) and this level of AREADY (R212). -/
  | resetRelease (pins : ReleasePins)
  /-- FLUSH_LEVEL_CHANGE: a change of FLUSH to this level has stood for 1 µs (R168, R213). -/
  | flushLevelChange (high : Bool)
  /-- STSCLK_RISING_EDGE (R203). -/
  | stsclkRisingEdge
  /-- ADDRESS_CHARACTER: an address character with this data value is taken (R172). -/
  | addressCharacter (value : Byte)
  /-- FRAMING_ERROR: a character with a low stop bit is taken (R171). -/
  | framingError
  /-- BREAK: SRI low for two character times (R175). -/
  | breakDetected
  /-- GAP_TIMEOUT: the gap timer reaches 5 ms (R174). -/
  | gapTimeout
  /-- FRAME_BUFFERED: this frame completes while a reply is due or being sent (R176). -/
  | frameBuffered (frame : SetupFrame)
  /-- REPLY_START: the start bit of the reply in hand (R177). -/
  | replyStart
  /-- REPLY_END: the last stop bit of the reply being sent (R177). -/
  | replyEnd
  /-- IDENT: an IDENT frame completes (R181). -/
  | ident (payload : List Byte)
  /-- STATUS: a STATUS frame completes (R182). -/
  | status (payload : List Byte)
  /-- FAULT_READ: a FAULT_READ frame completes (R183). -/
  | faultRead (payload : List Byte)
  /-- SETUP_READ: a SETUP_READ frame completes (R187). -/
  | setupRead (payload : List Byte)
  /-- REMAP_READ: a REMAP_READ frame completes (R193). -/
  | remapRead (payload : List Byte)
  /-- FLUSH: a FLUSH frame completes (R184). -/
  | flush (payload : List Byte)
  /-- PURGE: a PURGE frame completes (R185). -/
  | purge (payload : List Byte)
  /-- HOLD: a HOLD frame completes (R157). -/
  | hold (payload : List Byte)
  /-- RELEASE: a RELEASE frame completes (R159). -/
  | release (payload : List Byte)
  /-- SETUP_LOAD: a SETUP_LOAD frame completes; the payload is the setup image (R163). -/
  | setupLoad (payload : List Byte)
  /-- SETUP_STORE: a SETUP_STORE frame completes (R189). -/
  | setupStore (payload : List Byte)
  /-- PROTECT: a PROTECT frame completes (R132). -/
  | protect (payload : List Byte)
  /-- SECTOR_ERASE: a SECTOR_ERASE frame completes (R191). -/
  | sectorErase (payload : List Byte)
  /-- ARRAY_CLEAR: an ARRAY_CLEAR frame completes (R165). -/
  | arrayClear (payload : List Byte)
  /-- UNKNOWN_COMMAND: a frame with this unrecognised command code completes (R178). -/
  | unknownCommand (code : Byte) (payload : List Byte)
  /-- STALL_LIMIT_EXPIRY: the stall timer reaches the stall limit (R28). -/
  | stallLimitExpiry
  /-- REGION_AGE_LIMIT: the millisecond tick brings this region's head entry to its age limit (R35). -/
  | regionAgeLimit (region : BitVec 4)
  /-- ARRAY_READ_END: the array reports the end of a READ with this word (R92, R212). -/
  | arrayReadEnd (word : Word)
  /-- ARRAY_PROGRAM_END: the array reports the end of a PROGRAM with pass or fail (R92, R212). -/
  | arrayProgramEnd (pass : Bool)
  /-- ARRAY_ERASE_END: the array reports the end of an ERASE with pass or fail (R92, R98, R212). -/
  | arrayEraseEnd (pass : Bool)
  /-- SUSPEND_ACKNOWLEDGEMENT: the array acknowledges SUSPEND (R98). -/
  | suspendAcknowledgement
  /-- OPERATION_TIMEOUT: the operation of a RUNNING port reaches its time limit (R103). -/
  | operationTimeout
  /-- SUSPEND_TIMEOUT: a SUSPENDING port reaches this limit (R104). -/
  | suspendTimeout (limit : SuspendLimit)
  /-- INNER_OPERATION_TIMEOUT: the inner operation of a SUSPENDED erase reaches its time limit (R105). -/
  | innerOperationTimeout
  /-- ARST_PULSE_END: an ARST# pulse is over and AREADY is high (R212). -/
  | arstPulseEnd
  /-- FRAME_CHARACTER: a frame character with this data value is taken (R173). -/
  | frameCharacter (value : Byte)
  /-- CHECK_ERROR_FRAME: a frame whose check sum is not 0 completes (R178). -/
  | checkErrorFrame (code : Byte) (payload : List Byte)
  /-- FRAME_LENGTH: a frame whose length character is above 250 completes, holding its first 250 payload bytes (R178). -/
  | frameLength (code : Byte) (length : Byte) (payload : List Byte)
  /-- HOST_SELECT_WHILE_BUSY: HCS# becomes active with these pins while the host port is BUSY or DONE (R208). -/
  | hostSelectWhileBusy (pins : HostPins)
deriving DecidableEq, Repr

end Sys2Proof
end

