-- ==== Sys2Proof/Config.lean ====
section
/-! DEFINITION. What the data sheet leaves to the implementation or does not state: free values. They
have no body, so nothing can be proved of what they are. -/

namespace Sys2Proof

/-- The silicon revision byte of the IDENT reply (R181, section 13.6): the data sheet gives it no value.
A free value (log entry 12). -/
opaque Config.siliconRevision : BitVec 8

/-- The number of logical sectors taken as inside the window while NO setup image is in force and an access is
classified, which happens only in OFFLINE reached from STARTUP (R154: "no window"). The data sheet states no
window there; an access completes with HERR# either way, and only whether a write leaves a WRITE_REFUSED/OUTSIDE
record hangs on it. A free value (log entry 11), used no further than the 1022 that Table 1-1 note 2 bounds. -/
opaque Config.windowWithoutImage : Nat

end Sys2Proof
end

