-- ==== Sys2Proof/Machine/State.lean ====
section
/-! DEFINITION. The state of the GD7240 as plain data: one structure per functional block (00_scope, Table 1), with
every register, queue, flag and counter the chapters name, and the queue of commands that wait at its edges.

What a chapter forms "at every moment" from other state is not stored twice: a region's count, level code and head
age stamp, its stalled flag, the spare states, the report "every queue empty", and the pins HWAIT#, HD and HERR# are
functions of this state (Machine/Flags.lean). The outputs ATTN and DRAINED, which Tables 8-2 and 10-1 list as state,
are stored and follow their facts at the end of each event. -/

namespace Sys2Proof.Machine

/-- No command of the bridge stops it: every command has a next state in every state, so there is no reason for a
fault and this inductive has no constructor. Safe: nothing is left out by a fault. -/
inductive Fault
deriving DecidableEq, Repr

/-- The reasons a command has no meaning. -/
inductive Refusal
  /-- Raised by an arm of `exec` whose command has no meaning yet, with the row's mnemonic. No arm raises it: every
  row has its meaning. Safe: a refusal never asserts an effect. -/
  | notModelled (mnemonic : String)
deriving DecidableEq, Repr

/-! ### Setup image and regions (chapter 1) -/

/-- The device modes (R156). -/
inductive Mode
  | startup | run | holding | held | clearing | offline
deriving DecidableEq, Repr

/-- Region policies (R4). -/
inductive Policy
  | staged | direct | readonly
deriving DecidableEq, Repr

/-- One region record of the active image: the seven fields of R4. -/
structure RegionRec where
  first      : Nat
  count      : Nat
  policy     : Policy
  blocks     : Nat
  af         : Nat
  ageCode    : Nat
  stallLimit : Nat
deriving DecidableEq, Repr

/-- A region record as it stands in the bytes of an image, its policy byte not yet judged (section 13.3). -/
structure RawRegion where
  first      : Nat
  count      : Nat
  policyByte : Nat
  blocks     : Nat
  af         : Nat
  ageCode    : Nat
  stallLimit : Nat
deriving DecidableEq, Repr

/-- A setup image: version, spare count S, suspend limit and the N region records (N is the list's length). -/
structure SetupImage where
  version      : Nat
  spares       : Nat
  suspendLimit : Nat
  regions      : List RegionRec
deriving DecidableEq, Repr

/-! ### Queue manager (chapter 2) -/

/-- The lane mask of an entry: never empty (R20). -/
inductive LaneMask
  | low | high | both
deriving DecidableEq, Repr

/-- Entry states (R20). -/
inductive EntryState
  | waiting | committing
deriving DecidableEq, Repr

/-- A staging entry: the six fields of R20. -/
structure Entry where
  addr   : HostAddr
  data   : Word
  mask   : LaneMask
  state  : EntryState
  stamp  : BitVec 32
  region : Nat
deriving DecidableEq, Repr

/-- One region queue, oldest entry first (R21), with the region's flush mark (R36). -/
structure RegionQueue where
  entries   : List Entry
  flushMark : Bool
deriving DecidableEq, Repr

/-- The write held by a full queue (R26), with the stall timer in microsecond ticks. The region it names is the one
whose stalled flag is set. -/
structure StalledWrite where
  region : Nat
  addr   : HostAddr
  mask   : LaneMask
  data   : Word
  timer  : Nat
deriving DecidableEq, Repr

/-! ### Host port and read assembler (chapters 3 and 11) -/

/-- Host port states (Table 11-1). -/
inductive HostState
  | idle | busy | done
deriving DecidableEq, Repr

/-- The host port (R208, R209): its state, the sampled access, what a DONE port presents, the level of HCS#, the
pins that stand while HCS# is active, and whether a select waits to be taken. -/
structure HostPort where
  state    : HostState
  access   : Option HostPins
  data     : Option Word
  herr     : Bool
  select   : Bool
  pins     : HostPins
  reselect : Bool
deriving DecidableEq, Repr

/-- Read assembler states (Table 3-1). -/
inductive ReadState
  | idle | eraseHold | portWait | reading
deriving DecidableEq, Repr

/-- What a read arrives with (R48). -/
structure ReadAccess where
  addr   : HostAddr
  region : Nat
  policy : Policy
  psec   : Nat
deriving DecidableEq, Repr

/-- The read assembler (R48). -/
structure Reader where
  state  : ReadState
  access : Option ReadAccess
deriving DecidableEq, Repr

/-! ### Commit engine (chapter 4) -/

/-- Engine phases (Table 4-2). -/
inductive Phase
  | idle | gather | load | program | erase | writeback | relocate
  | controlErase | controlWrite | controlVerify | jobErase | clearErase
deriving DecidableEq, Repr

/-- Work item kinds (Table 4-1). -/
inductive WorkItem
  | none | regionCommit | eraseJob | clearStep | controlUpdate
deriving DecidableEq, Repr

/-- The path of a REGION_COMMIT (R70). -/
inductive CommitPath
  | gather | load
deriving DecidableEq, Repr

/-- Last job result (Table 4-1). -/
inductive JobResult
  | none | done | remapped | retired
deriving DecidableEq, Repr

/-- An entry of the gathered set (Table 4-1): its old word and target-differs note are filled as words are read. -/
structure GatheredEntry where
  addr     : HostAddr
  data     : Word
  mask     : LaneMask
  old      : Option Word
  differs  : Bool
  released : Bool
deriving DecidableEq, Repr

/-- The commit engine: Table 4-1, and the engine's place in its item (`cursor`, `record`, `recordGen`, `try2`), which
R74, R76, R88 and R89 imply (log entry 25). -/
structure Engine where
  phase           : Phase
  item            : WorkItem
  itemRegion      : Option Nat
  itemSector      : Option Nat
  itemPhys        : Option Nat
  path            : Option CommitPath
  boundReloc      : Bool
  gathered        : List GatheredEntry
  entryCount      : Nat
  merge           : Vector Word 2048
  mergeSector     : Option Nat
  mergeValid      : Bool
  eraseAttempts   : Nat
  programAttempts : Nat
  spareOnTrial    : Option Nat
  lastServed      : Option Nat
  jobPending      : Bool
  jobSector       : Option Nat
  lastJobResult   : JobResult
  stopped         : Bool
  /-- The offset or record word the engine works on. -/
  cursor          : Nat
  /-- The record image of a CONTROL_UPDATE, as words from word 0 (R143). -/
  record          : List Word
  /-- The generation that record carries (R144). -/
  recordGen       : Nat
  /-- The second try of a CONTROL_UPDATE is running (R89). -/
  try2            : Bool
deriving DecidableEq, Repr

/-! ### Array port (chapter 5) -/

/-- Array operations (Table 5-1). -/
inductive OpKind
  | read | program | erase
deriving DecidableEq, Repr

/-- Who asked for an operation (R94, R103). -/
inductive Issuer
  | hostRead | directWrite | engine | startUp
deriving DecidableEq, Repr

/-- One array operation: kind, physical sector, word offset, program value, issuer. -/
structure ArrayOp where
  kind   : OpKind
  psec   : Nat
  offset : Nat
  value  : Word
  issuer : Issuer
deriving DecidableEq, Repr

/-- An operation that the port has granted: its timer in microsecond ticks (for an ERASE its accumulated running time),
and whether it is issued to the array, or waits for an ARST# pulse to end (R212). -/
structure RunningOp where
  op     : ArrayOp
  timer  : Nat
  issued : Bool
deriving DecidableEq, Repr

/-- Port states (Table 5-2). -/
inductive PortState
  | free | running | suspending | suspended | stopped
deriving DecidableEq, Repr

/-- A direct write in progress (R108): held before its claim (R110), or claiming; its attempt count. -/
structure DirectWrite where
  region   : Nat
  addr     : HostAddr
  psec     : Nat
  value    : Word
  attempts : Nat
  held     : Bool
deriving DecidableEq, Repr

/-- ARST#: inactive, pulsed, or held active (in reset and in STOPPED). `pulse` is the pulse of 10 µs and then, with the pin
inactive again, the wait for AREADY (R212). -/
inductive Arst
  | inactive | pulse | held
deriving DecidableEq, Repr

/-- The array port controller (R93). `op` is the operation of a RUNNING port, and the erase of a SUSPENDING or
SUSPENDED one, whose erase record (sector, issuer, running time) it is, with `suspCount`. -/
structure ArrayPort where
  state       : PortState
  op          : Option RunningOp
  inner       : Option RunningOp
  suspCount   : Nat
  ackTimer    : Nat
  consecutive : Nat
  hostClaim   : Option ArrayOp
  engClaim    : Option ArrayOp
  direct      : Option DirectWrite
  arst        : Arst
  arstTimer   : Nat
deriving DecidableEq, Repr

/-! ### Sector map and control record (chapters 6 and 7) -/

/-- A remap entry: a logical sector and its target, a spare index or NONE (R117). -/
structure RemapEntry where
  sector : Nat
  target : Option Nat
deriving DecidableEq, Repr

/-- A protection range (R131). -/
structure ProtRange where
  first : Nat
  count : Nat
deriving DecidableEq, Repr

/-- The sector map (Table 6-1). Spare states are formed from it (R116). -/
structure SectorMap where
  remap      : List RemapEntry
  bad        : BitVec 32
  protection : List ProtRange
deriving DecidableEq, Repr

/-- The two control copies. -/
inductive Copy
  | a | b
deriving DecidableEq, Repr

/-- The control record unit (Table 7-1). -/
structure ControlUnit where
  current       : Option Copy
  generation    : Nat
  healthGood    : Bool
  updatePending : Bool
deriving DecidableEq, Repr

/-- The contents of a control record (R137). -/
structure ControlRecord where
  generation : Nat
  image      : SetupImage
  protection : List ProtRange
  remap      : List RemapEntry
  bad        : BitVec 32
deriving DecidableEq, Repr

/-- The reading of the copies during STARTUP (R148, R149): the copy being read, its words so far, and copy A as it
was judged, `none` for not yet judged and `some none` for invalid. -/
structure StartUp where
  copy    : Copy
  words   : List Word
  judgedA : Option (Option ControlRecord)
deriving DecidableEq, Repr

/-! ### Setup port (chapter 9) -/

/-- Selection (R172). -/
inductive Selection
  | none | selected | broadcast
deriving DecidableEq, Repr

/-- Receiver states (R173). -/
inductive RxState
  | waitCommand | waitLength | payload | waitCheck
deriving DecidableEq, Repr

/-- The partial frame (Table 9-1): command, length, payload bytes held, payload characters taken, running sum. -/
structure PartialFrame where
  command : Byte
  length  : Nat
  payload : List Byte
  taken   : Nat
  sum     : Byte
deriving DecidableEq, Repr

/-- Transmitter states (R177). -/
inductive TxState
  | quiet | replyDue | sending
deriving DecidableEq, Repr

/-- A reply: its code and payload (R177). -/
structure Reply where
  code    : Byte
  payload : List Byte
deriving DecidableEq, Repr

/-- A buffered frame with the selection it was received under (R176). -/
structure BufferedFrame where
  frame     : SetupFrame
  selection : Selection
deriving DecidableEq, Repr

/-- The setup port (Table 9-1). The gap timer counts millisecond ticks. -/
structure SetupPort where
  selection : Selection
  rx        : RxState
  part      : PartialFrame
  gapTimer  : Option Nat
  buffer    : Option BufferedFrame
  tx        : TxState
  reply     : Option Reply
deriving DecidableEq, Repr

/-! ### Fault log and status stream (chapter 10) -/

/-- Fault kinds (Table 10-2). -/
inductive FaultKind
  | writeDropped | writeRefused | sectorRemapped | spareBad | sectorRetired | dataLost
  | directWriteFailed | controlWriteFailed | controlCopyInvalid | startupDefaults
  | arrayTimeout | arrayLost
deriving DecidableEq, Repr

/-- Fault reasons (Table 13-3). -/
inductive FaultReason
  | protectedSector | readonlyRegion | retiredSector | outsideWindow | tableFull | read | program | erase | suspend
  | verify | generationLimit | noValidCopy | strap
deriving DecidableEq, Repr

/-- What a block reports to the log: a kind, its count, and the optional fields (R196). -/
structure FaultReport where
  kind   : FaultKind
  count  : Nat := 1
  region : Option Nat := none
  lsec   : Option Nat := none
  psec   : Option Nat := none
  spare  : Option Nat := none
  addr   : Option HostAddr := none
  reason : Option FaultReason := none
deriving DecidableEq, Repr

/-- A fault record (R196). -/
structure FaultRecord where
  seq    : BitVec 16
  first  : BitVec 32
  last   : BitVec 32
  report : FaultReport
deriving DecidableEq, Repr

/-- The fault log (Table 10-1), oldest record first, with the ATTN output. -/
structure FaultLog where
  records  : List FaultRecord
  unstored : Nat
  nextSeq  : BitVec 16
  attn     : Bool
deriving DecidableEq, Repr

/-- The status stream (R203, R206): whether it runs, its position (`none` is "before slot 0") and its outputs. -/
structure StatusStream where
  running  : Bool
  position : Option Nat
  sts      : BitVec 4
  stsync   : Bool
deriving DecidableEq, Repr

/-! ### Mode controller (chapter 8) -/

/-- The mode controller (Table 8-2). -/
structure ModeControl where
  mode       : Mode
  refused    : Nat
  clearIndex : Nat
  flushHigh  : Bool
  drained    : Bool
deriving DecidableEq, Repr

/-! ### The flash bank behind the array port

The bank is not part of the bridge, and a READ's word comes with the array's report. What R92 says the bank's words hold
after each operation is kept here, bit by bit, as far as the operations and reports determine it (log entry 9). -/

/-- What is determined of one word: the bits known, and their values (0 where a bit is not known). -/
structure FlashWord where
  known : Word
  value : Word
deriving DecidableEq, Repr

/-- The bank: the physical sectors erased and since only listed by word, strictly rising; and the words listed, by
physical word address, strictly rising, none equal to what an unlisted word of its sector is. -/
structure FlashBank where
  erased : List Nat
  words  : List (Nat × FlashWord)
deriving DecidableEq, Repr

/-! ### The whole part -/

/-- The state of the part, and the commands waiting at its edges, first in, first out. -/
structure State where
  /-- Commands waiting, oldest first. -/
  pending : List Instr
  /-- RST# is active, or the supply is below its operating range (R215). -/
  inReset : Bool
  /-- The straps as sampled at the last release of RST# (R213). -/
  straps  : Straps
  /-- Microsecond ticks since the release of RST#; the millisecond tick is formed from it (R214). -/
  time    : Nat
  host    : HostPort
  /-- The active setup image; none is in force in STARTUP, and in OFFLINE reached from it (R3, R154). -/
  image   : Option SetupImage
  /-- The region queues, one for each region of the active image. -/
  queues  : List RegionQueue
  stall   : Option StalledWrite
  reader  : Reader
  engine  : Engine
  port    : ArrayPort
  map     : SectorMap
  cru     : ControlUnit
  /-- The start-up reading in progress, if one is. -/
  startup : Option StartUp
  setup   : SetupPort
  log     : FaultLog
  stream  : StatusStream
  mc      : ModeControl
  flash   : FlashBank
deriving DecidableEq, Repr

/-! ### Reset values -/

/-- The commit engine after reset (Table 4-1). Its merge buffer words are undefined there; the model puts FFFFh, and
nothing reads them until a LOAD has filled them (log entry 10, DESIGN CHOICE, unsafe). -/
def Engine.reset : Engine :=
  { phase := .idle, item := .none, itemRegion := none, itemSector := none, itemPhys := none
    path := none, boundReloc := false, gathered := [], entryCount := 0
    merge := Vector.replicate 2048 0xFFFF#16, mergeSector := none, mergeValid := false
    eraseAttempts := 0, programAttempts := 0, spareOnTrial := none, lastServed := none
    jobPending := false, jobSector := none, lastJobResult := .none, stopped := false
    cursor := 0, record := [], recordGen := 0, try2 := false }

/-- The array port controller after reset (R93), ARST# active while RST# is (R112). -/
def ArrayPort.reset : ArrayPort :=
  { state := .free, op := none, inner := none, suspCount := 0, ackTimer := 0, consecutive := 0
    hostClaim := none, engClaim := none, direct := none, arst := .held, arstTimer := 0 }

/-- The empty partial frame (Table 9-1). -/
def PartialFrame.empty : PartialFrame :=
  { command := 0, length := 0, payload := [], taken := 0, sum := 0 }

/-- The setup port after reset (Table 9-1). -/
def SetupPort.reset : SetupPort :=
  { selection := .none, rx := .waitCommand, part := PartialFrame.empty, gapTimer := none
    buffer := none, tx := .quiet, reply := none }

/-- Host pins at rest: the model's value for pins that no host has driven yet (log entry 19). -/
def HostPins.rest : HostPins :=
  { addr := 0, write := false, lane0 := false, lane1 := false, data := 0 }

/-- The straps before their first sampling: the pull-down level low (section 11.7; log entry 20). -/
def Straps.low : Straps :=
  { saddr := 0, srate := 0, cfgIgnore := false, defAf := false }

/-- The part right after reset, RST# still active: every block at the values its chapter gives (R215; Tables 2-2, 4-1,
7-1, 8-2, 9-1, 10-1; R48, R93, R206, R211, R214). Start-up begins with RESET_RELEASE (log entry 1). -/
def State.reset : State :=
  { pending := [], inReset := true, straps := Straps.low, time := 0
    host := { state := .idle, access := none, data := none, herr := false
              select := false, pins := HostPins.rest, reselect := false }
    image := none, queues := [], stall := none
    reader := { state := .idle, access := none }
    engine := Engine.reset, port := ArrayPort.reset
    map := { remap := [], bad := 0, protection := [] }
    cru := { current := none, generation := 0, healthGood := false, updatePending := false }
    startup := none, setup := SetupPort.reset
    log := { records := [], unstored := 0, nextSeq := 0, attn := false }
    stream := { running := false, position := none, sts := 0, stsync := false }
    mc := { mode := .startup, refused := 0, clearIndex := 0, flushHigh := false, drained := false }
    flash := { erased := [], words := [] } }

/-! ### Updates, one for each component

`Laws/State.lean` says of each what it leaves unchanged. -/

/-- Replace the host port. -/
def State.setHost (s : State) (x : HostPort) : State := { s with host := x }
/-- Replace the active image. -/
def State.setImage (s : State) (x : Option SetupImage) : State := { s with image := x }
/-- Replace the region queues. -/
def State.setQueues (s : State) (x : List RegionQueue) : State := { s with queues := x }
/-- Replace the stalled write. -/
def State.setStall (s : State) (x : Option StalledWrite) : State := { s with stall := x }
/-- Replace the read assembler. -/
def State.setReader (s : State) (x : Reader) : State := { s with reader := x }
/-- Replace the commit engine. -/
def State.setEngine (s : State) (x : Engine) : State := { s with engine := x }
/-- Replace the array port controller. -/
def State.setPort (s : State) (x : ArrayPort) : State := { s with port := x }
/-- Replace the sector map. -/
def State.setMap (s : State) (x : SectorMap) : State := { s with map := x }
/-- Replace the control record unit. -/
def State.setCru (s : State) (x : ControlUnit) : State := { s with cru := x }
/-- Replace the start-up reading. -/
def State.setStartup (s : State) (x : Option StartUp) : State := { s with startup := x }
/-- Replace the setup port. -/
def State.setSetup (s : State) (x : SetupPort) : State := { s with setup := x }
/-- Replace the fault log. -/
def State.setLog (s : State) (x : FaultLog) : State := { s with log := x }
/-- Replace the status stream. -/
def State.setStream (s : State) (x : StatusStream) : State := { s with stream := x }
/-- Replace the mode controller. -/
def State.setMc (s : State) (x : ModeControl) : State := { s with mc := x }
/-- Replace the flash bank. -/
def State.setFlash (s : State) (x : FlashBank) : State := { s with flash := x }
/-- Replace the microsecond tick. -/
def State.setTime (s : State) (x : Nat) : State := { s with time := x }
/-- Replace the queue of commands. -/
def State.setPending (s : State) (x : List Instr) : State := { s with pending := x }

end Sys2Proof.Machine
end

