-- ==== Sys2Proof/Machine/Figures.lean ====
section
/-! DEFINITION. The principal figures (00_scope, Table 3) and the time limits (Table 5-1, R35, R174, R212) of the
part, in the units the timers count. -/

namespace Sys2Proof.Machine

/-- Words of a sector (Table 3). -/
def sectorWords : Nat := 2048
/-- The physical sector of a control copy: 1022 for A, 1023 for B. -/
def copySector : Copy → Nat
  | .a => 1022
  | .b => 1023
/-- The physical sector of spare index i (R116). -/
def spareSector (i : Nat) : Nat := 1021 - i
/-- The number of logical sectors of a window with S spares: W = 1022 − S (R1). -/
def windowOf (spares : Nat) : Nat := 1022 - spares
/-- Entries of one block of the staging store (R18). -/
def blockEntries : Nat := 64
/-- Blocks of the staging store (R18). -/
def storeBlocks : Nat := 32
/-- The longest gathered set that takes the GATHER path (R70). -/
def gatherLimit : Nat := 32
/-- Entries of the remap table (R117). -/
def remapLimit : Nat := 64
/-- Ranges of the protection list (R131). -/
def protectionLimit : Nat := 8
/-- Records of the fault log (R195). -/
def logLimit : Nat := 32
/-- Payload bytes that a frame or reply holds (R173, R177). -/
def payloadLimit : Nat := 250
/-- Erase attempts on one physical sector (R77). -/
def eraseTries : Nat := 3
/-- Program attempts of one word (R73, R76). -/
def programTries : Nat := 2
/-- The highest generation a record carries (R137): FFFFFFFEh. -/
def generationLimit : Nat := 0xFFFFFFFE
/-- The tag of a control record (R137). -/
def recordTag : Nat := 0x47DA

/-- The time limit of an operation in microsecond ticks (R102). -/
def opLimit : OpKind → Nat
  | .read => 50
  | .program => 1000
  | .erase => 200000
/-- The SUSPEND acknowledgement limit in microsecond ticks (R102). -/
def ackLimit : Nat := 100
/-- The shortest ARST# pulse in microsecond ticks (R212). -/
def arstLimit : Nat := 10
/-- The gap limit in millisecond ticks (R174). -/
def gapLimit : Nat := 5
/-- One unit of a stall limit in microsecond ticks (R26). -/
def stallUnit : Nat := 100

/-- The age limit of an age code in milliseconds; `none` is OFF (R35). -/
def ageLimit : Nat → Option Nat
  | 1 => some 2
  | 2 => some 16
  | 3 => some 128
  | 4 => some 1024
  | _ => none

end Sys2Proof.Machine
end

