-- ==== Sys2Proof/Machine/Operands.lean ====
section
/-! DEFINITION. The forms in which commands and records carry their operands: lanes of a word (R20, R210), byte
order (R216), characters of the setup line (R170, R171), replies (R177), the setup image (section 13.3) and its
validation (R162), the control record (R137, section 13.4) with its CRC (R138) and its judgement (R139, R149). -/

namespace Sys2Proof.Machine

/-! ### Words, lanes and addresses -/

/-- The logical sector of a host word address: HA[20:11] (R1). -/
def sectorOf (a : HostAddr) : Nat := a.toNat / 2048
/-- The word offset of a host word address: HA[10:0] (R1). -/
def offsetOf (a : HostAddr) : Nat := a.toNat % 2048

/-- The bits of the lanes a mask carries: lane 0 the lower byte, lane 1 the upper. -/
def LaneMask.bits : LaneMask → Word
  | .low => 0x00FF
  | .high => 0xFF00
  | .both => 0xFFFF

/-- The lanes that a host write enables (R210); `none` when it enables no lane. -/
def lanesOf (lane0 lane1 : Bool) : Option LaneMask :=
  match lane0, lane1 with
  | true, true => some .both
  | true, false => some .low
  | false, true => some .high
  | false, false => none

/-- The union of two lane masks (R23). -/
def LaneMask.union : LaneMask → LaneMask → LaneMask
  | .low, .low => .low
  | .high, .high => .high
  | _, _ => .both

/-- `new` on the lanes of the mask and `old` on the others. -/
def overlay (m : LaneMask) (new old : Word) : Word :=
  (new &&& m.bits) ||| (old &&& ~~~ m.bits)

/-- A word's bytes on the lanes of the mask and FFh on the others (R20, R24, R108). -/
def onLanes (m : LaneMask) (w : Word) : Word := overlay m w 0xFFFF

/-- Feasibility of an entry over an array word: on each lane of the mask, O AND D equals D (R71). -/
def feasible (m : LaneMask) (d o : Word) : Bool := (o &&& d &&& m.bits) == (d &&& m.bits)

/-- The target word of an entry: D's byte on each lane of the mask, O's byte on the others (R71). -/
def targetWord (m : LaneMask) (d o : Word) : Word := overlay m d o

/-! ### Byte order -/

/-- The n low bytes of a value, low byte first (R216). -/
def leBytes : Nat → Nat → List Byte
  | 0, _ => []
  | n + 1, x => BitVec.ofNat 8 x :: leBytes n (x / 256)

/-- The value of bytes stored low byte first (R216). -/
def leNat : List Byte → Nat
  | [] => 0
  | b :: t => b.toNat + 256 * leNat t

/-- The byte at an offset, 0 beyond the end. -/
def byteAt (b : List Byte) (i : Nat) : Nat := (b.getD i 0).toNat

/-- The n-byte field at an offset. -/
def field (b : List Byte) (i n : Nat) : Nat := leNat ((b.drop i).take n)

/-- Byte 2k of a record is lane 0 of word k, byte 2k + 1 lane 1; an odd last byte is followed by FFh (R137, R216). -/
def bytesToWords : List Byte → List Word
  | [] => []
  | [x] => [(0xFF#8 ++ x : BitVec 16)]
  | x :: y :: t => (y ++ x : BitVec 16) :: bytesToWords t

/-- The bytes of words, lane 0 first (R216). -/
def wordsToBytes (ws : List Word) : List Byte :=
  ws.flatMap fun (w : Word) => [w.setWidth 8, (w >>> 8).setWidth 8]

/-! ### Characters of the setup line -/

/-- What the receiver makes of the eleven bits of a character that it samples at their middles (R170, R171). -/
inductive LineCharacter
  /-- The start bit is high at its middle: noise, no character forms. -/
  | noise
  /-- The stop bit is low. -/
  | framingError
  /-- Marker 1. -/
  | address (value : Byte)
  /-- Marker 0. -/
  | frame (value : Byte)
deriving DecidableEq, Repr

/-- The eight data bits, least significant bit first. -/
def dataBits (v : Byte) : List Bool := (List.range 8).map v.getLsbD

/-- The value of data bits, least significant bit first. -/
def bitsValue : List Bool → Nat
  | [] => 0
  | b :: t => b.toNat + 2 * bitsValue t

/-- The bits of a character: start (low), data, marker, stop (high) (R170). -/
def characterBits (marker : Bool) (v : Byte) : List Bool := [false] ++ dataBits v ++ [marker] ++ [true]

/-- What eleven sampled bits form (R170, R171). -/
def formCharacter (bits : List Bool) : LineCharacter :=
  if bits.getD 0 true then .noise
  else if !bits.getD 10 false then .framingError
  else
    let v := BitVec.ofNat 8 (bitsValue ((bits.drop 1).take 8))
    if bits.getD 9 false then .address v else .frame v

/-- The command that a formed character is to the part; noise forms none. -/
def LineCharacter.command : LineCharacter → Option Instr
  | .noise => none
  | .framingError => some .framingError
  | .address v => some (.addressCharacter v)
  | .frame v => some (.frameCharacter v)

/-- The bit rate that SRATE selects, in bit/s (Table 9-2). -/
def bitRate (srate : BitVec 2) : Nat :=
  match srate.toNat with
  | 0 => 19200
  | 1 => 57600
  | 2 => 230400
  | _ => 921600

/-- The sum of bytes modulo 256. -/
def byteSum (bs : List Byte) : Byte := bs.foldl (· + ·) 0

/-- A frame's or reply's characters: code, length, payload and the check that makes their sum 0 (R177, section 13.2). -/
def frameBytes (code : Byte) (payload : List Byte) : List Byte :=
  let body := code :: BitVec.ofNat 8 payload.length :: payload
  body ++ [0 - byteSum body]

/-- The characters of a reply on SRO. -/
def replyBytes (r : Reply) : List Byte := frameBytes r.code r.payload

/-- The bits of a reply on SRO: every character is a frame character (R170). -/
def replyBits (r : Reply) : List Bool := (replyBytes r).flatMap (characterBits false)

/-! ### Reply codes, reasons and setup commands -/

/-- Reply code OK (Table 13-1). -/
def codeOk : Byte := 0x80
/-- Reply code ACCEPTED. -/
def codeAccepted : Byte := 0x81
/-- Reply code BUSY. -/
def codeBusy : Byte := 0x82
/-- Reply code WRONG_STATE. -/
def codeWrongState : Byte := 0x83
/-- Reply code INVALID. -/
def codeInvalid : Byte := 0x84
/-- Reply code UNKNOWN. -/
def codeUnknown : Byte := 0x85
/-- Reply code CHECK_ERROR. -/
def codeCheckError : Byte := 0x86

/-- INVALID reasons (Table 13-2). -/
inductive InvalidReason
  | frameLength | operandLength | region | count | range | listFull | sector | notDirect | protectedSector
  | retiredSector | imageLength | version | regionCount | spares | suspend | tiling | blocks | af | age | stall
deriving DecidableEq, Repr

/-- The code of an INVALID reason (Table 13-2). -/
def InvalidReason.code : InvalidReason → Byte
  | .frameLength => 0x01
  | .operandLength => 0x02
  | .region => 0x03
  | .count => 0x04
  | .range => 0x05
  | .listFull => 0x06
  | .sector => 0x07
  | .notDirect => 0x08
  | .protectedSector => 0x09
  | .retiredSector => 0x0A
  | .imageLength => 0x10
  | .version => 0x11
  | .regionCount => 0x12
  | .spares => 0x13
  | .suspend => 0x14
  | .tiling => 0x15
  | .blocks => 0x16
  | .af => 0x17
  | .age => 0x18
  | .stall => 0x19

/-- A reply with an empty payload. -/
def plainReply (code : Byte) : Reply := { code := code, payload := [] }

/-- The INVALID reply: reason code, and region number or FFh (Table 13-1). -/
def invalidReply (reason : InvalidReason) (region : Option Nat) : Reply :=
  { code := codeInvalid, payload := [reason.code, (region.map (BitVec.ofNat 8)).getD 0xFF] }

/-- The fourteen setup commands (Table 9-5). -/
inductive SetupCommand
  | ident | status | faultRead | setupRead | remapRead | flush | purge | hold | release
  | setupLoad | setupStore | protect | sectorErase | arrayClear
deriving DecidableEq, Repr

/-- The code of a setup command (Table 13-1). -/
def SetupCommand.code : SetupCommand → Byte
  | .ident => 0x01
  | .status => 0x02
  | .faultRead => 0x03
  | .setupRead => 0x04
  | .remapRead => 0x05
  | .flush => 0x10
  | .purge => 0x11
  | .hold => 0x12
  | .release => 0x13
  | .setupLoad => 0x20
  | .setupStore => 0x21
  | .protect => 0x22
  | .sectorErase => 0x23
  | .arrayClear => 0x24

/-- The setup commands in code order. -/
def setupCommands : List SetupCommand :=
  [.ident, .status, .faultRead, .setupRead, .remapRead, .flush, .purge, .hold, .release,
   .setupLoad, .setupStore, .protect, .sectorErase, .arrayClear]

/-- The command that a code names, if it names one (R178 step 3). -/
def commandOf (code : Byte) : Option SetupCommand := setupCommands.find? (fun c => c.code == code)

/-- The modes in which a command is allowed (Table 9-5). -/
def SetupCommand.allowedIn (c : SetupCommand) (m : Mode) : Bool :=
  match c with
  | .ident | .status | .faultRead | .setupRead | .remapRead => true
  | .flush | .setupStore | .protect => m == .run || m == .holding || m == .held
  | .purge => m == .run || m == .holding
  | .hold => m == .run
  | .release => m == .holding || m == .held
  | .setupLoad | .arrayClear => m == .held
  | .sectorErase => m == .run || m == .held

/-- Whether a payload length suits a command (Table 9-5); SETUP_LOAD's is judged by LENGTH (R188). -/
def SetupCommand.lengthSuits (c : SetupCommand) (n : Nat) : Bool :=
  match c with
  | .flush | .purge => n == 1
  | .protect => n == 4
  | .sectorErase => n == 2
  | .setupLoad => true
  | _ => n == 0

/-- The commands that act under BROADCAST (Table 9-5). -/
def SetupCommand.broadcastActs : SetupCommand → Bool
  | .flush | .hold | .release => true
  | _ => false

/-- A complete frame of a command whose check holds (R173): it holds the first 250 bytes of its payload. -/
def goodFrame (code : Byte) (payload : List Byte) : SetupFrame :=
  { code := code, length := payload.length, payload := payload.take payloadLimit, sumZero := true }

/-! ### Setup image: layout and validation -/

/-- The byte of a policy (section 13.3). -/
def Policy.byte : Policy → Byte
  | .staged => 0x00
  | .direct => 0x01
  | .readonly => 0x02

/-- The bytes of a region record (section 13.3). -/
def encodeRegion (r : RegionRec) : List Byte :=
  leBytes 2 r.first ++ leBytes 2 r.count ++ [r.policy.byte, BitVec.ofNat 8 r.blocks]
    ++ leBytes 2 r.af ++ [BitVec.ofNat 8 r.ageCode, BitVec.ofNat 8 r.stallLimit]

/-- The bytes of a setup image (section 13.3). -/
def encodeImage (im : SetupImage) : List Byte :=
  [BitVec.ofNat 8 im.version, BitVec.ofNat 8 im.regions.length, BitVec.ofNat 8 im.spares,
   BitVec.ofNat 8 im.suspendLimit] ++ im.regions.flatMap encodeRegion

/-- Region record r of image bytes (section 13.3). -/
def rawRegionAt (b : List Byte) (r : Nat) : RawRegion :=
  let o := 4 + 10 * r
  { first := field b o 2, count := field b (o + 2) 2, policyByte := byteAt b (o + 4), blocks := byteAt b (o + 5)
    af := field b (o + 6) 2, ageCode := byteAt b (o + 8), stallLimit := byteAt b (o + 9) }

/-- The region records of image bytes with N regions. -/
def rawRegions (b : List Byte) (n : Nat) : List RawRegion := (List.range n).map (rawRegionAt b)

/-- A judged region record: 00h STAGED, 01h DIRECT, 02h READONLY (R216). -/
def RawRegion.judged (r : RawRegion) : RegionRec :=
  { first := r.first, count := r.count
    policy := if r.policyByte = 0 then .staged else if r.policyByte = 1 then .direct else .readonly
    blocks := r.blocks, af := r.af, ageCode := r.ageCode, stallLimit := r.stallLimit }

/-- The TILING reason (Table 8-3): the region at fault in a run that must go on at `start` and end at W − 1. -/
def tilingFault (w : Nat) : Nat → Nat → List RawRegion → Option Nat
  | idx, start, [] => if start = w then none else some (idx - 1)
  | idx, start, r :: t =>
    if r.first ≠ start ∨ r.count = 0 ∨ w < r.first + r.count then some idx
    else tilingFault w (idx + 1) (r.first + r.count) t

/-- The BLOCKS reason (Table 8-3): the first region at fault, with the blocks summed so far. -/
def blocksFault : Nat → Nat → List RawRegion → Option Nat
  | _, _, [] => none
  | idx, sum, r :: t =>
    if 2 < r.policyByte ∨ (r.policyByte = 0 ∧ r.blocks = 0) ∨ (r.policyByte ≠ 0 ∧ 0 < r.blocks)
        ∨ storeBlocks < sum + r.blocks then some idx
    else blocksFault (idx + 1) (sum + r.blocks) t

/-- The AF reason (Table 8-3). -/
def afFault (rs : List RawRegion) : Option Nat :=
  rs.findIdx? fun r => r.policyByte == 0 && r.blocks * blockEntries ≤ r.af
/-- The AGE reason (Table 8-3). -/
def ageFault (rs : List RawRegion) : Option Nat := rs.findIdx? fun r => 4 < r.ageCode
/-- The STALL reason (Table 8-3). -/
def stallFault (rs : List RawRegion) : Option Nat := rs.findIdx? fun r => r.stallLimit == 0

/-- The outcome of setup image validation. -/
inductive ImageVerdict
  | valid (im : SetupImage)
  | invalid (reason : InvalidReason) (region : Option Nat)
deriving DecidableEq, Repr

/-- The image that image bytes spell, their policy bytes taken as judged (section 13.3). -/
def imageOf (b : List Byte) : SetupImage :=
  { version := byteAt b 0, spares := byteAt b 2, suspendLimit := byteAt b 3
    regions := (rawRegions b (byteAt b 1)).map RawRegion.judged }

/-- Setup image validation: the checks of Table 8-3 in its order (R162). `sparesBad` is the SPARES condition, which
differs between SETUP_LOAD and start-up (note 1). -/
def validateImage (sparesBad : Nat → Bool) (b : List Byte) : ImageVerdict :=
  let n := byteAt b 1
  let s := byteAt b 2
  let rs := rawRegions b n
  if b.length < 4 ∨ b.length ≠ 4 + 10 * n then .invalid .imageLength none
  else if byteAt b 0 ≠ 1 then .invalid .version none
  else if n = 0 ∨ 16 < n then .invalid .regionCount none
  else if sparesBad s then .invalid .spares none
  else if 15 < byteAt b 3 then .invalid .suspend none
  else match tilingFault (windowOf s) 0 0 rs with
  | some r => .invalid .tiling (some r)
  | none =>
  match blocksFault 0 0 rs with
  | some r => .invalid .blocks (some r)
  | none =>
  match afFault rs with
  | some r => .invalid .af (some r)
  | none =>
  match ageFault rs with
  | some r => .invalid .age (some r)
  | none =>
  match stallFault rs with
  | some r => .invalid .stall (some r)
  | none => .valid (imageOf b)

/-- Region r of the default image with S spares: R8 and Table 1-2. -/
def defaultRegion (spares af r : Nat) : RegionRec :=
  { first := 62 * r, count := if r < 15 then 62 else 92 - spares, policy := .staged, blocks := 2
    af := af, ageCode := 3, stallLimit := 50 }

/-- The default setup image of R8: S is 16, or that of a stored copy (R151); AF is 16, or 48 under DEFAF. -/
def defaultImage (spares : Nat) (defAf : Bool) : SetupImage :=
  { version := 1, spares := spares, suspendLimit := 8
    regions := (List.range 16).map (defaultRegion spares (if defAf then 48 else 16)) }

/-! ### Control record: CRC, layout and judgement -/

/-- One bit of the CRC register's division by x¹⁶ + x¹² + x⁵ + 1 (R138). -/
def crcShift (c : Word) : Word := if c.msb then (c <<< 1) ^^^ 0x1021 else c <<< 1

/-- A byte enters the register most significant bit first (R138). -/
def crcByte (c : Word) (b : Byte) : Word :=
  (List.range 8).foldl (fun c _ => crcShift c) (c ^^^ (b.setWidth 16 <<< 8))

/-- The CRC-16 of R138: the register starts at FFFFh and is not inverted. -/
def crc16 (bs : List Byte) : Word := bs.foldl crcByte 0xFFFF

/-- A protection range in four bytes (section 13.4). -/
def encodeRange (r : ProtRange) : List Byte := leBytes 2 r.first ++ leBytes 2 r.count

/-- A remap entry in three bytes: target FFh for NONE (section 13.4). -/
def encodeRemap (e : RemapEntry) : List Byte :=
  leBytes 2 e.sector ++ [(e.target.map (BitVec.ofNat 8)).getD 0xFF]

/-- The remap entries and the bad-spare set as offsets 9 + Li + 4P onward encode them (section 13.4). -/
def encodeMap (remap : List RemapEntry) (bad : BitVec 32) : List Byte :=
  remap.flatMap encodeRemap ++ leBytes 4 bad.toNat

/-- Fields 1 to 7 of a control record (R137). -/
def recordBody (r : ControlRecord) : List Byte :=
  let im := encodeImage r.image
  leBytes 2 recordTag ++ leBytes 4 r.generation ++ [BitVec.ofNat 8 im.length] ++ im
    ++ [BitVec.ofNat 8 r.protection.length] ++ r.protection.flatMap encodeRange
    ++ [BitVec.ofNat 8 r.remap.length] ++ encodeMap r.remap r.bad

/-- The bytes of a control record before padding: the body and its CRC (R137, R138). -/
def recordBytes (r : ControlRecord) : List Byte := recordBody r ++ leBytes 2 (crc16 (recordBody r)).toNat

/-- The words of a control record, padded with FFh when its bytes are odd (R137). -/
def recordWords (r : ControlRecord) : List Word := bytesToWords (recordBytes r)

/-- The protection range at an offset of record bytes. -/
def rangeAt (b : List Byte) (o : Nat) : ProtRange := { first := field b o 2, count := field b (o + 2) 2 }

/-- The remap entry at an offset of record bytes. -/
def remapAt (b : List Byte) (o : Nat) : RemapEntry :=
  { sector := field b o 2, target := if byteAt b (o + 2) = 0xFF then none else some (byteAt b (o + 2)) }

/-- The record that record bytes spell, with their length fields Li, P and M (section 13.4). -/
def recordOf (b : List Byte) (li p m : Nat) : ControlRecord :=
  { generation := field b 2 4, image := imageOf ((b.drop 7).take li)
    protection := (List.range p).map fun k => rangeAt b (8 + li + 4 * k)
    remap := (List.range m).map fun k => remapAt b (9 + li + 4 * p + 3 * k)
    bad := BitVec.ofNat 32 (field b (9 + li + 4 * p + 3 * m) 4) }

/-- The conditions of Table 7-2 on the tables of a record: protection ranges, remap logicals, remap targets and bad
spares. -/
def tablesValid (r : ControlRecord) : Bool :=
  r.protection.all (fun p => decide (1 ≤ p.count ∧ p.first + p.count ≤ 1022))
    && r.remap.all (fun e => decide (e.sector < windowOf r.image.spares))
    && decide (r.remap.map (·.sector)).Nodup
    && (r.remap.filterMap (·.target)).all (fun i => decide (i < r.image.spares) && !r.bad.getLsbD i)
    && decide (r.remap.filterMap (·.target)).Nodup

/-- How far the reading of a copy has come (R149). -/
inductive Judgement
  | reading
  | invalid
  | valid (record : ControlRecord)
deriving DecidableEq, Repr

/-- A length that 4 + 10 × N takes for some N in 1..16 (Table 7-2, Lengths). -/
def imageLengthPossible (li : Nat) : Bool := (List.range 16).any fun n => li == 4 + 10 * (n + 1)

/-- The SPARES reason at start-up: S above 32 alone (Table 8-3, note 1). -/
def sparesTooMany (s : Nat) : Bool := 32 < s

/-- The conditions that remain when the last word of a copy has been read (R149): CRC, setup image and tables. -/
def judgeWhole (b : List Byte) (li p m : Nat) : Judgement :=
  let body := 13 + li + 4 * p + 3 * m
  let r := recordOf b li p m
  if (crc16 (b.take body)).toNat ≠ field b body 2 then .invalid
  else match validateImage sparesTooMany ((b.drop 7).take li) with
    | .invalid _ _ => .invalid
    | .valid _ => if tablesValid r then .valid r else .invalid

/-- The judgement of a copy from the words read so far (R139, R149): reading stops at the first failed condition or
at the last word of the record, padding included. A setup image length that no region count gives is refused when it
is read, one that the image's own N contradicts when N is read (log entry 13). -/
def judgeCopy (ws : List Word) : Judgement :=
  let b := wordsToBytes ws
  let have? := fun i => decide (i < b.length)
  let li := byteAt b 6
  let p := byteAt b (7 + li)
  let m := byteAt b (8 + li + 4 * p)
  if have? 1 && field b 0 2 != recordTag then .invalid
  else if have? 5 && decide (generationLimit < field b 2 4) then .invalid
  else if have? 6 && !imageLengthPossible li then .invalid
  else if have? 8 && li != 4 + 10 * byteAt b 8 then .invalid
  else if !have? 8 then .reading
  else if have? (7 + li) && decide (protectionLimit < p) then .invalid
  else if !have? (7 + li) then .reading
  else if have? (8 + li + 4 * p) && decide (remapLimit < m) then .invalid
  else if !have? (8 + li + 4 * p) then .reading
  else if have? (14 + li + 4 * p + 3 * m) then judgeWhole b li p m
  else .reading

end Sys2Proof.Machine
end

