-- ==== Sys2Proof/Machine/Flags.lean ====
section
/-! DEFINITION. What the chapters form from the state at every moment: ticks, window and regions in force, counts, level
codes, head age stamps, the stalled flag, aged and due conditions, spare states, translation, the pins HWAIT#, HD and
HERR#, and the facts behind the outputs ATTN and DRAINED. -/

namespace Sys2Proof.Machine

/-- The 32-bit millisecond tick: it rises at every thousandth microsecond tick and wraps (R214). -/
def State.msTick (s : State) : BitVec 32 := BitVec.ofNat 32 (s.time / 1000)

/-! ### Image and regions in force -/

/-- The spare count S in force; 0 while no image is (R182, R193). -/
def State.spareCount (s : State) : Nat := (s.image.map (·.spares)).getD 0

/-- The number of logical sectors of the window in force (R1, R3); free up to 1022 while no image is in force
(log entry 11). -/
def State.window (s : State) : Nat :=
  match s.image with
  | some im => windowOf im.spares
  | none => min 1022 Config.windowWithoutImage

/-- The region records in force (R4). -/
def State.regions (s : State) : List RegionRec := (s.image.map (·.regions)).getD []

/-- The suspend limit in force (R97). -/
def State.suspendLimit (s : State) : Nat := (s.image.map (·.suspendLimit)).getD 0

/-- Region record r, if the region exists. -/
def State.region? (s : State) (r : Nat) : Option RegionRec := s.regions[r]?

/-- A region covers the sectors from its first up to first + count − 1 (R4). -/
def RegionRec.covers (g : RegionRec) (sector : Nat) : Bool :=
  decide (g.first ≤ sector ∧ sector < g.first + g.count)

/-- The number of the region whose run contains a logical sector (R4). -/
def State.regionOf (s : State) (sector : Nat) : Option Nat := s.regions.findIdx? (·.covers sector)

/-- Region r has the given policy. -/
def State.hasPolicy (s : State) (r : Nat) (p : Policy) : Bool :=
  match s.region? r with
  | some g => g.policy == p
  | none => false

/-! ### Queues -/

/-- The entries of region r's queue, oldest first. -/
def State.queue (s : State) (r : Nat) : List Entry := ((s.queues[r]?).map (·.entries)).getD []

/-- Region r's flush mark (R36). -/
def State.marked (s : State) (r : Nat) : Bool := ((s.queues[r]?).map (·.flushMark)).getD false

/-- The count of region r: WAITING and COMMITTING entries together (R21). -/
def State.count (s : State) (r : Nat) : Nat := (s.queue r).length

/-- The capacity of region r: blocks × 64, and 0 for a region with no queue (R18). -/
def State.capacity (s : State) (r : Nat) : Nat := ((s.region? r).map (·.blocks * blockEntries)).getD 0

/-- The first block of region r's run in the staging store (R18): the STAGED regions take their blocks in ascending order,
each run after the last one's; the other regions own none. -/
def State.firstBlock (s : State) (r : Nat) : Nat := ((s.regions.take r).map (·.blocks)).sum

/-- The blocks that no region owns, which hold no entry (R18). -/
def State.unownedBlocks (s : State) : Nat := storeBlocks - (s.regions.map (·.blocks)).sum

/-- Region r's stalled flag (R26). -/
def State.stalled (s : State) (r : Nat) : Bool :=
  match s.stall with
  | some w => w.region == r
  | none => false

/-- The level code of region r (R32); 0 when it has no queue. -/
def State.levelCode (s : State) (r : Nat) : Nat :=
  let n := s.count r
  let cap := s.capacity r
  let af := ((s.region? r).map (·.af)).getD 0
  if n = 0 ∨ cap = 0 then 0
  else if cap ≤ n then 3
  else if cap - af ≤ n then 2
  else 1

/-- An entry waits (R20). -/
def Entry.waits (e : Entry) : Bool := e.state == .waiting

/-- The head age stamp of region r: the stamp of its oldest WAITING entry, or absent (R34). -/
def State.headStamp (s : State) (r : Nat) : Option (BitVec 32) :=
  ((s.queue r).find? Entry.waits).map (·.stamp)

/-- Region r is aged (R35): whole ticks since the head age stamp, modulo 2³², against the limit of its age code. -/
def State.aged (s : State) (r : Nat) : Bool :=
  match s.region? r, s.headStamp r with
  | some g, some h =>
    match ageLimit g.ageCode with
    | some l => g.policy == .staged && decide (l ≤ (s.msTick - h).toNat)
    | none => false
  | _, _ => false

/-- The report "every queue empty" (R42). -/
def State.queuesEmpty (s : State) : Bool := s.queues.all (·.entries.isEmpty)

/-! ### Due regions (R67, R68) -/

/-- The urgency class of region r, if it is due (R67). -/
def State.dueClass (s : State) (r : Nat) : Option Nat :=
  if !s.hasPolicy r .staged || s.count r == 0 then none
  else if s.stalled r then some 1
  else if s.levelCode r == 3 then some 2
  else if s.levelCode r == 2 then some 3
  else if s.marked r then some 4
  else if s.aged r then some 5
  else none

/-- The round-robin order of R68 over N regions: from the region after the last served one, wrapping to end with it. -/
def roundRobin (n : Nat) (last : Option Nat) : List Nat :=
  match last with
  | none => List.range n
  | some l => (List.range n).map fun k => (l + 1 + k) % n

/-- The region that a selection of rank 4 takes (R68): the first met in round-robin order of the lowest class. -/
def State.dueRegion (s : State) : Option Nat :=
  let order := roundRobin s.regions.length s.engine.lastServed
  [1, 2, 3, 4, 5].findSome? fun c => order.find? fun r => s.dueClass r == some c

/-! ### Sector map -/

/-- The remap entry of a logical sector, if it has one (R117). -/
def SectorMap.entryOf (m : SectorMap) (sector : Nat) : Option RemapEntry := m.remap.find? (·.sector == sector)

/-- Translation of a logical sector: `none` for a retired one (R2, R115). -/
def SectorMap.translate (m : SectorMap) (sector : Nat) : Option Nat :=
  match m.entryOf sector with
  | none => some sector
  | some e => e.target.map spareSector

/-- Spare states (R116). -/
inductive SpareState
  | free | used | bad
deriving DecidableEq, Repr

/-- The state of a spare index below S (R116). -/
def SectorMap.spareState (m : SectorMap) (i : Nat) : SpareState :=
  if m.remap.any (·.target == some i) then .used
  else if m.bad.getLsbD i then .bad
  else .free

/-- The number of spares below S in a state (R116). -/
def State.spareTally (s : State) (x : SpareState) : Nat :=
  (List.range s.spareCount).countP fun i => s.map.spareState i == x

/-- The lowest FREE spare index below S (R118). -/
def State.lowestFree (s : State) : Option Nat :=
  (List.range s.spareCount).find? fun i => s.map.spareState i == .free

/-- A protection range covers a sector (R131). -/
def ProtRange.covers (p : ProtRange) (sector : Nat) : Bool :=
  decide (p.first ≤ sector ∧ sector < p.first + p.count)

/-- A logical sector is protected when a range of the list covers it (R131). -/
def SectorMap.protects (m : SectorMap) (sector : Nat) : Bool := m.protection.any (·.covers sector)

/-! ### Pins and outputs -/

/-- HWAIT# is active: an access is BUSY, or a select waits to be taken (Table 11-1, R208). -/
def State.hwait (s : State) : Bool := s.host.state == .busy || s.host.reselect

/-- HD[15:0] as the bridge drives it: read data while DONE, else high impedance (Table 11-1). -/
def State.hd (s : State) : Option Word := if s.host.state = .done then s.host.data else none

/-- HERR# is active: the outcome of a DONE access (Table 11-1). -/
def State.herrPin (s : State) : Bool := s.host.state == .done && s.host.herr

/-- ARST# is active (R92, R112, R212): held, or in the 10 µs of a pulse, the shortest that R212 lets it be (log entry 3,
DESIGN CHOICE), and inactive while the controller then waits for AREADY. -/
def State.arstPin (s : State) : Bool :=
  match s.port.arst with
  | .inactive => false
  | .pulse => decide (s.port.arstTimer < arstLimit)
  | .held => true

/-- The facts of ATTN (R202), and RST# inactive. -/
def State.attnFacts (s : State) : Bool :=
  !s.inReset && (!s.log.records.isEmpty || decide (0 < s.log.unstored) || s.mc.mode == .offline)

/-- The facts of DRAINED (R169), and RST# inactive. -/
def State.drainedFacts (s : State) : Bool :=
  !s.inReset && (s.mc.mode == .run || s.mc.mode == .holding || s.mc.mode == .held)
    && s.queuesEmpty && s.engine.phase == .idle && !s.cru.updatePending && !s.engine.jobPending
    && s.port.direct.isNone

/-- ATTN and DRAINED follow their facts (R169, R202): the end of every event. -/
def refresh (s : State) : State :=
  { s with log := { s.log with attn := s.attnFacts }, mc := { s.mc with drained := s.drainedFacts } }

/-! ### Status stream slots -/

/-- The stream mode code (R205). -/
def Mode.streamCode : Mode → Nat
  | .run => 0
  | .holding => 1
  | .held => 2
  | _ => 3

/-- A REGION_COMMIT of region r is in flight (R64). -/
def State.commitOf (s : State) (r : Nat) : Bool :=
  s.engine.item == .regionCommit && s.engine.itemRegion == some r

/-- The four status lines: STS[3], STS[2], STS[1:0]. -/
def stsValue (b3 b2 : Bool) (low : Nat) : BitVec 4 :=
  BitVec.ofNat 4 (8 * b3.toNat + 4 * b2.toNat + low % 4)

/-- The values of a region slot (R204): 0 on all lines for a DIRECT or READONLY region. -/
def State.regionSlot (s : State) (r : Nat) : BitVec 4 :=
  if s.hasPolicy r .staged then stsValue (s.stalled r) (s.commitOf r) (s.levelCode r) else 0

/-- The values of the device slot (R205). -/
def State.deviceSlot (s : State) : BitVec 4 :=
  stsValue s.log.attn (s.engine.phase != .idle) s.mc.mode.streamCode

end Sys2Proof.Machine
end

