-- ==== Sys2Proof/Machine/Ops.lean ====
section
/-! DEFINITION. The shared operations over the blocks' state: the fault log's reports and removals (chapter 10), the
flash bank's words (R92), completion of a host access (R209), region queues (chapter 2), claims and grants of the array
port (chapter 5), classification of a host access (chapter 1), and the reads and writes it hands on (chapter 3). -/

namespace Sys2Proof.Machine

/-! ### Fault log -/

/-- A report of a kind that merges (Table 10-2). -/
def FaultReport.merges (f : FaultReport) : Bool := f.kind == .writeDropped || f.kind == .writeRefused

/-- A record that a report merges into: same kind, reason and region (R198). -/
def FaultRecord.matches (x : FaultRecord) (f : FaultReport) : Bool :=
  x.report.kind == f.kind && x.report.reason == f.reason && x.report.region == f.region

/-- The newest record after a merge: count + 1 saturating, time last and word address of the report (R198). -/
def FaultRecord.merged (x : FaultRecord) (f : FaultReport) (tick : BitVec 32) : FaultRecord :=
  { x with last := tick, report := { x.report with count := min 65535 (x.report.count + 1), addr := f.addr } }

/-- The log after a report that forms a new record (R197), stored when there is room and else unstored (R199). -/
def FaultLog.form (l : FaultLog) (f : FaultReport) (tick : BitVec 32) : FaultLog :=
  if l.records.length < logLimit then
    { l with records := l.records ++ [{ seq := l.nextSeq, first := tick, last := tick, report := f }]
             nextSeq := l.nextSeq + 1 }
  else { l with unstored := min 255 (l.unstored + 1), nextSeq := l.nextSeq + 1 }

/-- The log after a report: merged into the newest record held, or formed (R197, R198, R199). -/
def FaultLog.take (l : FaultLog) (f : FaultReport) (tick : BitVec 32) : FaultLog :=
  match l.records.getLast? with
  | some x =>
    if f.merges && x.matches f then { l with records := l.records.dropLast ++ [x.merged f tick] }
    else l.form f tick
  | none => l.form f tick

/-- A block passes a report to the fault log (R195). -/
def report (f : FaultReport) (s : State) : State := s.setLog (s.log.take f s.msTick)

/-- The log after FAULT_READ (R200). -/
def FaultLog.removeOldest (l : FaultLog) : FaultLog :=
  match l.records with
  | [] => l
  | [_] => { l with records := [], unstored := 0 }
  | _ :: t => { l with records := t }

/-- The WRITE_REFUSED report of a host write (R10, R14 to R16). -/
def refusal (reason : FaultReason) (region : Option Nat) (addr : HostAddr) : FaultReport :=
  { kind := .writeRefused, region := region, addr := some addr, reason := some reason }

/-! ### The flash bank -/

/-- A word all of whose bits are known. -/
def FlashWord.ofWord (w : Word) : FlashWord := { known := 0xFFFF, value := w }
/-- An erased word: FFFFh (R92). -/
def FlashWord.erased : FlashWord := FlashWord.ofWord 0xFFFF
/-- A word of which nothing is determined. -/
def FlashWord.unknown : FlashWord := { known := 0, value := 0 }

/-- A word after a PROGRAM of V that passes: old AND V (R92). -/
def FlashWord.programmed (x : FlashWord) (v : Word) : FlashWord :=
  { known := x.known ||| ~~~ v, value := x.value &&& v }

/-- A word after a PROGRAM of V that fails or is abandoned: each bit as it was, or cleared where V clears it (R92). -/
def FlashWord.halfProgrammed (x : FlashWord) (v : Word) : FlashWord :=
  { known := x.known &&& (v ||| ~~~ x.value), value := x.value &&& v }

/-- Look up a listed word. -/
def listedWord (ws : List (Nat × FlashWord)) (a : Nat) : Option FlashWord :=
  match ws with
  | [] => none
  | (b, x) :: t => if b = a then some x else listedWord t a

/-- What an unlisted word reads as: erased in an erased sector, else unknown. -/
def FlashBank.unlisted (m : FlashBank) (a : Nat) : FlashWord :=
  if m.erased.contains (a / sectorWords) then .erased else .unknown

/-- What is determined of the word at a physical word address. -/
def FlashBank.read (m : FlashBank) (a : Nat) : FlashWord := (listedWord m.words a).getD (m.unlisted a)

/-- List a word in address order, in place of an earlier listing. -/
def insertWord (a : Nat) (x : FlashWord) : List (Nat × FlashWord) → List (Nat × FlashWord)
  | [] => [(a, x)]
  | (b, y) :: t =>
    if a < b then (a, x) :: (b, y) :: t
    else if a = b then (a, x) :: t
    else (b, y) :: insertWord a x t

/-- Remove a listed word. -/
def removeWord (a : Nat) (ws : List (Nat × FlashWord)) : List (Nat × FlashWord) := ws.filter (·.1 ≠ a)

/-- The bank with a word changed; a word that equals what it would read unlisted is not listed. -/
def FlashBank.write (m : FlashBank) (a : Nat) (x : FlashWord) : FlashBank :=
  if x = m.unlisted a then { m with words := removeWord a m.words }
  else { m with words := insertWord a x m.words }

/-- Insert a sector in rising order. -/
def insertSector (p : Nat) : List Nat → List Nat
  | [] => [p]
  | q :: t => if p < q then p :: q :: t else if p = q then q :: t else q :: insertSector p t

/-- The listed words outside a physical sector. -/
def outsideSector (p : Nat) (ws : List (Nat × FlashWord)) : List (Nat × FlashWord) :=
  ws.filter (fun x => x.1 / sectorWords ≠ p)

/-- The bank after an ERASE of a sector that passes: every word of it FFFFh (R92). -/
def FlashBank.eraseSector (m : FlashBank) (p : Nat) : FlashBank :=
  { erased := insertSector p m.erased, words := outsideSector p m.words }

/-- The bank after a sector's content becomes undefined (R92). -/
def FlashBank.loseSector (m : FlashBank) (p : Nat) : FlashBank :=
  { erased := m.erased.filter (· ≠ p), words := outsideSector p m.words }

/-- Memory is in canonical form: addresses and sectors strictly rising, no listed word equal to what it reads
unlisted. -/
abbrev FlashBank.wf (m : FlashBank) : Prop :=
  m.erased.Pairwise (· < ·) ∧ (m.words.map (·.1)).Pairwise (· < ·) ∧ ∀ x ∈ m.words, x.2 ≠ m.unlisted x.1

/-- The physical word address of an operation: physical sector × 2048 + offset (section 11.3). -/
def ArrayOp.word (o : ArrayOp) : Nat := o.psec * sectorWords + o.offset

/-- The operation code on AOP[2:0] (Table 11-3). -/
def OpKind.aop : OpKind → BitVec 3
  | .read => 0
  | .program => 1
  | .erase => 2
/-- The code of SUSPEND on AOP[2:0] (Table 11-3). -/
def aopSuspend : BitVec 3 := 3
/-- The code of RESUME on AOP[2:0] (Table 11-3). -/
def aopResume : BitVec 3 := 4

/-- The address on AA[20:0] at an issue: the word's, and for an ERASE the sector's with AA[10:0] at 0 (section 11.3). -/
def ArrayOp.aa (o : ArrayOp) : BitVec 21 :=
  BitVec.ofNat 21 (match o.kind with
    | .erase => o.psec * sectorWords
    | .read | .program => o.word)

/-- The bank after an operation reports its end: a READ's word is what its word holds, a PROGRAM and an ERASE leave
what R92 says for pass and for fail. -/
def FlashBank.ended (m : FlashBank) (o : ArrayOp) (pass : Bool) (w : Word) : FlashBank :=
  match o.kind, pass with
  | .read, _ => m.write o.word (.ofWord w)
  | .program, true => m.write o.word ((m.read o.word).programmed o.value)
  | .program, false => m.write o.word ((m.read o.word).halfProgrammed o.value)
  | .erase, true => m.eraseSector o.psec
  | .erase, false => m.loseSector o.psec

/-- The bank after an operation is abandoned by ARST# (R92, R113): one not yet issued leaves it as it was. -/
def FlashBank.abandoned (m : FlashBank) (r : Option RunningOp) : FlashBank :=
  match r with
  | some x =>
    if x.issued then
      match x.op.kind with
      | .read => m
      | .program => m.ended x.op false 0
      | .erase => m.ended x.op false 0
    else m
  | none => m

/-- ARST# abandons whatever the array holds, running or suspended, with its inner operation (R92). -/
def abandonOps (s : State) : State := s.setFlash ((s.flash.abandoned s.port.inner).abandoned s.port.op)

/-! ### Host port -/

/-- Completion of the host access (R209): the port presents the outcome in DONE while HCS# is held for it; when the host
has released HCS# early, or asserted it again, the port passes through DONE to IDLE in the same event. -/
def completeAccess (herr : Bool) (data : Option Word) (s : State) : State :=
  if s.host.state = .busy then
    if s.host.select && !s.host.reselect then
      s.setHost { s.host with state := .done, data := data, herr := herr }
    else s.setHost { s.host with state := .idle, access := none, data := none, herr := false }
  else s

/-- A read completes with an error: FFFFh on both lanes, HERR# active. -/
def failRead (s : State) : State := completeAccess true (some 0xFFFF) s

/-! ### Region queues -/

/-- Change region r's queue. -/
def updateQueue (r : Nat) (f : RegionQueue → RegionQueue) (s : State) : State :=
  s.setQueues (s.queues.modify r f)

/-- The WAITING entry of region r for an address (R22). -/
def State.waitingAt (s : State) (r : Nat) (a : HostAddr) : Option Entry :=
  (s.queue r).find? fun e => e.waits && e.addr == a

/-- The COMMITTING entry of region r for an address (R39). -/
def State.committingAt (s : State) (r : Nat) (a : HostAddr) : Option Entry :=
  (s.queue r).find? fun e => !e.waits && e.addr == a

/-- An entry after a write coalesces into it (R23). -/
def Entry.coalesced (e : Entry) (m : LaneMask) (d : Word) : Entry :=
  { e with data := overlay m d e.data, mask := e.mask.union m }

/-- A write coalesces into region r's WAITING entry for its address (R23). -/
def coalesce (r : Nat) (a : HostAddr) (m : LaneMask) (d : Word) (s : State) : State :=
  updateQueue r (fun q => { q with
    entries := q.entries.map fun e => if e.waits && e.addr == a then e.coalesced m d else e }) s

/-- The entry that a write creates (R24). -/
def State.newEntry (s : State) (r : Nat) (a : HostAddr) (m : LaneMask) (d : Word) : Entry :=
  { addr := a, data := onLanes m d, mask := m, state := .waiting, stamp := s.msTick, region := r }

/-- A new WAITING entry at the tail of region r's queue; FLUSH high marks the region (R24, R37). -/
def appendEntry (r : Nat) (a : HostAddr) (m : LaneMask) (d : Word) (s : State) : State :=
  updateQueue r (fun q =>
    { entries := q.entries ++ [s.newEntry r a m d], flushMark := q.flushMark || s.mc.flushHigh }) s

/-- The stalled write appends when region r's count is below its capacity, and completes accepted (R27, R42). -/
def stalledMayAppend (r : Nat) (s : State) : State :=
  match s.stall with
  | some w =>
    if w.region = r ∧ s.count r < s.capacity r then
      completeAccess false none ((appendEntry r w.addr w.mask w.data s).setStall none)
    else s
  | none => s

/-- Region r keeps the entries that `keep` says, and loses its flush mark when none is left (R38, R42). -/
def keepEntries (r : Nat) (keep : Entry → Bool) (s : State) : State :=
  updateQueue r (fun q =>
    let es := q.entries.filter keep
    { entries := es, flushMark := q.flushMark && !es.isEmpty }) s

/-- Removal of entries from region r's queue with the effects of R42. -/
def removeEntries (r : Nat) (gone : Entry → Bool) (s : State) : State :=
  stalledMayAppend r (keepEntries r (fun e => !gone e) s)

/-- The WAITING entries of region r (R44). -/
def State.waitingCount (s : State) (r : Nat) : Nat := (s.queue r).countP Entry.waits

/-- The WAITING entries of region r in a logical sector (R43). -/
def State.waitingIn (s : State) (r sector : Nat) : Nat :=
  (s.queue r).countP fun e => e.waits && sectorOf e.addr == sector

/-- PURGE of region r: every WAITING entry is discarded, and then the stalled write may append (R27, R44). -/
def purgeRegion (r : Nat) (s : State) : State := removeEntries r Entry.waits s

/-- The flush mark of region r is set when it is STAGED and holds entries (R36). -/
def markRegion (r : Nat) (s : State) : State :=
  if s.hasPolicy r .staged && decide (0 < s.count r) then updateQueue r (fun q => { q with flushMark := true }) s
  else s

/-- The flush mark of every region is set (R36, R37). -/
def markAll (s : State) : State := (List.range s.queues.length).foldl (fun t r => markRegion r t) s

/-- The WAITING entry with which a gather starts, and the sector it gathers (R40). -/
def State.gatherSector (s : State) (r : Nat) : Option Nat :=
  ((s.queue r).find? Entry.waits).map fun e => sectorOf e.addr

/-- The gathered set of region r and sector X, in queue order (R40, R70). -/
def State.gatherSet (s : State) (r sector : Nat) : List GatheredEntry :=
  ((s.queue r).filter fun e => e.waits && sectorOf e.addr == sector).map fun e =>
    { addr := e.addr, data := e.data, mask := e.mask, old := none, differs := false, released := false }

/-- The gather turns the WAITING entries of the sector to COMMITTING (R40). -/
def gatherEntries (r sector : Nat) (s : State) : State :=
  updateQueue r (fun q => { q with
    entries := q.entries.map fun e =>
      if e.waits && sectorOf e.addr == sector then { e with state := .committing } else e }) s

/-- The engine releases the COMMITTING entry of region r for an address (R41). -/
def releaseOne (r : Nat) (a : HostAddr) (s : State) : State :=
  removeEntries r (fun e => !e.waits && e.addr == a) s

/-- The engine releases every COMMITTING entry of region r (R41). -/
def releaseAll (r : Nat) (s : State) : State := removeEntries r (fun e => !e.waits) s

/-- The queues of a newly installed image: empty, unmarked (R19). -/
def emptyQueues (im : SetupImage) : List RegionQueue := im.regions.map fun _ => { entries := [], flushMark := false }

/-! ### Array port: claims and grants -/

/-- The attempt counts that the issue of an operation raises (R77, R73, R109). -/
def countAttempt (o : ArrayOp) (s : State) : State :=
  match o.issuer, o.kind with
  | .engine, .erase => s.setEngine { s.engine with eraseAttempts := s.engine.eraseAttempts + 1 }
  | .engine, .program => s.setEngine { s.engine with programAttempts := s.engine.programAttempts + 1 }
  | .directWrite, _ =>
    s.setPort { s.port with direct := s.port.direct.map fun d => { d with attempts := d.attempts + 1 } }
  | _, _ => s

/-- The read in PORT_WAIT enters READING when its READ is issued to the array (R51). -/
def readIssued (x : RunningOp) (s : State) : State :=
  if x.issued && x.op.issuer == .hostRead && s.reader.state == .portWait then s.setReader { s.reader with state := .reading } else s

/-- The controller grants a claim in a FREE port: the operation is issued and the port is RUNNING (R95). During an ARST#
pulse it is issued when the pulse ends (R212, log entry 14). -/
def issueOp (o : ArrayOp) (s : State) : State :=
  let x : RunningOp := { op := o, timer := 0, issued := s.port.arst == .inactive }
  let s := countAttempt o s
  readIssued x (s.setPort { s.port with state := .running, op := some x
                                        suspCount := if o.kind = .erase then 0 else s.port.suspCount })

/-- The arbiter of a FREE port: the host claim first, then the engine-side claim (R95). -/
def grant (s : State) : State :=
  if s.port.state = .free then
    match s.port.hostClaim with
    | some o => issueOp o s
    | none =>
      match s.port.engClaim with
      | some o => issueOp o s
      | none => s
  else s

/-- An ERASE is in progress in a RUNNING port, issued to the array. -/
def State.eraseRunning (s : State) : Bool :=
  s.port.state == .running &&
    match s.port.op with
    | some x => x.issued && x.op.kind == .erase
    | none => false

/-- A host claim that meets a RUNNING ERASE suspends it while the erase's count is below the limit (R97). -/
def considerSuspend (s : State) : State :=
  if s.eraseRunning && s.port.hostClaim.isSome && decide (s.port.suspCount < s.suspendLimit) then
    s.setPort { s.port with state := .suspending, ackTimer := 0 }
  else s

/-- A host claim is raised (R94): a FREE port grants it, a RUNNING ERASE may be suspended for it (R97), and otherwise it
waits (R96, R100). -/
def raiseHostClaim (o : ArrayOp) (s : State) : State :=
  considerSuspend (grant (s.setPort { s.port with hostClaim := some o }))

/-- An engine-side claim is raised (R94). It is granted at the end of the event, after any host claim (R95). -/
def raiseEngineClaim (o : ArrayOp) (s : State) : State := s.setPort { s.port with engClaim := some o }

/-! ### Reads (chapter 3) -/

/-- The merge buffer is valid for a logical sector (R49, R81). -/
def State.mergeHit (s : State) (sector : Nat) : Bool :=
  s.engine.mergeValid && s.engine.mergeSector == some sector

/-- A merge buffer word. -/
def Engine.mergeWord (e : Engine) (offset : Nat) : Word := (e.merge[offset]?).getD 0xFFFF

/-- An entry's bytes over a word, lane by lane under its mask; no entry leaves it (R49). -/
def overlayEntry (e : Option Entry) (w : Word) : Word :=
  match e with
  | some x => overlay x.mask x.data w
  | none => w

/-- The COMMITTING overlay and then the WAITING overlay of an address over a base word (R49). -/
def State.overlays (s : State) (r : Nat) (a : HostAddr) (base : Word) : Word :=
  overlayEntry (s.waitingAt r a) (overlayEntry (s.committingAt r a) base)

/-- Assembly of a read word from an array word and the sources as they stand (R49, R51, R59): a DIRECT or READONLY
region takes the array word with no overlay. -/
def State.assemble (s : State) (x : ReadAccess) (arrayWord : Word) : Word :=
  if x.policy = .staged then
    let base := if s.mergeHit (sectorOf x.addr) then s.engine.mergeWord (offsetOf x.addr) else arrayWord
    s.overlays x.region x.addr base
  else arrayWord

/-- The lanes of an optional entry's mask, as word bits. -/
def entryBits (e : Option Entry) : Word :=
  match e with
  | some x => x.mask.bits
  | none => 0

/-- A read of a STAGED region is fast (R50): the merge buffer is valid for its sector, or the COMMITTING and WAITING
masks cover both lanes. -/
def State.fastRead (s : State) (x : ReadAccess) : Bool :=
  x.policy == .staged &&
    (s.mergeHit (sectorOf x.addr) ||
      (entryBits (s.committingAt x.region x.addr) ||| entryBits (s.waitingAt x.region x.addr)) == 0xFFFF)

/-- An ERASE_JOB or CLEAR_STEP of a sector is in flight, and has not finished with it (R56). -/
def State.eraseHeld (s : State) (sector : Nat) : Bool :=
  (s.engine.item == .eraseJob || s.engine.item == .clearStep) && s.engine.itemSector == some sector

/-- The READ of a host read. -/
def ReadAccess.op (x : ReadAccess) : ArrayOp :=
  { kind := .read, psec := x.psec, offset := offsetOf x.addr, value := 0, issuer := .hostRead }

/-- A read claims the array port (R50, R58). -/
def claimRead (x : ReadAccess) (s : State) : State :=
  raiseHostClaim x.op (s.setReader { state := .portWait, access := some x })

/-- The read in hand is over: the assembler returns to IDLE (R48) and the port completes the access. -/
def endRead (herr : Bool) (w : Word) (s : State) : State :=
  completeAccess herr (some w) (s.setReader { state := .idle, access := none })

/-- The assembler takes a read that classification hands on (R48): held in ERASE_HOLD (R56), fast (R50), or claiming the
port (R58, R59). A read of a running job's sector that a SETUP_LOAD made STAGED, with both lanes staged, is fast by R50
and held by R56; the model tests the hold first (log entry 33, DESIGN CHOICE). -/
def takeRead (x : ReadAccess) (s : State) : State :=
  if s.eraseHeld (sectorOf x.addr) then s.setReader { state := .eraseHold, access := some x }
  else if s.fastRead x then endRead false (s.assemble x 0xFFFF) s
  else claimRead x s

/-! ### Writes -/

/-- A staged write reaches the queue manager (R22): coalesce, append or stall. -/
def stagedWrite (r : Nat) (a : HostAddr) (m : LaneMask) (d : Word) (s : State) : State :=
  if (s.waitingAt r a).isSome then completeAccess false none (coalesce r a m d s)
  else if s.count r < s.capacity r then completeAccess false none (appendEntry r a m d s)
  else s.setStall (some { region := r, addr := a, mask := m, data := d, timer := 0 })

/-- The PROGRAM of a direct write (R108). -/
def DirectWrite.op (d : DirectWrite) : ArrayOp :=
  { kind := .program, psec := d.psec, offset := offsetOf d.addr, value := d.value, issuer := .directWrite }

/-- A direct write claims the port with its attempts counted from 0 (R108, R110). -/
def claimDirect (d : DirectWrite) (s : State) : State :=
  let d := { d with held := false, attempts := 0 }
  raiseHostClaim d.op (s.setPort { s.port with direct := some d })

/-- An ERASE_JOB of a sector is in flight (R110). -/
def State.jobHeld (s : State) (sector : Nat) : Bool :=
  s.engine.item == .eraseJob && s.engine.itemSector == some sector

/-- A direct write is handed on (R108): held on the sector of an ERASE_JOB in flight (R110), else claiming the port. -/
def directWrite (r : Nat) (a : HostAddr) (p : Nat) (m : LaneMask) (d : Word) (s : State) : State :=
  let w : DirectWrite := { region := r, addr := a, psec := p, value := onLanes m d, attempts := 0, held := false }
  if s.jobHeld (sectorOf a) then s.setPort { s.port with direct := some { w with held := true } }
  else claimDirect w s

/-- The region that a report of a direct write in progress names. R3 and R109 read as the region of its classification, and
Table 10-2 note 3 says the number under the image in force at the report; the two differ only when a SETUP_LOAD came
while the write was in progress (R164). The model takes the image in force (log entry 32, DESIGN CHOICE), and the
region of classification where that image has none for the sector. -/
def State.reportRegion (s : State) (d : DirectWrite) : Nat := (s.regionOf (sectorOf d.addr)).getD d.region

/-- The direct write in progress ends: its claim and the "in progress" report go (R94, R109). -/
def endDirect (herr : Bool) (s : State) : State :=
  completeAccess herr none (s.setPort { s.port with direct := none, hostClaim := none })

/-! ### Classification (chapter 1) -/

/-- A write refused by device mode is counted, saturating (R13, R160). -/
def countRefused (s : State) : State := s.setMc { s.mc with refused := min 65535 (s.mc.refused + 1) }

/-- A write is refused with a WRITE_REFUSED report: it completes with HERR# and changes nothing else. -/
def refuseWrite (reason : FaultReason) (region : Option Nat) (a : HostAddr) (s : State) : State :=
  completeAccess true none (report (refusal reason region a) s)

/-- An access refused at once, with no report: HERR#, and FFFFh for a read. -/
def refuseSilently (p : HostPins) (s : State) : State :=
  if p.write then completeAccess true none s else failRead s

/-- Steps 3 to 7 of Table 1-3 for a write to a sector that is not retired, in region r (R15, R16, R17). -/
def classifyWrite (p : HostPins) (r : Nat) (psec : Nat) (s : State) : State :=
  if s.map.protects (sectorOf p.addr) then refuseWrite .protectedSector (some r) p.addr s
  else if s.hasPolicy r .readonly then refuseWrite .readonlyRegion (some r) p.addr s
  else match lanesOf p.lane0 p.lane1 with
    | none => completeAccess false none s
    | some m =>
      if s.hasPolicy r .direct then directWrite r p.addr psec m p.data s
      else stagedWrite r p.addr m p.data s

/-- Steps 3 to 7 of Table 1-3 for an access inside the window, in region r (R14 to R17, R48). -/
def classifyInRegion (p : HostPins) (r : Nat) (g : RegionRec) (s : State) : State :=
  match s.map.translate (sectorOf p.addr) with
  | none => if p.write then refuseWrite .retiredSector (some r) p.addr s else failRead s
  | some psec =>
    if p.write then classifyWrite p r psec s
    else takeRead { addr := p.addr, region := r, policy := g.policy, psec := psec } s

/-- Steps 2 to 7 of Table 1-3 for an access inside the window (R12, R13). The regions of the image in force tile the
window, so that the sector has a region; where none had it, the access would end with HERR# (log entry 24). -/
def classifyInside (p : HostPins) (s : State) : State :=
  if s.mc.mode = .offline then refuseSilently p s
  else if p.write && (s.mc.mode == .holding || s.mc.mode == .held || s.mc.mode == .clearing) then
    completeAccess true none (countRefused s)
  else match s.regionOf (sectorOf p.addr) with
    | none => refuseSilently p s
    | some r =>
      match s.region? r with
      | none => refuseSilently p s
      | some g => classifyInRegion p r g s

/-- The window decoder classifies an access by the steps of Table 1-3, in order (R9, R10). -/
def classify (p : HostPins) (s : State) : State :=
  if s.window ≤ sectorOf p.addr then
    if p.write then refuseWrite .outsideWindow none p.addr s else failRead s
  else classifyInside p s

/-- The host port takes a select as an arrival (R208): the pins are sampled, the port is BUSY, and the access is
classified, or held while the mode is STARTUP (R11). -/
def arrive (p : HostPins) (s : State) : State :=
  let s := s.setHost { s.host with state := .busy, access := some p, data := none, herr := false
                                   select := true, pins := p, reselect := false }
  if s.mc.mode = .startup then s else classify p s

/-- A select that became active while the port held an access is taken as an arrival when the port is IDLE again, with
the pins as they stand then (R208, R209). -/
def takeReselect (s : State) : State :=
  if s.host.state = .idle ∧ s.host.reselect then arrive s.host.pins s else s

end Sys2Proof.Machine
end

