-- ==== Sys2Proof/Machine/Engine.lean ====
section
/-! DEFINITION. The commit engine (chapter 4) with relocation (chapter 6): what it does at the start of a work item, with
the end of each of its operations, and at the end of the item; and the sector map's and control record unit's effects
that it causes. Its next operation is raised as an engine-side claim, which the arbiter grants at the end of the event. -/

namespace Sys2Proof.Machine

/-! ### Parts of the engine's state -/

/-- The engine with every item field back to idle (R80, R84, R86, R89): the merge buffer is invalid and absent, since
only a REGION_COMMIT validates it (R81). The buffer words, the last served region and the job fields stay. -/
def Engine.toIdle (e : Engine) : Engine :=
  { e with phase := .idle, item := .none, itemRegion := none, itemSector := none, itemPhys := none, path := none
           boundReloc := false, gathered := [], entryCount := 0, mergeSector := none, mergeValid := false
           eraseAttempts := 0, programAttempts := 0, spareOnTrial := none
           cursor := 0, record := [], recordGen := 0, try2 := false }

/-- The engine's operation on its item physical sector. -/
def Engine.op (e : Engine) (kind : OpKind) (offset : Nat) (value : Word) : ArrayOp :=
  { kind := kind, psec := e.itemPhys.getD 0, offset := offset, value := value, issuer := .engine }

/-- The logical sector of the item in flight. -/
def Engine.sector (e : Engine) : Nat := e.itemSector.getD 0

/-- The engine raises a READ of its item physical sector. -/
def engineRead (offset : Nat) (s : State) : State := raiseEngineClaim (s.engine.op .read offset 0) s

/-- The engine raises the first PROGRAM attempt of a word of its item physical sector. -/
def engineProgram (offset : Nat) (value : Word) (s : State) : State :=
  raiseEngineClaim (s.engine.op .program offset value) (s.setEngine { s.engine with programAttempts := 0 })

/-- The engine enters a phase and raises the first ERASE attempt on a physical sector, attempts counted from 0 (R77,
R79). -/
def engineErase (phase : Phase) (psec : Nat) (s : State) : State :=
  let e := { s.engine with phase := phase, itemPhys := some psec, eraseAttempts := 0 }
  raiseEngineClaim (e.op .erase 0 0) (s.setEngine e)

/-- The update-pending flag is set (R141). -/
def setUpdatePending (s : State) : State := s.setCru { s.cru with updatePending := true }

/-! ### Accesses held on a job or clear sector -/

/-- A read held in ERASE_HOLD on sector X goes on (R57): its sector is translated again. -/
def releaseHeldRead (sector : Nat) (s : State) : State :=
  match s.reader.access with
  | some x =>
    if s.reader.state = .eraseHold ∧ sectorOf x.addr = sector then
      match s.map.translate sector with
      | some p => claimRead { x with psec := p } s
      | none => endRead true 0xFFFF s
    else s
  | none => s

/-- A direct write held on sector X goes on (R110): its sector is translated again; a retired sector refuses it, with the
region that `reportRegion` names (log entry 32, DESIGN CHOICE). -/
def releaseHeldWrite (sector : Nat) (s : State) : State :=
  match s.port.direct with
  | some d =>
    if d.held ∧ sectorOf d.addr = sector then
      match s.map.translate sector with
      | some p => claimDirect { d with psec := p } s
      | none => endDirect true (report (refusal .retiredSector (some (s.reportRegion d)) d.addr) s)
    else s
  | none => s

/-- The work item is finished with sector X: accesses held on it leave their holds (R57, R110). -/
def releaseHolds (sector : Nat) (s : State) : State := releaseHeldWrite sector (releaseHeldRead sector s)

/-! ### Ends of work items -/

/-- The end of a REGION_COMMIT (R80). -/
def endCommit (s : State) : State :=
  s.setEngine { s.engine.toIdle with lastServed := s.engine.itemRegion }

/-- A REGION_COMMIT whose gather is empty ends at once, with the last served region as it was (R69). -/
def endEmptyCommit (s : State) : State := s.setEngine s.engine.toIdle

/-- The end of an ERASE_JOB (R84). -/
def endJob (result : JobResult) (s : State) : State :=
  let x := s.engine.sector
  releaseHolds x (s.setEngine { s.engine.toIdle with jobPending := false, jobSector := none, lastJobResult := result })

/-- The completion of ARRAY_CLEAR (R87): the protection list is emptied, the update-pending flag set, and the mode
returns to HELD. -/
def completeClear (s : State) : State :=
  setUpdatePending ((s.setMap { s.map with protection := [] }).setMc { s.mc with mode := .held })

/-- The end of a CLEAR_STEP (R86): the progress index passes the step's sector, and at W the clear is complete. -/
def endClearStep (s : State) : State :=
  let x := s.engine.sector
  let s := releaseHolds x ((s.setEngine s.engine.toIdle).setMc { s.mc with clearIndex := x + 1 })
  if s.window ≤ x + 1 then completeClear s else s

/-- The end of a CONTROL_UPDATE that succeeded (R89, R145). -/
def endUpdateGood (s : State) : State :=
  let target := if s.engine.itemPhys = some (copySector .b) then Copy.b else Copy.a
  (s.setCru { s.cru with current := some target, generation := s.engine.recordGen, healthGood := true }).setEngine
    s.engine.toIdle

/-- The CONTROL_WRITE_FAILED report of a failed update (R146). -/
def controlFailure (psec : Nat) (reason : FaultReason) (s : State) : State :=
  let s := report { kind := .controlWriteFailed, psec := some psec, reason := some reason } s
  s.setCru { s.cru with healthGood := false }

/-- The end of a CONTROL_UPDATE that failed (R89, R146). -/
def endUpdateBad (reason : FaultReason) (s : State) : State :=
  let s := controlFailure (s.engine.itemPhys.getD 0) reason s
  s.setEngine s.engine.toIdle

/-- The item in flight ends after its relocation, with the last job result that the outcome gives (R124 to R126). -/
def endRelocated (result : JobResult) (s : State) : State :=
  match s.engine.item with
  | .regionCommit => endCommit s
  | .eraseJob => endJob result s
  | .clearStep => endClearStep s
  | _ => s

/-! ### Relocation (chapter 6) -/

/-- A spare becomes BAD (R123). -/
def markSpareBad (i : Nat) (s : State) : State :=
  let s := s.setMap { s.map with bad := s.map.bad ||| BitVec.ofNat 32 (2 ^ i) }
  setUpdatePending (report { kind := .spareBad, spare := some i, psec := some (spareSector i) } s)

/-- The remap table with sector X's entry set to a target: re-pointed in its place, or added at the end (R117). -/
def SectorMap.setEntry (m : SectorMap) (sector : Nat) (target : Option Nat) : SectorMap :=
  if (m.entryOf sector).isSome then
    { m with remap := m.remap.map fun e => if e.sector == sector then { e with target := target } else e }
  else { m with remap := m.remap ++ [{ sector := sector, target := target }] }

/-- The spare that X's entry names, which becomes BAD when the entry is re-pointed or set to NONE (R124, R125). -/
def markOldSpare (old : Option RemapEntry) (s : State) : State :=
  match old.bind (·.target) with
  | some j => markSpareBad j s
  | none => s

/-- The outcome REMAPPED: sector X's home is spare i (R124). -/
def remapTo (i : Nat) (s : State) : State :=
  let x := s.engine.sector
  let old := s.map.entryOf x
  let psec := (s.map.translate x).getD x
  let s := s.setMap (s.map.setEntry x (some i))
  let s := report { kind := .sectorRemapped, lsec := some x, spare := some i, psec := some psec } s
  endRelocated .remapped (setUpdatePending (markOldSpare old s))

/-- Discard of the WAITING entries of region r in sector X (R43). -/
def discardSector (r sector : Nat) (s : State) : State :=
  keepEntries r (fun e => !(e.waits && sectorOf e.addr == sector)) s

/-- After a retirement discard: a stalled write to the sector is refused (R30), and one to another sector of the region
may append (R27). -/
def stalledAfterRetirement (r sector : Nat) (s : State) : State :=
  match s.stall with
  | some w =>
    if sectorOf w.addr = sector then
      refuseWrite .retiredSector (some w.region) w.addr (s.setStall none)
    else stalledMayAppend r s
  | none => s

/-- The region whose WAITING entries a retirement of the item sector discards (R43): a commit's, and for a job or clear step
the region of the sector in the image in force, whose queue is empty unless a SETUP_LOAD made it STAGED while the job ran
(log entry 31). -/
def State.retiringRegion (s : State) : Nat :=
  if s.engine.item = .regionCommit then s.engine.itemRegion.getD 0
  else (s.regionOf s.engine.sector).getD 0

/-- The outcome RETIRED (R125), its report's count formed by R127: the entries gathered and the entries discarded. R127 also
says that the sum cannot exceed 2048, which new WAITING entries of X after the release at the end of LOAD (R74) may
break; the model reports the plain sum (log entry 34, DESIGN CHOICE). -/
def retireSector (s : State) : State :=
  let x := s.engine.sector
  let old := s.map.entryOf x
  let r := s.retiringRegion
  let lost := if s.engine.item = .regionCommit then s.engine.entryCount + s.waitingIn r x else 0
  let s := discardSector r x (s.setMap (s.map.setEntry x none))
  let s := report { kind := .sectorRetired, lsec := some x, count := lost } s
  endRelocated .retired (stalledAfterRetirement r x (setUpdatePending (markOldSpare old s)))

/-- The outcome DATA_LOST/TABLE_FULL (R126), its count formed by R127. -/
def loseData (s : State) : State :=
  let lost := if s.engine.item = .regionCommit then s.engine.entryCount else 0
  endRelocated .none
    (report { kind := .dataLost, lsec := some s.engine.sector, reason := some .tableFull, count := lost } s)

/-- The engine asks for a spare and puts it on trial, or retires the sector when there is none (R118, R125). -/
def trySpare (s : State) : State :=
  match s.lowestFree with
  | some i =>
    engineErase .relocate (spareSector i) (s.setEngine { s.engine with spareOnTrial := some i, cursor := 0 })
  | none => retireSector s

/-- The remap table can record the outcome of a relocation of the item sector (R119). -/
def State.hasRoom (s : State) : Bool :=
  (s.map.entryOf s.engine.sector).isSome || decide (s.map.remap.length < remapLimit)

/-- The work item enters RELOCATE: the room check of R119, and then the first spare. -/
def enterRelocate (s : State) : State :=
  let s := s.setEngine { s.engine with phase := .relocate }
  if s.hasRoom then trySpare s else loseData s

/-- A spare's trial ends in failure: it becomes BAD and the engine asks again (R118, R123). -/
def spareFails (s : State) : State := trySpare (markSpareBad (s.engine.spareOnTrial.getD 0) s)

/-- A spare's trial ends in success (R124). -/
def spareSucceeds (s : State) : State := remapTo (s.engine.spareOnTrial.getD 0) s

/-! ### REGION_COMMIT -/

/-- The engine enters LOAD: READs of offsets 0 to 2047 into the merge buffer (R74). -/
def enterLoad (s : State) : State :=
  engineRead 0 (s.setEngine { s.engine with phase := .load, path := some .load, cursor := 0
                                            mergeSector := s.engine.itemSector, mergeValid := false })

/-- The next word of the merge buffer at or above an offset that is not FFFFh (R78). -/
def Engine.nextToWrite (e : Engine) (start : Nat) : Option Nat :=
  (List.range sectorWords).find? fun o => decide (start ≤ o) && e.mergeWord o != 0xFFFF

/-- The next offset at or above a start whose entry's target differed from its loaded word (R76). -/
def Engine.nextToProgram (e : Engine) (start : Nat) : Option Nat :=
  (List.range sectorWords).find? fun o =>
    decide (start ≤ o) && e.gathered.any fun g => g.differs && offsetOf g.addr == o

/-- The image is written from an offset on, into the item physical sector (R78) or the spare on trial (R120). -/
def writeImage (start : Nat) (s : State) : State :=
  match s.engine.nextToWrite start with
  | some o => engineProgram o (s.engine.mergeWord o) s
  | none => if s.engine.phase = .relocate then spareSucceeds s else endCommit s

/-- Changed words are programmed from an offset on (R76). -/
def programChanged (start : Nat) (s : State) : State :=
  match s.engine.nextToProgram start with
  | some o => engineProgram o (s.engine.mergeWord o) s
  | none => endCommit s

/-- An entry of the gathered set is released (R41, R73). -/
def releaseGathered (g : GatheredEntry) (s : State) : State :=
  let gs := s.engine.gathered.map fun x => if x.addr == g.addr then { x with released := true } else x
  releaseOne (s.engine.itemRegion.getD 0) g.addr (s.setEngine { s.engine with gathered := gs })

/-- The target of a gathered entry whose old word is known (R71). -/
def GatheredEntry.target (g : GatheredEntry) : Word := targetWord g.mask g.data (g.old.getD 0xFFFF)

/-- PROGRAM on the GATHER path, over the entries that remain (R73): an entry whose target is its old word is released at
once; the first other one is programmed; after the last one the commit ends. -/
def programGathered : List GatheredEntry → State → State
  | [], s => endCommit s
  | g :: rest, s =>
    if g.released then programGathered rest s
    else if g.old = some g.target then programGathered rest (releaseGathered g s)
    else engineProgram (offsetOf g.addr) g.target s

/-- A gathered entry with the word at its address filled in: old word and target-differs note (R72, R74). -/
def GatheredEntry.withOld (g : GatheredEntry) (w : Word) : GatheredEntry :=
  { g with old := some w, differs := targetWord g.mask g.data w != w }

/-- The READ of a gathered address ends in phase GATHER (R72): the first entry still without its old word takes it. -/
def gatherRead (w : Word) (s : State) : State :=
  match s.engine.gathered.findIdx? (·.old.isNone) with
  | none => s
  | some k =>
    let gs := s.engine.gathered.modify k (·.withOld w)
    let s := s.setEngine { s.engine with gathered := gs }
    if gs.any fun g => g.old.isSome && !feasible g.mask g.data (g.old.getD 0) then enterLoad s
    else match gs.find? (·.old.isNone) with
      | some g => engineRead (offsetOf g.addr) s
      | none => programGathered gs (s.setEngine { s.engine with phase := .program })

/-- The end of LOAD (R74): entries still COMMITTING are decided against the loaded words and applied, the merge buffer
becomes valid, and they are released together. The loaded word of an entry released before holds its target. -/
def applyGathered (e : Engine) : Engine :=
  let gs := e.gathered.map fun g =>
    if g.released then { g with differs := false } else g.withOld (e.mergeWord (offsetOf g.addr))
  let m := gs.foldl (fun m g =>
    if g.released then m else m.setIfInBounds (offsetOf g.addr) (g.target)) e.merge
  { e with gathered := gs, merge := m, mergeValid := true }

/-- Whether an entry applied at the end of LOAD was infeasible (R75). -/
def Engine.someInfeasible (e : Engine) : Bool :=
  e.gathered.any fun g => !g.released && !feasible g.mask g.data (g.old.getD 0)

/-- The end of LOAD and the choice of the next phase (R74, R75). The release comes before the phase is chosen: a stalled write
of the region appends at it (R27, R41), a write to X too when this event goes on to retire X, whose discard then takes the
new entry and counts it as lost. That R30 does not refuse that write is log entry 36 (DESIGN CHOICE). -/
def endOfLoad (s : State) : State :=
  let e := applyGathered s.engine
  let infeasible := e.someInfeasible
  let changed := e.gathered.any fun g => !g.released && g.differs
  let e' := { e with gathered := e.gathered.map fun g => { g with released := true } }
  let s := releaseAll (e.itemRegion.getD 0) (s.setEngine e')
  if e.boundReloc then enterRelocate s
  else if infeasible then engineErase .erase (s.engine.itemPhys.getD 0) s
  else if changed then programChanged 0 (s.setEngine { s.engine with phase := .program })
  else endCommit s

/-- The end of LOAD is to retire X: the commit is bound for RELOCATE, and no spare is FREE (R75, R118, R119). -/
def State.loadRetires (s : State) : Bool := s.engine.boundReloc && s.hasRoom && s.lowestFree.isNone

/-- A read of the item sector has claimed the port and waits for its READ (R58). -/
def State.itemReadWaits (s : State) : Bool :=
  s.port.hostClaim.isSome && s.reader.state == .portWait
    && s.reader.access.any fun x => sectorOf x.addr == s.engine.sector

/-- The last LOAD word has arrived. The end of LOAD is taken at once, but where it would retire X while a read of X waits for
the port: that read completes before the engine goes on (R51, R60), and LOAD ends with it (log entry 35, DEDUCED). -/
def lastWordLoaded (s : State) : State := if s.loadRetires && s.itemReadWaits then s else endOfLoad s

/-- A LOAD word arrives (R74). -/
def loadRead (w : Word) (s : State) : State :=
  let o := s.engine.cursor
  let s := s.setEngine { s.engine with merge := s.engine.merge.setIfInBounds o w, cursor := o + 1 }
  if o + 1 < sectorWords then engineRead (o + 1) s else lastWordLoaded s

/-- Every word of LOAD has arrived, and its end waits for a read of X (log entry 35). -/
def State.endOfLoadWaits (s : State) : Bool :=
  s.engine.phase == .load && s.engine.cursor == sectorWords && s.port.engClaim.isNone

/-- The end of LOAD, if it waited for the host read that has just ended. -/
def endWaitingLoad (s : State) : State := if s.endOfLoadWaits then endOfLoad s else s

/-- A REGION_COMMIT of region r starts (R69, R70): the gather, and the choice of path. -/
def startCommit (r : Nat) (s : State) : State :=
  let s := s.setEngine { s.engine with item := .regionCommit, itemRegion := some r, phase := .gather }
  match s.gatherSector r with
  | none => endEmptyCommit s
  | some x =>
    let gs := s.gatherSet r x
    let psec := (s.map.translate x).getD x
    let s := gatherEntries r x s
    let s := s.setEngine { s.engine with itemSector := some x, itemPhys := some psec, gathered := gs
                                         entryCount := gs.length, path := some .gather, cursor := 0 }
    if gs.length ≤ gatherLimit then engineRead ((gs.head?.map fun g => offsetOf g.addr).getD 0) s
    else enterLoad s

/-! ### ERASE_JOB, CLEAR_STEP and CONTROL_UPDATE -/

/-- The start check of an ERASE_JOB (R84): inside the window, in a DIRECT region, not protected, not retired. -/
def State.jobMayStart (s : State) (sector : Nat) : Bool :=
  decide (sector < s.window)
    && (match s.regionOf sector with
        | some r => s.hasPolicy r .direct
        | none => false)
    && !s.map.protects sector && (s.map.translate sector).isSome

/-- A selection takes the ERASE_JOB (R84). -/
def startJob (s : State) : State :=
  let x := s.engine.jobSector.getD 0
  if s.jobMayStart x then
    engineErase .jobErase ((s.map.translate x).getD x)
      (s.setEngine { s.engine with item := .eraseJob, itemSector := some x })
  else endJob .none s

/-- The first sector at or above the progress index that is not retired, or W (R86). -/
def State.nextToClear (s : State) : Nat :=
  ((List.range s.window).find? fun k => decide (s.mc.clearIndex ≤ k) && (s.map.translate k).isSome).getD s.window

/-- A selection takes CLEAR_STEP (R86): the progress index passes retired sectors; at W the clear is complete. -/
def startClearStep (s : State) : State :=
  let k := s.nextToClear
  let s := s.setMc { s.mc with clearIndex := k }
  if s.window ≤ k then completeClear s
  else engineErase .clearErase ((s.map.translate k).getD k)
    (s.setEngine { s.engine with item := .clearStep, itemSector := some k })

/-- The target of a CONTROL_UPDATE: the copy that is not current, and A when none is (R142). -/
def targetCopy : Option Copy → Copy
  | some .a => .b
  | _ => .a

/-- The record that a CONTROL_UPDATE builds from the live tables (R143, R144). -/
def State.liveRecord (s : State) (im : SetupImage) : ControlRecord :=
  { generation := s.cru.generation + 1, image := im
    protection := s.map.protection, remap := s.map.remap, bad := s.map.bad }

/-- A try of a CONTROL_UPDATE begins (R88). -/
def startTry (s : State) : State :=
  engineErase .controlErase (s.engine.itemPhys.getD 0) (s.setEngine { s.engine with cursor := 0 })

/-- A selection takes CONTROL_UPDATE (R88): the flag is cleared and the image built, or the item fails at once with
GENERATION_LIMIT. A control update runs only with an image in force; where there were none, its image would be the
empty one (log entry 24). -/
def startUpdate (s : State) : State :=
  let s := s.setCru { s.cru with updatePending := false }
  let target := copySector (targetCopy s.cru.current)
  if generationLimit ≤ s.cru.generation then controlFailure target .generationLimit s
  else
    let im := s.image.getD { version := 0, spares := 0, suspendLimit := 0, regions := [] }
    let rec' := s.liveRecord im
    startTry (s.setEngine { s.engine with item := .controlUpdate, itemPhys := some target, try2 := false
                                          record := recordWords rec', recordGen := rec'.generation })

/-- A try of a CONTROL_UPDATE fails (R89): a second try with the same target, image and generation, or the item fails
with the reason of the second. -/
def tryFails (reason : FaultReason) (s : State) : State :=
  if s.engine.try2 then endUpdateBad reason s else startTry (s.setEngine { s.engine with try2 := true })

/-- The PROGRAM of record word k in CONTROL_WRITE, or the start of CONTROL_VERIFY after the last (R88). -/
def writeRecordFrom (k : Nat) (s : State) : State :=
  match s.engine.record[k]? with
  | some w => engineProgram k w (s.setEngine { s.engine with phase := .controlWrite, cursor := k })
  | none => engineRead 0 (s.setEngine { s.engine with phase := .controlVerify, cursor := 0 })

/-- A word arrives in CONTROL_VERIFY (R88, R89). -/
def verifyRead (w : Word) (s : State) : State :=
  let k := s.engine.cursor
  if s.engine.record[k]? = some w then
    if k + 1 < s.engine.record.length then engineRead (k + 1) (s.setEngine { s.engine with cursor := k + 1 })
    else endUpdateGood s
  else tryFails .verify s

/-! ### The ends of the engine's operations -/

/-- A READ of the engine ends with its word (R72, R74, R88). -/
def engineReadEnd (w : Word) (s : State) : State :=
  match s.engine.phase with
  | .gather => gatherRead w s
  | .load => loadRead w s
  | .controlVerify => verifyRead w s
  | _ => s

/-- A READ of the engine reaches its time limit (R82): it is issued again, or fails a control verify. -/
def engineReadTimeout (o : ArrayOp) (s : State) : State :=
  match s.engine.phase with
  | .controlVerify => tryFails .verify s
  | _ => raiseEngineClaim o s

/-- The first entry of the gathered set not yet released: the one whose PROGRAM is under way (R73). -/
def Engine.underProgram (e : Engine) : Option GatheredEntry := e.gathered.find? fun g => !g.released

/-- A PROGRAM of the engine passes (R73, R76, R78, R88, R120). -/
def engineProgramPass (o : ArrayOp) (s : State) : State :=
  match s.engine.phase with
  | .program =>
    if s.engine.path = some .gather then
      match s.engine.underProgram with
      | some g =>
        let s := releaseGathered g s
        programGathered s.engine.gathered s
      | none => endCommit s
    else programChanged (o.offset + 1) s
  | .writeback => writeImage (o.offset + 1) s
  | .relocate => writeImage (o.offset + 1) s
  | .controlWrite => writeRecordFrom (s.engine.cursor + 1) s
  | _ => s

/-- The second failed attempt of a word (R73, R76, R78, R120). -/
def programExhausted (s : State) : State :=
  match s.engine.phase with
  | .program =>
    if s.engine.path = some .gather then enterLoad (s.setEngine { s.engine with boundReloc := true })
    else enterRelocate s
  | .writeback => enterRelocate s
  | .relocate => spareFails s
  | _ => s

/-- A PROGRAM of the engine fails or times out (R73, R76, R78, R88, R120): a second attempt of the same word, or what
two failed attempts lead to; within a control try there is one attempt. -/
def engineProgramFail (o : ArrayOp) (s : State) : State :=
  if s.engine.phase = .controlWrite then tryFails .program s
  else if s.engine.programAttempts < programTries then raiseEngineClaim o s
  else programExhausted s

/-- An ERASE of the engine passes (R77, R84, R86, R88, R120, R121). -/
def engineErasePass (s : State) : State :=
  match s.engine.phase with
  | .erase => writeImage 0 (s.setEngine { s.engine with phase := .writeback })
  | .relocate => if s.engine.item = .regionCommit then writeImage 0 s else spareSucceeds s
  | .jobErase => endJob .done s
  | .clearErase => endClearStep s
  | .controlErase => writeRecordFrom 0 s
  | _ => s

/-- An ERASE of the engine fails or times out (R77, R84, R86, R88, R120, R121): up to three attempts on one physical
sector; within a control try there is one. -/
def engineEraseFail (o : ArrayOp) (s : State) : State :=
  match s.engine.phase with
  | .controlErase => tryFails .erase s
  | .relocate => if s.engine.eraseAttempts < eraseTries then raiseEngineClaim o s else spareFails s
  | .erase | .jobErase | .clearErase =>
    if s.engine.eraseAttempts < eraseTries then raiseEngineClaim o s else enterRelocate s
  | _ => s

/-- The end of an engine operation, with pass or fail, handed to the engine. -/
def engineOpEnd (o : ArrayOp) (pass : Bool) (w : Word) (s : State) : State :=
  match o.kind, pass with
  | .read, _ => engineReadEnd w s
  | .program, true => engineProgramPass o s
  | .program, false => engineProgramFail o s
  | .erase, true => engineErasePass s
  | .erase, false => engineEraseFail o s

/-- The timeout of an engine operation, handed to the engine: a failed attempt of a PROGRAM or ERASE (R103). -/
def engineOpTimeout (o : ArrayOp) (s : State) : State :=
  match o.kind with
  | .read => engineReadTimeout o s
  | .program => engineProgramFail o s
  | .erase => engineEraseFail o s

/-! ### Selection (section 4.2) -/

/-- The engine may take a selection: IDLE, not stopped, in a mode in which work items run (R65, R66). -/
def State.maySelect (s : State) : Bool :=
  s.engine.phase == .idle && !s.engine.stopped
    && (s.mc.mode == .run || s.mc.mode == .holding || s.mc.mode == .held || s.mc.mode == .clearing)

/-- A selection (R66): the first kind of work item in rank order for which work is available starts. `none` when
there is none. -/
def selectOnce (s : State) : Option State :=
  if !s.maySelect then none
  else if s.cru.updatePending then some (startUpdate s)
  else if s.engine.jobPending && s.mc.mode != .clearing then some (startJob s)
  else if s.mc.mode = .clearing then some (startClearStep s)
  else s.dueRegion.map fun r => startCommit r s

/-- Selections, one after another while the items they start end at once (R65). At most five can do so in one event: a
control update at the generation limit, a job whose start check fails, a clear step that finds no sector left, the
update that its completion asks for, and then a commit. -/
def selectItems : Nat → State → State
  | 0, s => s
  | n + 1, s =>
    match selectOnce s with
    | some t => selectItems n t
    | none => s

/-- The most selections of one event. -/
def selectionsPerEvent : Nat := 6

/-- HOLDING becomes HELD when every queue is empty and no REGION_COMMIT is in flight (R158). -/
def drain (s : State) : State :=
  if s.mc.mode = .holding ∧ s.queuesEmpty ∧ s.engine.item ≠ .regionCommit then
    s.setMc { s.mc with mode := .held }
  else s

/-- The rest of an event after its own effect: the drain test (R158), the selection (R65) and the grant of waiting claims
(R95). -/
def settle (s : State) : State := grant (selectItems selectionsPerEvent (drain s))

/-- The rest of an event, and then a select that the host port takes as an arrival now that it is IDLE (R209): its access
begins only after the event's own work (R95, R99; log entry 16). -/
def finish (s : State) : State :=
  let s := settle s
  if s.host.state = .idle ∧ s.host.reselect then settle (takeReselect s) else s

end Sys2Proof.Machine
end

