-- ==== Sys2Proof/Machine/StartUp.lean ====
section
/-! DEFINITION. Start-up (section 7.6): the reading of the two control copies word by word, the choice of the current
copy, and the two ends of STARTUP. -/

namespace Sys2Proof.Machine

/-- The READ of word k of a control copy (R149). -/
def copyRead (c : Copy) (k : Nat) : ArrayOp :=
  { kind := .read, psec := copySector c, offset := k, value := 0, issuer := .startUp }

/-- The control record unit claims the READ of the next word of a copy (R148, R149). -/
def claimCopyRead (u : StartUp) (s : State) : State :=
  raiseEngineClaim (copyRead u.copy u.words.length) (s.setStartup (some u))

/-- The current copy among the judged ones: the greater generation, A on a tie (R140). -/
def chooseCopy : Option ControlRecord → Option ControlRecord → Option (Copy × ControlRecord)
  | some a, some b => if a.generation < b.generation then some (.b, b) else some (.a, a)
  | some a, none => some (.a, a)
  | none, some b => some (.b, b)
  | none, none => none

/-- The CONTROL_COPY_INVALID report of a copy (R150). -/
def copyInvalid (c : Copy) : FaultReport := { kind := .controlCopyInvalid, psec := some (copySector c) }

/-- The STARTUP_DEFAULTS report (R150, R151). -/
def startupDefaults (reason : FaultReason) : FaultReport := { kind := .startupDefaults, reason := some reason }

/-- The start-up fault records of the judgements, in the order of R150, and STRAP after them (R151). -/
def startUpReports (cfgIgnore : Bool) (a b : Option ControlRecord) : List FaultReport :=
  let judged := match a, b with
    | some _, some _ => []
    | some _, none => [copyInvalid .b]
    | none, some _ => [copyInvalid .a]
    | none, none => [startupDefaults .noValidCopy]
  judged ++ if cfgIgnore && (a.isSome || b.isSome) then [startupDefaults .strap] else []

/-- The image that becomes active (R151 to R153): the copy's, the default with the copy's S under CFGIGNORE, or the
default with S = 16. -/
def startUpImage (straps : Straps) (chosen : Option (Copy × ControlRecord)) : SetupImage :=
  match chosen with
  | some (_, r) => if straps.cfgIgnore then defaultImage r.image.spares straps.defAf else r.image
  | none => defaultImage 16 straps.defAf

/-- The sector map at the end of start-up (R114). -/
def startUpMap (chosen : Option (Copy × ControlRecord)) : SectorMap :=
  match chosen with
  | some (_, r) => { remap := r.remap, bad := r.bad, protection := r.protection }
  | none => { remap := [], bad := 0, protection := [] }

/-- The control record unit at the end of start-up (R140). -/
def startUpUnit (a b : Option ControlRecord) : ControlUnit :=
  let chosen := chooseCopy a b
  { current := chosen.map (·.1), generation := (chosen.map (·.2.generation)).getD 0
    healthGood := a.isSome && b.isSome, updatePending := false }

/-- The tables installed as start-up ends in RUN (R153): image, queues, sector map and control record unit; the status
stream starts before slot 0 (R206). -/
def install (a b : Option ControlRecord) (s : State) : State :=
  let chosen := chooseCopy a b
  let im := startUpImage s.straps chosen
  { s with image := some im, queues := emptyQueues im, stall := none, map := startUpMap chosen
           cru := startUpUnit a b, startup := none
           stream := { running := true, position := none, sts := 0, stsync := false }
           mc := { s.mc with mode := .run } }

/-- The host access held by STARTUP is classified when start-up ends in RUN (R11). -/
def classifyHeld (s : State) : State :=
  match s.host.state, s.host.access with
  | .busy, some p => classify p s
  | _, _ => s

/-- Start-up ends in RUN when both copies have been judged (R140, R150, R153). -/
def endStartUp (a b : Option ControlRecord) (s : State) : State :=
  let s := (startUpReports s.straps.cfgIgnore a b).foldl (fun t f => report f t) s
  classifyHeld (install a b s)

/-- A copy has been judged: A is followed by B, and B by the end of start-up (R148). -/
def copyJudged (u : StartUp) (r : Option ControlRecord) (s : State) : State :=
  match u.copy with
  | .a => claimCopyRead { copy := .b, words := [], judgedA := some r } s
  | .b => endStartUp (u.judgedA.getD none) r s

/-- A word of a copy arrives (R149). -/
def startUpRead (w : Word) (s : State) : State :=
  match s.startup with
  | none => s
  | some u =>
    let u := { u with words := u.words ++ [w] }
    match judgeCopy u.words with
    | .reading => claimCopyRead u s
    | .invalid => copyJudged u none s
    | .valid r => copyJudged u (some r) s

/-! ### Array loss -/

/-- Every host access held when the mode becomes OFFLINE completes with HERR#, FFFFh for a read, and no report (R11, R31,
R62, R107). -/
def failHeldAccess (s : State) : State :=
  match s.host.access with
  | some p => if p.write then completeAccess true none s else failRead s
  | none => s

/-- Entry into OFFLINE (R167): the array is held in reset and the port STOPPED (R107), the engine stops (R90), held host
accesses complete (R31, R62, R107), start-up ends (R154), and a status stream that has not started runs with N = 0
(R206). -/
def enterOffline (s : State) : State :=
  let s := abandonOps s
  let p := { s.port with state := PortState.stopped, op := none, inner := none, hostClaim := none, engClaim := none
                         direct := none, arst := .held, ackTimer := 0, arstTimer := 0
                         suspCount := 0 }
  let s := ((s.setPort p).setEngine { s.engine with stopped := true }).setStall none
  let s := (s.setReader { state := .idle, access := none }).setStartup none
  let s := if s.stream.running then s
    else s.setStream { running := true, position := none, sts := 0, stsync := false }
  failHeldAccess (s.setMc { s.mc with mode := .offline })

end Sys2Proof.Machine
end

