-- ==== Sys2Proof/Machine/Reports.lean ====
section
/-! DEFINITION. What the array port controller does with the array's reports and with its time limits (sections 5.3 to
5.5), the passing of time, and the stall limit. -/

namespace Sys2Proof.Machine

/-! ### Ends of operations -/

/-- The operation of a RUNNING port is over: the port is FREE, with no erase record (R93). -/
def freePort (s : State) : State :=
  s.setPort { s.port with state := .free, op := none, inner := none, ackTimer := 0, suspCount := 0 }

/-- A report that ends an operation or answers a SUSPEND clears the consecutive timeout count (R106). -/
def clearConsecutive (s : State) : State := s.setPort { s.port with consecutive := 0 }

/-- A host read ends with the word of its READ (R51), and then an end of LOAD that waited for it (log entry 35). -/
def hostReadEnd (w : Word) (s : State) : State :=
  let s := s.setPort { s.port with hostClaim := none }
  match s.reader.access with
  | some x => endWaitingLoad (endRead false (s.assemble x w) s)
  | none => endWaitingLoad s

/-- A host read's READ times out (R61), and an end of LOAD that waited for it follows (log entry 35). -/
def hostReadTimeout (s : State) : State :=
  endWaitingLoad (endRead true 0xFFFF (s.setPort { s.port with hostClaim := none }))

/-- An attempt of a direct write ends (R109): pass ends the write; a first failed attempt keeps the claim, whose PROGRAM is
issued again; a second ends the write with DIRECT_WRITE_FAILED, with the region that `reportRegion` names (log entry 32,
DESIGN CHOICE). -/
def directAttemptEnd (pass : Bool) (s : State) : State :=
  match s.port.direct with
  | some d =>
    if pass then endDirect false s
    else if d.attempts < programTries then s
    else endDirect true (report { kind := .directWriteFailed, region := some (s.reportRegion d), addr := some d.addr } s)
  | none => s

/-- The end of an operation, handed to its issuer (R92). -/
def issuerEnd (o : ArrayOp) (pass : Bool) (w : Word) (s : State) : State :=
  match o.issuer with
  | .hostRead => hostReadEnd w s
  | .directWrite => directAttemptEnd pass s
  | .engine => engineOpEnd o pass w (s.setPort { s.port with engClaim := none })
  | .startUp => startUpRead w (s.setPort { s.port with engClaim := none })

/-- The timeout of an operation, handed to its issuer (Table of R103). -/
def issuerTimeout (o : ArrayOp) (s : State) : State :=
  match o.issuer with
  | .hostRead => hostReadTimeout s
  | .directWrite => directAttemptEnd false s
  | .engine => engineOpTimeout o (s.setPort { s.port with engClaim := none })
  | .startUp => raiseEngineClaim o s

/-- The array reports the end of the operation of a RUNNING port, or of the erase of a SUSPENDING one (R92, R98). -/
def operationEnd (x : RunningOp) (pass : Bool) (w : Word) (s : State) : State :=
  let s := s.setFlash (s.flash.ended x.op pass w)
  issuerEnd x.op pass w (clearConsecutive (freePort s))

/-- RESUME (R99): the erase's suspension count rises, and its running time goes on. -/
def resumeErase (s : State) : State :=
  s.setPort { s.port with state := .running, inner := none, suspCount := s.port.suspCount + 1 }

/-- The host claim is issued as the inner operation of a suspension (R98, R109). -/
def issueInner (s : State) : State :=
  match s.port.hostClaim with
  | some o =>
    let x : RunningOp := { op := o, timer := 0, issued := true }
    let s := countAttempt o s
    readIssued x (s.setPort { s.port with state := .suspended, inner := some x })
  | none => s

/-- The inner operation of a suspension ends (R99): when the host claim has ended with it, RESUME; a direct write's second
attempt runs inside the same suspension (R109). -/
def innerEnd (x : RunningOp) (pass : Bool) (w : Word) (s : State) : State :=
  let s := s.setFlash (s.flash.ended x.op pass w)
  let s := issuerEnd x.op pass w (clearConsecutive s)
  if s.port.hostClaim.isSome then issueInner s else resumeErase s

/-- An operation of the given kind, issued to the array and not reported. -/
def outstanding (k : OpKind) (x : Option RunningOp) : Option RunningOp :=
  x.filter fun y => y.issued && y.op.kind == k

/-- The array's report of the end of a READ or PROGRAM; a report with none outstanding is ignored (R92). -/
def reportEnd (k : OpKind) (pass : Bool) (w : Word) (s : State) : State :=
  match s.port.state with
  | .running =>
    match outstanding k s.port.op with
    | some x => operationEnd x pass w s
    | none => s
  | .suspended =>
    match outstanding k s.port.inner with
    | some x => innerEnd x pass w s
    | none => s
  | _ => s

/-- The array's report of the end of an ERASE, whether or not a SUSPEND was outstanding (R92, R98); a report with no erase
running is ignored. -/
def reportEraseEnd (pass : Bool) (s : State) : State :=
  if s.port.state = .running ∨ s.port.state = .suspending then
    match outstanding .erase s.port.op with
    | some x => operationEnd x pass 0 s
    | none => s
  else s

/-- The array acknowledges SUSPEND (R98): the host claim is granted as the inner operation. -/
def reportAcknowledgement (s : State) : State :=
  if s.port.state = .suspending then issueInner (clearConsecutive s) else s

/-- AREADY is high after an ARST# pulse (R212): a granted operation that waits for it is issued. A host claim then
meets a RUNNING ERASE (R97, log entry 14). -/
def endPulse (s : State) : State :=
  if s.port.arst = .pulse then
    let s := s.setPort { s.port with arst := .inactive, arstTimer := 0 }
    match s.port.op with
    | some x =>
      if x.issued then s
      else
        let y : RunningOp := { x with issued := true }
        considerSuspend (readIssued y (s.setPort { s.port with op := some y }))
    | none => s
  else s

/-! ### Timeouts -/

/-- The operation kind in an ARRAY_TIMEOUT's reason field (Table 10-2). -/
def OpKind.reason : OpKind → FaultReason
  | .read => .read
  | .program => .program
  | .erase => .erase

/-- A timeout (R103 to R106): ARST# abandons the array's operations, ARRAY_TIMEOUT is reported and the consecutive count
rises; the second consecutive one reports ARRAY_LOST and takes the part OFFLINE, and otherwise the port is FREE and
the issuers take their outcomes. -/
def timeout (reason : FaultReason) (psec : Nat) (outcome : State → State) (s : State) : State :=
  let s := report { kind := .arrayTimeout, psec := some psec, reason := some reason } s
  let s := s.setPort { s.port with consecutive := s.port.consecutive + 1 }
  if 2 ≤ s.port.consecutive then enterOffline (report { kind := .arrayLost } s)
  else
    let s := freePort (abandonOps s)
    outcome (s.setPort { s.port with arst := .pulse, arstTimer := 0 })

/-- The operation of a RUNNING port reaches its time limit (R103). -/
def operationTimeoutTaken (s : State) : State :=
  if s.port.state = .running then
    match s.port.op with
    | some x => timeout x.op.kind.reason x.op.psec (issuerTimeout x.op) s
    | none => s
  else s

/-- A SUSPENDING port reaches one of its limits (R104): a single timeout of the erase, its kind SUSPEND or ERASE. -/
def suspendTimeoutTaken (limit : SuspendLimit) (s : State) : State :=
  if s.port.state = .suspending then
    match s.port.op with
    | some x =>
      timeout (match limit with
        | .acknowledgement => .suspend
        | .eraseTime => .erase) x.op.psec (issuerTimeout x.op) s
    | none => s
  else s

/-- The inner operation of a SUSPENDED erase reaches its time limit (R105): both are abandoned, with one report; the host
claimant takes its timeout, and the erase's issuer a failed attempt. -/
def innerTimeoutTaken (s : State) : State :=
  if s.port.state = .suspended then
    match s.port.op, s.port.inner with
    | some x, some y =>
      timeout y.op.kind.reason y.op.psec (fun t => issuerTimeout x.op (issuerTimeout y.op t)) s
    | _, _ => s
  else s

/-- The stall limit is reached (R28): the write is dropped with HERR# and WRITE_DROPPED. -/
def stallExpiryTaken (s : State) : State :=
  match s.stall with
  | some w =>
    completeAccess true none
      (report { kind := .writeDropped, region := some w.region, addr := some w.addr } (s.setStall none))
  | none => s

/-- A partial frame is discarded with no reply: the receiver returns to WAIT_COMMAND and the gap timer stops (R171, R172,
R174, R175). -/
def SetupPort.dropPart (p : SetupPort) : SetupPort :=
  { p with rx := .waitCommand, part := PartialFrame.empty, gapTimer := none }

/-- The gap timer reaches its limit in a partial frame (R174). -/
def gapTimeoutTaken (s : State) : State :=
  if s.setup.gapTimer.isSome then s.setSetup s.setup.dropPart else s

/-! ### Time (R214) -/

/-- Ticks of an operation that count towards its limit: all of them once it is issued, and before that those after the
shortest ARST# pulse (R212). -/
def RunningOp.passes (x : RunningOp) (arstTimer d : Nat) : RunningOp :=
  { x with timer := x.timer + if x.issued then d else (arstTimer + d - arstLimit) - (arstTimer - arstLimit) }

/-- The array port's timers after d microsecond ticks (R102). -/
def ArrayPort.passes (p : ArrayPort) (d : Nat) : ArrayPort :=
  { p with
    op := if p.state = .running ∨ p.state = .suspending then p.op.map (·.passes p.arstTimer d) else p.op
    inner := p.inner.map (·.passes p.arstTimer d)
    ackTimer := if p.state = .suspending then p.ackTimer + d else p.ackTimer
    arstTimer := if p.arst = .pulse then p.arstTimer + d else p.arstTimer }

/-- d microsecond ticks pass: both ticks and every running timer advance (R214). -/
def elapse (d : Nat) (s : State) : State :=
  let ms := (s.time + d) / 1000 - s.time / 1000
  { s with time := s.time + d, port := s.port.passes d
           stall := s.stall.map fun w => { w with timer := w.timer + d }
           setup := { s.setup with gapTimer := s.setup.gapTimer.map (· + ms) } }

/-- Microsecond ticks to the n-th next millisecond tick (R214). -/
def State.ticksToMs (s : State) (n : Nat) : Nat := n * 1000 - (if n = 0 then 0 else s.time % 1000)

/-- The stall limit of the stalled write's region in microsecond ticks (R26). -/
def State.stallTicks (s : State) (w : StalledWrite) : Nat :=
  ((s.region? w.region).map (·.stallLimit * stallUnit)).getD 0

/-- Ticks until the stall limit is reached (R26). -/
def State.ticksToStallLimit (s : State) : Nat :=
  match s.stall with
  | some w => s.stallTicks w - w.timer
  | none => 0

/-- Ticks until an operation reaches its limit, with what is left of an ARST# pulse before them when it waits for one. -/
def RunningOp.ticksLeft (x : RunningOp) (arstTimer : Nat) : Nat :=
  (if x.issued then 0 else arstLimit - arstTimer) + (opLimit x.op.kind - x.timer)

/-- Ticks until the operation of a RUNNING port reaches its limit (R102). -/
def State.ticksToOpLimit (s : State) : Nat :=
  if s.port.state = .running then (s.port.op.map (·.ticksLeft s.port.arstTimer)).getD 0 else 0

/-- Ticks that an ARST# pulse still has to last for its shortest length (R212). -/
def State.ticksToPulseEnd (s : State) : Nat :=
  if s.port.arst = .pulse then arstLimit - s.port.arstTimer else 0

/-- Ticks until a SUSPENDING port reaches a limit (R102, R104). -/
def State.ticksToSuspendLimit (s : State) (limit : SuspendLimit) : Nat :=
  if s.port.state = .suspending then
    match limit with
    | .acknowledgement => ackLimit - s.port.ackTimer
    | .eraseTime => (s.port.op.map (·.ticksLeft s.port.arstTimer)).getD 0
  else 0

/-- Ticks until the inner operation reaches its limit (R102). -/
def State.ticksToInnerLimit (s : State) : Nat :=
  if s.port.state = .suspended then (s.port.inner.map (·.ticksLeft s.port.arstTimer)).getD 0 else 0

/-- Ticks until the gap limit is reached (R174). -/
def State.ticksToGapLimit (s : State) : Nat :=
  match s.setup.gapTimer with
  | some t => s.ticksToMs (gapLimit - t)
  | none => 0

/-- Microsecond ticks that hold one character of eleven bits at an SRATE (Table 9-2), rounded up. -/
def characterTicks (srate : BitVec 2) : Nat :=
  match srate.toNat with
  | 0 => 573
  | 1 => 191
  | 2 => 48
  | _ => 12

/-- The gap limit has passed with no start bit before it (R174): the gap timer stops at the start bit of the next character,
and that character reaches the receiver one character time later. A character whose start bit came before the limit is
therefore taken before these ticks are over, and the frame goes on. -/
def State.gapPassed (s : State) : Bool :=
  match s.setup.gapTimer with
  | some t => decide (gapLimit ≤ t ∧ characterTicks s.straps.srate ≤ (t - gapLimit) * 1000 + s.time % 1000)
  | none => false

/-- Ticks until region r is aged (R35): 0 when it is aged or no tick makes it so. -/
def State.ticksToAge (s : State) (r : Nat) : Nat :=
  match s.region? r, s.headStamp r with
  | some g, some h =>
    match ageLimit g.ageCode with
    | some l => if g.policy = .staged then s.ticksToMs (l - (s.msTick - h).toNat) else 0
    | none => 0
  | _, _ => 0

/-- The limits that stand reached, taken one after another: the array port's, the stall limit and the gap limit. Where more
than one is reached at one tick the data sheet lets any come first; the model takes them in this order (log entry 2,
DESIGN CHOICE). Of a SUSPENDING port's two limits reached at one tick it takes the acknowledgement's, and the report names
SUSPEND (R104 gives no kind for that tie; log entries 2 and 21, DESIGN CHOICE). The gap limit discards nothing before a
character whose start bit came in time would be complete (`gapPassed`, R174). -/
def takeLimits (s : State) : State :=
  let s := if s.port.state = .running ∧ s.port.op.isSome ∧ s.ticksToOpLimit = 0 then operationTimeoutTaken s
    else if s.port.state = .suspending ∧ s.ticksToSuspendLimit .acknowledgement = 0 then
      suspendTimeoutTaken .acknowledgement s
    else if s.port.state = .suspending ∧ s.ticksToSuspendLimit .eraseTime = 0 then suspendTimeoutTaken .eraseTime s
    else if s.port.state = .suspended ∧ s.port.inner.isSome ∧ s.ticksToInnerLimit = 0 then innerTimeoutTaken s
    else s
  let s := if s.stall.isSome ∧ s.ticksToStallLimit = 0 then stallExpiryTaken s else s
  if s.gapPassed then gapTimeoutTaken s else s

/-- One microsecond tick with no command waiting (R214): time passes, limits that it reaches are taken, and a region that
it makes aged is selected (R35, R65). Both ticks stand at 0 while RST# is active. -/
def tick (s : State) : State :=
  if s.inReset then s else refresh (finish (takeLimits (elapse 1 s)))

end Sys2Proof.Machine
end

