-- ==== Sys2Proof/Machine/SetupFrames.lean ====
section
/-! DEFINITION. The setup port (chapter 9): the receiver, the handling of a complete frame (R178), each command's effect
and reply, and the layouts of the replies (sections 13.5 and 13.6). -/

namespace Sys2Proof.Machine

/-! ### Reply layouts -/

/-- A field of n bytes, every byte FFh when it is absent (R216). -/
def optField (n : Nat) (x : Option Nat) : List Byte :=
  match x with
  | some v => leBytes n v
  | none => List.replicate n 0xFF

/-- The mode code of IDENT and STATUS (section 13.6). -/
def Mode.code : Mode → Byte
  | .startup => 0x00
  | .run => 0x01
  | .holding => 0x02
  | .held => 0x03
  | .clearing => 0x04
  | .offline => 0x05

/-- The phase code of STATUS (section 13.6). -/
def Phase.code : Phase → Byte
  | .idle => 0x00
  | .gather => 0x01
  | .load => 0x02
  | .program => 0x03
  | .erase => 0x04
  | .writeback => 0x05
  | .relocate => 0x06
  | .controlErase => 0x07
  | .controlWrite => 0x08
  | .controlVerify => 0x09
  | .jobErase => 0x0A
  | .clearErase => 0x0B

/-- The work item code of STATUS (section 13.6). -/
def WorkItem.code : WorkItem → Byte
  | .none => 0x00
  | .regionCommit => 0x01
  | .eraseJob => 0x02
  | .clearStep => 0x03
  | .controlUpdate => 0x04

/-- The last job result code of STATUS (section 13.6). -/
def JobResult.code : JobResult → Byte
  | .none => 0x00
  | .done => 0x01
  | .remapped => 0x02
  | .retired => 0x03

/-- The current copy code of STATUS (section 13.6). -/
def copyCode : Option Copy → Byte
  | none => 0x00
  | some .a => 0x01
  | some .b => 0x02

/-- The fault kind code (Table 13-3). -/
def FaultKind.code : FaultKind → Byte
  | .writeDropped => 0x01
  | .writeRefused => 0x02
  | .sectorRemapped => 0x03
  | .spareBad => 0x04
  | .sectorRetired => 0x05
  | .dataLost => 0x06
  | .directWriteFailed => 0x07
  | .controlWriteFailed => 0x08
  | .controlCopyInvalid => 0x09
  | .startupDefaults => 0x0A
  | .arrayTimeout => 0x0B
  | .arrayLost => 0x0C

/-- The fault reason code (Table 13-3). -/
def FaultReason.code : FaultReason → Nat
  | .protectedSector => 0x01
  | .readonlyRegion => 0x02
  | .retiredSector => 0x03
  | .outsideWindow => 0x04
  | .tableFull => 0x05
  | .read => 0x06
  | .program => 0x07
  | .erase => 0x08
  | .suspend => 0x09
  | .verify => 0x0A
  | .generationLimit => 0x0B
  | .noValidCopy => 0x0C
  | .strap => 0x0D

/-- Flags as bits of a byte, bit 0 first; undefined bits are 0 (R216). -/
def flagByte (bs : List Bool) : Byte := BitVec.ofNat 8 (bitsValue bs)

/-- The fault record layout of FAULT_READ (section 13.5). -/
def faultPayload (x : FaultRecord) (unstored : Nat) : List Byte :=
  let f := x.report
  leBytes 2 x.seq.toNat ++ [f.kind.code] ++ leBytes 4 x.first.toNat ++ leBytes 4 x.last.toNat ++ leBytes 2 f.count
    ++ [flagByte [f.region.isSome, f.lsec.isSome, f.psec.isSome, f.spare.isSome, f.addr.isSome, f.reason.isSome]]
    ++ optField 1 f.region ++ optField 2 f.lsec ++ optField 2 f.psec ++ optField 1 f.spare
    ++ optField 3 (f.addr.map (·.toNat)) ++ optField 1 (f.reason.map (·.code)) ++ [BitVec.ofNat 8 unstored]

/-- The IDENT layout (R181, section 13.6). -/
def identPayload (s : State) : List Byte :=
  leBytes 2 0x7240 ++ [Config.siliconRevision, s.straps.saddr.setWidth 8, s.mc.mode.code]

/-- The region fields of STATUS (section 13.6): count, then level code, commit in flight, stalled write, flush mark and
aged. -/
def statusRegion (s : State) (r : Nat) : List Byte :=
  let level := s.levelCode r
  leBytes 2 (s.count r)
    ++ [flagByte [level % 2 == 1, decide (2 ≤ level), s.commitOf r, s.stalled r, s.marked r, s.aged r]]

/-- The STATUS layout (R182, section 13.6). -/
def statusPayload (s : State) : List Byte :=
  let e := s.engine
  [s.mc.mode.code, e.phase.code, e.item.code] ++ optField 1 e.itemRegion ++ optField 2 e.itemSector
    ++ optField 2 e.mergeSector
    ++ [flagByte [e.mergeValid, e.jobPending, s.cru.updatePending, !s.cru.healthGood]]
    ++ optField 2 e.jobSector ++ [e.lastJobResult.code, copyCode s.cru.current] ++ leBytes 4 s.cru.generation
    ++ [BitVec.ofNat 8 s.spareCount, BitVec.ofNat 8 (s.spareTally .free), BitVec.ofNat 8 (s.spareTally .used),
        BitVec.ofNat 8 (s.spareTally .bad), BitVec.ofNat 8 s.log.records.length, BitVec.ofNat 8 s.log.unstored]
    ++ leBytes 2 s.mc.refused ++ leBytes 2 s.mc.clearIndex ++ [BitVec.ofNat 8 s.regions.length]
    ++ (List.range s.regions.length).flatMap (statusRegion s)

/-- The REMAP_READ layout (R193, Table 13-1). -/
def remapPayload (s : State) : List Byte :=
  [BitVec.ofNat 8 s.spareCount, BitVec.ofNat 8 s.map.remap.length] ++ encodeMap s.map.remap s.map.bad

/-- The SETUP_READ payload (R187): none while no image is active. -/
def imagePayload (s : State) : List Byte :=
  match s.image with
  | some im => encodeImage im
  | none => []

/-- A reply OK with a payload. -/
def okReply (payload : List Byte) : Reply := { code := codeOk, payload := payload }

/-! ### The commands' effects and replies -/

/-- IDENT (R181). -/
def runIdent (s : State) : Reply × State := (okReply (identPayload s), s)

/-- STATUS (R182). -/
def runStatus (s : State) : Reply × State := (okReply (statusPayload s), s)

/-- FAULT_READ (R183, R200). -/
def runFaultRead (s : State) : Reply × State :=
  match s.log.records with
  | [] => (okReply [], s)
  | x :: _ => (okReply (faultPayload x s.log.unstored), s.setLog s.log.removeOldest)

/-- SETUP_READ (R187). -/
def runSetupRead (s : State) : Reply × State := (okReply (imagePayload s), s)

/-- REMAP_READ (R193). -/
def runRemapRead (s : State) : Reply × State := (okReply (remapPayload s), s)

/-- FLUSH r and FLUSH ALL (R36, R184). -/
def runFlush (payload : List Byte) (s : State) : Reply × State :=
  let r := byteAt payload 0
  if r = 0xFF then (plainReply codeOk, finish (markAll s))
  else if r < s.regions.length then (plainReply codeOk, finish (markRegion r s))
  else (invalidReply .region none, s)

/-- PURGE r (R44, R185): the reply carries the number of WAITING entries discarded. -/
def runPurge (payload : List Byte) (s : State) : Reply × State :=
  let r := byteAt payload 0
  if r < s.regions.length then (okReply (leBytes 2 (s.waitingCount r)), finish (purgeRegion r s))
  else (invalidReply .region none, s)

/-- A stalled write is refused by the entry into HOLDING and counted (R29). -/
def refuseStalled (s : State) : State :=
  match s.stall with
  | some _ => completeAccess true none (countRefused (s.setStall none))
  | none => s

/-- The entry into HOLDING, in the order of R157; its drain test is the first of what ends the event. -/
def enterHolding (s : State) : State :=
  refuseStalled (markAll (s.setMc { s.mc with refused := 0, mode := .holding }))

/-- HOLD in RUN (R157, R186). -/
def runHold (s : State) : Reply × State := (plainReply codeOk, finish (enterHolding s))

/-- RELEASE in HOLDING or HELD (R159, R186). -/
def runRelease (s : State) : Reply × State := (plainReply codeOk, finish (s.setMc { s.mc with mode := .run }))

/-- The SPARES condition of SETUP_LOAD (Table 8-3): S above 32, or S other than the active S while the remap table holds
an entry or an ERASE_JOB is in flight. -/
def State.sparesRefused (s : State) (n : Nat) : Bool :=
  decide (32 < n) || (n != s.spareCount && (!s.map.remap.isEmpty || s.engine.item == .eraseJob))

/-- A valid image becomes the active image (R163): window and regions, empty queues, S and suspend limit, last served region
absent, and the status stream before slot 0 (R207). A CONTROL_UPDATE in flight has the update-pending flag set. -/
def applyImage (im : SetupImage) (s : State) : State :=
  { s with
    image := some im
    queues := emptyQueues im
    stall := none
    engine := { s.engine with lastServed := none }
    cru := { s.cru with updatePending := s.cru.updatePending || s.engine.item == .controlUpdate }
    stream := { s.stream with position := none, sts := 0, stsync := false } }

/-- SETUP_LOAD in HELD (R161, R163, R188). -/
def runSetupLoad (payload : List Byte) (s : State) : Reply × State :=
  match validateImage s.sparesRefused payload with
  | .invalid reason region => (invalidReply reason region, s)
  | .valid im => (plainReply codeOk, finish (applyImage im s))

/-- SETUP_STORE (R189). -/
def runSetupStore (s : State) : Reply × State := (plainReply codeAccepted, finish (setUpdatePending s))

/-- A range is added at the end of the protection list (R132). -/
def addRange (p : ProtRange) (s : State) : State :=
  setUpdatePending (s.setMap { s.map with protection := s.map.protection ++ [p] })

/-- PROTECT first, count (R132, R190). -/
def runProtect (payload : List Byte) (s : State) : Reply × State :=
  let first := field payload 0 2
  let count := field payload 2 2
  if count = 0 then (invalidReply .count none, s)
  else if s.window ≤ first + count - 1 then (invalidReply .range none, s)
  else if protectionLimit ≤ s.map.protection.length then (invalidReply .listFull none, s)
  else (plainReply codeOk, finish (addRange { first := first, count := count } s))

/-- The engine takes a job (R83). -/
def acceptJob (sector : Nat) (s : State) : State :=
  s.setEngine { s.engine with jobPending := true, jobSector := some sector }

/-- The region containing a sector is DIRECT. -/
def State.inDirect (s : State) (sector : Nat) : Bool :=
  match s.regionOf sector with
  | some r => s.hasPolicy r .direct
  | none => false

/-- SECTOR_ERASE s (R191). -/
def runSectorErase (payload : List Byte) (s : State) : Reply × State :=
  let x := field payload 0 2
  if s.engine.jobPending then (plainReply codeBusy, s)
  else if s.window ≤ x then (invalidReply .sector none, s)
  else if !s.inDirect x then (invalidReply .notDirect none, s)
  else if s.map.protects x then (invalidReply .protectedSector none, s)
  else if (s.map.translate x).isNone then (invalidReply .retiredSector none, s)
  else (plainReply codeAccepted, finish (acceptJob x s))

/-- The mode becomes CLEARING with the progress index at 0 (R165). -/
def enterClearing (s : State) : State := s.setMc { s.mc with clearIndex := 0, mode := .clearing }

/-- ARRAY_CLEAR in HELD (R165, R192). -/
def runArrayClear (s : State) : Reply × State :=
  if s.engine.jobPending then (plainReply codeBusy, s)
  else (plainReply codeAccepted, finish (enterClearing s))

/-- A command that passes step 6 of R178 is executed by its own rule. -/
def runCommand (c : SetupCommand) (payload : List Byte) (s : State) : Reply × State :=
  match c with
  | .ident => runIdent s
  | .status => runStatus s
  | .faultRead => runFaultRead s
  | .setupRead => runSetupRead s
  | .remapRead => runRemapRead s
  | .flush => runFlush payload s
  | .purge => runPurge payload s
  | .hold => runHold s
  | .release => runRelease s
  | .setupLoad => runSetupLoad payload s
  | .setupStore => runSetupStore s
  | .protect => runProtect payload s
  | .sectorErase => runSectorErase payload s
  | .arrayClear => runArrayClear s

/-! ### Handling of a frame (R178) -/

/-- The reply is due when the frame was received under SELECTED; otherwise none is sent (R177). -/
def answer (sel : Selection) (r : Reply) (s : State) : State :=
  if sel = .selected then s.setSetup { s.setup with tx := .replyDue, reply := some r } else s

/-- Steps 4 to 7 of Table 9-3 for a recognised command. -/
def executeCommand (c : SetupCommand) (f : SetupFrame) (sel : Selection) (s : State) : State :=
  if sel = .broadcast ∧ !c.broadcastActs then s
  else if !c.allowedIn s.mc.mode then answer sel (plainReply codeWrongState) s
  else if !c.lengthSuits f.length then answer sel (invalidReply .operandLength none) s
  else
    let x := runCommand c f.payload s
    answer sel x.1 x.2

/-- The execution of a complete frame: the tests of Table 9-3 in order (R178). -/
def executeFrame (f : SetupFrame) (sel : Selection) (s : State) : State :=
  if !f.sumZero then answer sel (plainReply codeCheckError) s
  else if payloadLimit < f.length then answer sel (invalidReply .frameLength none) s
  else match commandOf f.code with
    | none => answer sel (plainReply codeUnknown) s
    | some c => executeCommand c f sel s

/-- A frame completes (R173, R176): executed at once when the transmitter is QUIET, else buffered when the buffer is empty,
else discarded. While the selection is NONE its characters are dropped and no frame completes (R172). -/
def completeFrame (f : SetupFrame) (s : State) : State :=
  if s.setup.selection = .none then s
  else
    let s := s.setSetup s.setup.dropPart
    if s.setup.tx = .quiet then executeFrame f s.setup.selection s
    else if s.setup.buffer.isNone then
      s.setSetup { s.setup with buffer := some { frame := f, selection := s.setup.selection } }
    else s

/-! ### The receiver (R171 to R175) -/

/-- The partial frame as the receiver holds it when its check character v has been taken. -/
def PartialFrame.complete (p : PartialFrame) (v : Byte) : SetupFrame :=
  { code := p.command, length := p.length, payload := p.payload, sumZero := p.sum + v == 0 }

/-- A frame character of a frame that it does not complete, in the receiver's three other states (R173); the gap timer
starts again (R174). -/
def SetupPort.takeCharacter (p : SetupPort) (v : Byte) : SetupPort :=
  match p.rx with
  | .waitCommand =>
    { p with rx := .waitLength, gapTimer := some 0
             part := { command := v, length := 0, payload := [], taken := 0, sum := v } }
  | .waitLength =>
    { p with rx := if v = 0 then .waitCheck else .payload, gapTimer := some 0
             part := { p.part with length := v.toNat, sum := p.part.sum + v } }
  | .payload =>
    { p with rx := if p.part.taken + 1 < p.part.length then .payload else .waitCheck, gapTimer := some 0
             part := { p.part with sum := p.part.sum + v, taken := p.part.taken + 1
                                   payload := if p.part.payload.length < payloadLimit then p.part.payload ++ [v]
                                     else p.part.payload } }
  | .waitCheck => p

/-- A frame character is taken (R173): dropped while the selection is NONE; in WAIT_CHECK it completes the frame. -/
def takeFrameCharacter (v : Byte) (s : State) : State :=
  if s.setup.selection = .none then s
  else if s.setup.rx = .waitCheck then completeFrame (s.setup.part.complete v) s
  else s.setSetup (s.setup.takeCharacter v)

/-- The selection that an address character makes (R172). -/
def selectionOf (saddr : BitVec 4) (v : Byte) : Selection :=
  if v = saddr.setWidth 8 then .selected else if v = 0xFF then .broadcast else .none

/-- An address character is taken (R172). -/
def takeAddress (v : Byte) (s : State) : State :=
  s.setSetup { s.setup.dropPart with buffer := none, selection := selectionOf s.straps.saddr v }

/-- A character with a framing error (R171). -/
def takeFramingError (s : State) : State :=
  if s.setup.rx = .waitCommand ∨ s.setup.selection = .none then s else s.setSetup s.setup.dropPart

/-- A break (R175). -/
def takeBreak (s : State) : State :=
  s.setSetup { s.setup.dropPart with buffer := none, selection := .none }

/-- The start bit of the reply in hand (R177). -/
def startReply (s : State) : State :=
  if s.setup.tx = .replyDue then s.setSetup { s.setup with tx := .sending } else s

/-- The last stop bit of the reply (R176, R177): the transmitter is QUIET, and a buffered frame is executed. -/
def endReply (s : State) : State :=
  if s.setup.tx = .sending then
    match s.setup.buffer with
    | some b =>
      executeFrame b.frame b.selection (s.setSetup { s.setup with tx := .quiet, reply := none, buffer := none })
    | none => s.setSetup { s.setup with tx := .quiet, reply := none }
  else s

/-! ### The output SRO -/

/-- The output SRO (R170, R177): while the transmitter is SENDING, the bits of the reply in hand, first to last; `none` is
released, as it stands at reset, through STARTUP and until a reply is sent, and from its last stop bit on (R194). -/
def State.sro (s : State) : Option (List Bool) :=
  if s.inReset then none
  else match s.setup.tx with
    | .sending => s.setup.reply.map replyBits
    | .quiet | .replyDue => none

end Sys2Proof.Machine
end

