-- ==== Sys2Proof/Machine/Event.lean ====
section
/-! DEFINITION. The shape of every event: no input other than RST# and the supply acts while RST# is active (R215), and
ATTN and DRAINED follow their facts at the event's end (R169, R202). -/

namespace Sys2Proof.Machine

/-- The outcome of a command: always a next state. -/
abbrev Result := Host.Outcome State Fault Refusal

/-- An event that makes no work available and ends no operation: its effect, with ATTN and DRAINED following. -/
def event (f : State → State) (s : State) : Result :=
  if s.inReset then .next s else .next (refresh (f s))

/-- An event after which the drain test, the selection, the grant and a waiting select follow (R65, R95, R158, R209). -/
def workEvent (f : State → State) (s : State) : Result := event (fun t => finish (f t)) s

end Sys2Proof.Machine
end

