-- ==== Sys2Proof/Machine/ArrayCommands.lean ====
section
/-! DEFINITION. The array's reports (R92, R98, R212). A report that reaches the controller while it has no such operation
issued is ignored (R92). -/

namespace Sys2Proof.Machine

/-- The array's lines at a rise of AREADY (Table 11-3). -/
structure ArrayPins where
  ad    : Word
  afail : Bool
  asusp : Bool
deriving DecidableEq, Repr

/-- The end that a rise of AREADY reports of an operation of this kind (R212). -/
def ArrayPins.endOf (p : ArrayPins) : OpKind → Instr
  | .read => .arrayReadEnd p.ad
  | .program => .arrayProgramEnd (!p.afail)
  | .erase => .arrayEraseEnd (!p.afail)

/-- The command that a rise of AREADY is (R212), by what the controller has outstanding; after an ARST# pulse it ends the wait
for AREADY, and with nothing outstanding it is ignored. -/
def State.readReport (s : State) (p : ArrayPins) : Option Instr :=
  if s.port.arst = .pulse then (if s.arstPin then none else some .arstPulseEnd)
  else match s.port.state with
  | .running => (s.port.op.filter (·.issued)).map fun x => p.endOf x.op.kind
  | .suspending => some (if p.asusp then .suspendAcknowledgement else p.endOf .erase)
  | .suspended => (s.port.inner.filter (·.issued)).map fun x => p.endOf x.op.kind
  | .free | .stopped => none

/-- ARRAY_READ_END (R92). -/
def execArrayReadEnd (w : Word) (s : State) : Result := workEvent (reportEnd .read true w) s

/-- ARRAY_PROGRAM_END (R92). -/
def execArrayProgramEnd (pass : Bool) (s : State) : Result := workEvent (reportEnd .program pass 0) s

/-- ARRAY_ERASE_END (R92, R98). -/
def execArrayEraseEnd (pass : Bool) (s : State) : Result := workEvent (reportEraseEnd pass) s

/-- SUSPEND_ACKNOWLEDGEMENT (R98). -/
def execSuspendAcknowledgement (s : State) : Result := workEvent reportAcknowledgement s

/-- ARST_PULSE_END (R212): AREADY is high after a pulse, the ticks of the pulse still to come having passed first (log
entry 3). -/
def execArstPulseEnd (s : State) : Result :=
  workEvent (fun s => endPulse (elapse s.ticksToPulseEnd s)) s

end Sys2Proof.Machine
end

