-- ==== Sys2Proof/Machine/HostCommands.lean ====
section
/-! DEFINITION. The commands at the host port (chapter 11): HOST_ACCESS_ARRIVAL, HOST_SELECT_WHILE_BUSY and
HOST_SELECT_RELEASE. -/

namespace Sys2Proof.Machine

/-- HCS# becomes active with these pins (R208): an IDLE port takes an arrival; a BUSY or DONE one does not take the select,
drives HWAIT# active for it, and lets it wait for the port to be IDLE. -/
def selectActive (p : HostPins) (s : State) : State :=
  match s.host.state with
  | .idle => arrive p s
  | _ => s.setHost { s.host with select := true, pins := p, reselect := true }

/-- While RST# is active HCS# is not taken, but the pins stand at the port (R211). -/
def selectInReset (p : HostPins) (s : State) : State :=
  s.setHost { s.host with select := true, pins := p }

/-- HCS# goes inactive (R209). A DONE port leaves for IDLE, where a select that waits is taken; a BUSY port goes on, and a
select that waited there is no longer active (R208). -/
def selectInactive (s : State) : State :=
  match s.host.state with
  | .done =>
    s.setHost { s.host with state := .idle, access := none, data := none, herr := false
                            select := s.host.reselect }
  | _ => s.setHost { s.host with select := false, reselect := false }

/-- HOST_ACCESS_ARRIVAL (R208, R9): sampling of the pins and classification. -/
def execHostAccessArrival (p : HostPins) (s : State) : Result :=
  if s.inReset then .next (selectInReset p s) else workEvent (selectActive p) s

/-- HOST_SELECT_WHILE_BUSY (R208). -/
def execHostSelectWhileBusy (p : HostPins) (s : State) : Result :=
  if s.inReset then .next (selectInReset p s) else workEvent (selectActive p) s

/-- HOST_SELECT_RELEASE (R209). -/
def execHostSelectRelease (s : State) : Result :=
  if s.inReset then .next (s.setHost { s.host with select := false, reselect := false })
  else workEvent selectInactive s

end Sys2Proof.Machine
end

