-- ==== Sys2Proof/Machine/LineCommands.lean ====
section
/-! DEFINITION. The commands of the setup line that carry no setup command of their own: characters, breaks, the gap
limit, the buffer and the reply (sections 9.1 to 9.4), and the frames that execute nothing (R178). -/

namespace Sys2Proof.Machine

/-- ADDRESS_CHARACTER (R172). -/
def execAddressCharacter (v : Byte) (s : State) : Result := event (takeAddress v) s

/-- FRAMING_ERROR (R171). -/
def execFramingError (s : State) : Result := event takeFramingError s

/-- BREAK (R175). -/
def execBreak (s : State) : Result := event takeBreak s

/-- FRAME_CHARACTER (R173). -/
def execFrameCharacter (v : Byte) (s : State) : Result := event (takeFrameCharacter v) s

/-- FRAME_BUFFERED (R176). -/
def execFrameBuffered (f : SetupFrame) (s : State) : Result := event (completeFrame f) s

/-- REPLY_START (R177). -/
def execReplyStart (s : State) : Result := event startReply s

/-- REPLY_END (R176, R177). -/
def execReplyEnd (s : State) : Result := event endReply s

/-- UNKNOWN_COMMAND (R178, step 3). -/
def execUnknownCommand (code : Byte) (payload : List Byte) (s : State) : Result :=
  event (completeFrame (goodFrame code payload)) s

/-- The frame of CHECK_ERROR_FRAME: its check sum is not 0. -/
def badCheckFrame (code : Byte) (payload : List Byte) : SetupFrame :=
  { goodFrame code payload with sumZero := false }

/-- CHECK_ERROR_FRAME (R178, step 1). -/
def execCheckErrorFrame (code : Byte) (payload : List Byte) (s : State) : Result :=
  event (completeFrame (badCheckFrame code payload)) s

/-- The frame of FRAME_LENGTH: its length character is above 250, and it holds the first 250 payload bytes. -/
def overlongFrame (code length : Byte) (payload : List Byte) : SetupFrame :=
  { code := code, length := length.toNat, payload := payload.take payloadLimit, sumZero := true }

/-- FRAME_LENGTH (R178, step 2). -/
def execFrameLength (code length : Byte) (payload : List Byte) (s : State) : Result :=
  event (completeFrame (overlongFrame code length payload)) s

end Sys2Proof.Machine
end

