-- ==== Sys2Proof/Machine/ResetCommands.lean ====
section
/-! DEFINITION. RESET and RESET_RELEASE (R215, R148), and the FLUSH input (R168). -/

namespace Sys2Proof.Machine

/-- The phases in which a reset leaves nothing of the item physical sector known (R91, R155). In CONTROL_WRITE R91 leaves the
target copy's content open, and Table 7-3 says what it is: the words written so far, and FFFFh above them. Both rules hold
of the content that Table 7-3 gives (log entry 18, DEDUCED). -/
def Phase.losesSector : Phase → Bool
  | .erase | .writeback | .relocate | .jobErase | .clearErase | .controlErase => true
  | .idle | .gather | .load | .program | .controlWrite | .controlVerify => false

/-- The flash bank after a reset (R113, R155): the array's operations are abandoned, and the sector under erase or writeback
is undefined. -/
def State.flashAfterReset (s : State) : FlashBank :=
  let m := (abandonOps s).flash
  match s.engine.itemPhys with
  | some p => if s.engine.phase.losesSector then m.loseSector p else m
  | none => m

/-- The part while RST# is active (R215): every block at its reset values. What stands outside the part stays: the commands
waiting at its edges, the level of HCS# with the host's pins, the level of FLUSH (Table 8-2), and the flash. -/
def resetPart (s : State) : State :=
  { State.reset with
    pending := s.pending
    host := { State.reset.host with select := s.host.select, pins := s.host.pins }
    mc := { State.reset.mc with flushHigh := s.mc.flushHigh }
    flash := s.flashAfterReset }

/-- RESET (R215): also from within reset, where it changes nothing further. -/
def execReset (s : State) : Result := .next (resetPart s)

/-- ARST# is released with RST# (R112): with AREADY high the port may issue an operation at once, and else it waits for
AREADY as after a pulse (R212). -/
def ArrayPort.released (p : ArrayPort) (ready : Bool) : ArrayPort :=
  { p with arst := if ready then .inactive else .pulse, arstTimer := if ready then 0 else arstLimit }

/-- The release of RST# begins start-up (R148): the straps are sampled (R213), the ticks begin from 0 (R214), ARST# is
released (R112) and the first READ of copy A is claimed; a select that is active is taken as an arrival (R211). -/
def beginStartUp (pins : ReleasePins) (s : State) : State :=
  let s := { s with inReset := false, straps := pins.straps, time := 0 }
  let s := s.setPort (s.port.released pins.aready)
  let s := claimCopyRead { copy := .a, words := [], judgedA := none } s
  if s.host.select then arrive s.host.pins s else s

/-- RESET_RELEASE (R148): with RST# already released there is no release, and nothing changes. -/
def execResetRelease (pins : ReleasePins) (s : State) : Result :=
  if s.inReset then .next (refresh (finish (beginStartUp pins s))) else .next s

/-- A change of the FLUSH input is taken (R168): at a rise every STAGED region that holds entries is marked (R37). -/
def takeFlushLevel (high : Bool) (s : State) : State :=
  let s := s.setMc { s.mc with flushHigh := high }
  if high then markAll s else s

/-- FLUSH_LEVEL_CHANGE (R168, R213). While RST# is active the level stands at the input (Table 8-2). -/
def execFlushLevelChange (high : Bool) (s : State) : Result :=
  if s.inReset then .next (s.setMc { s.mc with flushHigh := high }) else workEvent (takeFlushLevel high) s

end Sys2Proof.Machine
end

