-- ==== Sys2Proof/Machine/SetupCommands.lean ====
section
/-! DEFINITION. The fourteen setup commands (section 9.6): each is the completion of a frame of its command with this
payload, which is executed or buffered by R176 (log entry 7). Their effects are in Machine/SetupFrames.lean. -/

namespace Sys2Proof.Machine

/-- A frame of a setup command completes. -/
def commandFrame (c : SetupCommand) (payload : List Byte) (s : State) : Result :=
  event (completeFrame (goodFrame c.code payload)) s

/-- IDENT (R181). -/
def execIdent (payload : List Byte) (s : State) : Result := commandFrame .ident payload s
/-- STATUS (R182). -/
def execStatus (payload : List Byte) (s : State) : Result := commandFrame .status payload s
/-- FAULT_READ (R183). -/
def execFaultRead (payload : List Byte) (s : State) : Result := commandFrame .faultRead payload s
/-- SETUP_READ (R187). -/
def execSetupRead (payload : List Byte) (s : State) : Result := commandFrame .setupRead payload s
/-- REMAP_READ (R193). -/
def execRemapRead (payload : List Byte) (s : State) : Result := commandFrame .remapRead payload s
/-- FLUSH (R184). -/
def execFlush (payload : List Byte) (s : State) : Result := commandFrame .flush payload s
/-- PURGE (R185). -/
def execPurge (payload : List Byte) (s : State) : Result := commandFrame .purge payload s
/-- HOLD (R157). -/
def execHold (payload : List Byte) (s : State) : Result := commandFrame .hold payload s
/-- RELEASE (R159). -/
def execRelease (payload : List Byte) (s : State) : Result := commandFrame .release payload s
/-- SETUP_LOAD (R163). -/
def execSetupLoad (payload : List Byte) (s : State) : Result := commandFrame .setupLoad payload s
/-- SETUP_STORE (R189). -/
def execSetupStore (payload : List Byte) (s : State) : Result := commandFrame .setupStore payload s
/-- PROTECT (R190). -/
def execProtect (payload : List Byte) (s : State) : Result := commandFrame .protect payload s
/-- SECTOR_ERASE (R191). -/
def execSectorErase (payload : List Byte) (s : State) : Result := commandFrame .sectorErase payload s
/-- ARRAY_CLEAR (R192). -/
def execArrayClear (payload : List Byte) (s : State) : Result := commandFrame .arrayClear payload s

end Sys2Proof.Machine
end

