-- ==== Sys2Proof/Machine/StatusCommands.lean ====
section
/-! DEFINITION. STSCLK_RISING_EDGE: the status stream (section 10.5). -/

namespace Sys2Proof.Machine

/-- The position after an edge with N regions (R203). -/
def nextSlot (n : Nat) : Option Nat → Nat
  | none => 0
  | some k => if k < n then k + 1 else 0

/-- The values of slot k: a region slot below N, the device slot at N (R203 to R205). -/
def State.slotValue (s : State) (k : Nat) : BitVec 4 :=
  if k < s.regions.length then s.regionSlot k else s.deviceSlot

/-- A rising edge of STSCLK (R203): ignored until the stream runs (R206). -/
def takeEdge (s : State) : State :=
  if s.stream.running then
    let k := nextSlot s.regions.length s.stream.position
    s.setStream { s.stream with position := some k, sts := s.slotValue k, stsync := k == 0 }
  else s

/-- STSCLK_RISING_EDGE (R203). -/
def execStsclkRisingEdge (s : State) : Result := event takeEdge s

end Sys2Proof.Machine
end

