-- ==== Sys2Proof/Machine/TimeCommands.lean ====
section
/-! DEFINITION. The commands that say a time limit is reached: the microsecond ticks that were still to come have passed
(R214), and the limit is taken (log entry 3). A limit of a timer that does not run is not reached, and changes
nothing (log entry 4). -/

namespace Sys2Proof.Machine

/-- STALL_LIMIT_EXPIRY (R28). -/
def execStallLimitExpiry (s : State) : Result :=
  workEvent (fun s => stallExpiryTaken (elapse s.ticksToStallLimit s)) s

/-- REGION_AGE_LIMIT (R35): the region is aged, and a selection follows (R65). -/
def execRegionAgeLimit (r : BitVec 4) (s : State) : Result :=
  workEvent (fun s => elapse (s.ticksToAge r.toNat) s) s

/-- GAP_TIMEOUT (R174). -/
def execGapTimeout (s : State) : Result :=
  workEvent (fun s => gapTimeoutTaken (elapse s.ticksToGapLimit s)) s

/-- OPERATION_TIMEOUT (R103). -/
def execOperationTimeout (s : State) : Result :=
  workEvent (fun s => operationTimeoutTaken (elapse s.ticksToOpLimit s)) s

/-- SUSPEND_TIMEOUT (R104). -/
def execSuspendTimeout (limit : SuspendLimit) (s : State) : Result :=
  workEvent (fun s => suspendTimeoutTaken limit (elapse (s.ticksToSuspendLimit limit) s)) s

/-- INNER_OPERATION_TIMEOUT (R105). -/
def execInnerOperationTimeout (s : State) : Result :=
  workEvent (fun s => innerTimeoutTaken (elapse s.ticksToInnerLimit s)) s

end Sys2Proof.Machine
end

