-- ==== Sys2Proof/Machine/Dispatch.lean ====
section
/-! DEFINITION. The effect of each command, one arm a row of spec/opcode_table.json. -/

namespace Sys2Proof.Machine

def exec (i : Instr) (s : State) : Host.Outcome State Fault Refusal :=
  match i with
  | .hostAccessArrival p => Sys2Proof.Machine.execHostAccessArrival p s
  | .hostSelectRelease => Sys2Proof.Machine.execHostSelectRelease s
  | .reset => Sys2Proof.Machine.execReset s
  | .resetRelease pins => Sys2Proof.Machine.execResetRelease pins s
  | .flushLevelChange high => Sys2Proof.Machine.execFlushLevelChange high s
  | .stsclkRisingEdge => Sys2Proof.Machine.execStsclkRisingEdge s
  | .addressCharacter v => Sys2Proof.Machine.execAddressCharacter v s
  | .framingError => Sys2Proof.Machine.execFramingError s
  | .breakDetected => Sys2Proof.Machine.execBreak s
  | .gapTimeout => Sys2Proof.Machine.execGapTimeout s
  | .frameBuffered f => Sys2Proof.Machine.execFrameBuffered f s
  | .replyStart => Sys2Proof.Machine.execReplyStart s
  | .replyEnd => Sys2Proof.Machine.execReplyEnd s
  | .ident p => Sys2Proof.Machine.execIdent p s
  | .status p => Sys2Proof.Machine.execStatus p s
  | .faultRead p => Sys2Proof.Machine.execFaultRead p s
  | .setupRead p => Sys2Proof.Machine.execSetupRead p s
  | .remapRead p => Sys2Proof.Machine.execRemapRead p s
  | .flush p => Sys2Proof.Machine.execFlush p s
  | .purge p => Sys2Proof.Machine.execPurge p s
  | .hold p => Sys2Proof.Machine.execHold p s
  | .release p => Sys2Proof.Machine.execRelease p s
  | .setupLoad p => Sys2Proof.Machine.execSetupLoad p s
  | .setupStore p => Sys2Proof.Machine.execSetupStore p s
  | .protect p => Sys2Proof.Machine.execProtect p s
  | .sectorErase p => Sys2Proof.Machine.execSectorErase p s
  | .arrayClear p => Sys2Proof.Machine.execArrayClear p s
  | .unknownCommand code p => Sys2Proof.Machine.execUnknownCommand code p s
  | .stallLimitExpiry => Sys2Proof.Machine.execStallLimitExpiry s
  | .regionAgeLimit r => Sys2Proof.Machine.execRegionAgeLimit r s
  | .arrayReadEnd w => Sys2Proof.Machine.execArrayReadEnd w s
  | .arrayProgramEnd pass => Sys2Proof.Machine.execArrayProgramEnd pass s
  | .arrayEraseEnd pass => Sys2Proof.Machine.execArrayEraseEnd pass s
  | .suspendAcknowledgement => Sys2Proof.Machine.execSuspendAcknowledgement s
  | .operationTimeout => Sys2Proof.Machine.execOperationTimeout s
  | .suspendTimeout limit => Sys2Proof.Machine.execSuspendTimeout limit s
  | .innerOperationTimeout => Sys2Proof.Machine.execInnerOperationTimeout s
  | .arstPulseEnd => Sys2Proof.Machine.execArstPulseEnd s
  | .frameCharacter v => Sys2Proof.Machine.execFrameCharacter v s
  | .checkErrorFrame code p => Sys2Proof.Machine.execCheckErrorFrame code p s
  | .frameLength code n p => Sys2Proof.Machine.execFrameLength code n p s
  | .hostSelectWhileBusy p => Sys2Proof.Machine.execHostSelectWhileBusy p s

end Sys2Proof.Machine
end

