-- ==== Sys2Proof/Machine/Step.lean ====
section
/-! DEFINITION. One step of the part: the command at the front of the queue, or a microsecond tick when none waits. -/

namespace Sys2Proof.Machine

/-- A command put at the front of the queue. -/
def State.push (s : State) (c : Instr) : State := s.setPending (c :: s.pending)

/-- The command that a table word spells, put at the front of the queue; a word that spells none changes nothing. -/
def State.withFetchWord (s : State) (nbits w : Nat) : State :=
  match decodeTableWord nbits w with
  | some c => s.push c
  | none => s

/-- One step: the command at the front of the queue is taken with the queue's rest; with no command waiting, one
microsecond tick passes (R214; log entry 2). -/
def step (s : State) : Host.Outcome State Fault Refusal :=
  match s.pending with
  | [] => .next (tick s)
  | c :: rest => exec c (s.setPending rest)

end Sys2Proof.Machine
end

