-- ==== Sys2Proof/Safety.lean ====
section
/-! DEFINITION. What holds of the part along every run, in the terms the statements use: the laws that the chapters
state of its blocks, and when an event leaves nothing more to do. -/

namespace Sys2Proof.Machine

/-! ### Laws of the state -/

/-- ATTN and DRAINED stand as their facts say (R202, R169). -/
def State.OutputsTrack (s : State) : Prop := s.log.attn = s.attnFacts ∧ s.mc.drained = s.drainedFacts

/-- The values that the part holds while RST# is active (R215): those of State.reset but for what stands outside it, namely
the commands waiting, the level of HCS# and the host's pins, the level of FLUSH (Table 8-2) and the flash. -/
def State.heldInReset (s : State) : State :=
  { State.reset with
    pending := s.pending
    host := { State.reset.host with select := s.host.select, pins := s.host.pins }
    mc := { State.reset.mc with flushHigh := s.mc.flushHigh }
    flash := s.flash }

/-- While RST# is active the part holds its reset values (R215). -/
def State.ResetHolds (s : State) : Prop := s.inReset = true → s = s.heldInReset

/-- The laws of the fault log (R199): at most 32 records, an unstored count of 0..255 that is above 0 only while the log
holds records. -/
def FaultLog.Lawful (l : FaultLog) : Prop :=
  l.records.length ≤ logLimit ∧ l.unstored ≤ 255 ∧ (0 < l.unstored → l.records ≠ [])

/-- The laws of one entry of region r (R20): it names the region, and its data holds FFh outside its lanes. -/
def Entry.Lawful (r : Nat) (e : Entry) : Prop := e.region = r ∧ e.data ||| e.mask.bits = 0xFFFF

/-- The laws of the staging store (R20, R21): no queue above its capacity, and every entry lawful. -/
def State.StoreLawful (s : State) : Prop :=
  ∀ r, s.count r ≤ s.capacity r ∧ ∀ e ∈ s.queue r, e.Lawful r

/-- The laws of the setup port (R172 to R177): the gap timer runs just outside WAIT_COMMAND, at most 250 payload bytes
are held, an unselected receiver is in WAIT_COMMAND, a reply is in hand just while the transmitter is not QUIET, and a
frame is buffered only then, received under a selection. -/
def SetupPort.Lawful (p : SetupPort) : Prop :=
  (p.gapTimer.isNone ↔ p.rx = .waitCommand) ∧ p.part.payload.length ≤ payloadLimit
    ∧ (p.selection = .none → p.rx = .waitCommand) ∧ (p.reply.isNone ↔ p.tx = .quiet)
    ∧ ∀ b, p.buffer = some b → p.tx ≠ .quiet ∧ b.selection ≠ .none

/-- The issuer claims on the host side (R94). -/
def Issuer.ofHost : Issuer → Bool
  | .hostRead | .directWrite => true
  | .engine | .startUp => false

/-- The laws of the array port's claims and operations (R93, R94, R98): each claim is one of its own side, a FREE port runs
nothing, and an inner operation runs only inside a suspension. -/
def ArrayPort.Lawful (p : ArrayPort) : Prop :=
  (∀ o, p.hostClaim = some o → o.issuer.ofHost = true) ∧ (∀ o, p.engClaim = some o → o.issuer.ofHost = false)
    ∧ (p.state = .free → p.op = none) ∧ (p.state ≠ .suspended → p.inner = none)

/-- The laws of the array port with those of array loss (R106, R107, R167): the mode is OFFLINE just when the port is
STOPPED, with the consecutive timeout count at 2; otherwise the count is 0 or 1. -/
def State.PortLawful (s : State) : Prop :=
  s.port.Lawful ∧ (s.mc.mode = .offline ↔ s.port.state = .stopped)
    ∧ (s.port.state = .stopped → s.port.consecutive = 2) ∧ (s.port.state ≠ .stopped → s.port.consecutive ≤ 1)

/-- The law of the read assembler (R48): it holds an access just while it is not IDLE. -/
def State.ReaderLawful (s : State) : Prop := s.reader.state = .idle ↔ s.reader.access = none

/-! ### Laws of the engine's work and of the sector map -/

/-- The laws of the sector map under S spares (R116, R117): no sector has two entries, no spare two, and every target is a
spare below S. -/
def SectorMap.Lawful (m : SectorMap) (spares : Nat) : Prop :=
  (m.remap.map (·.sector)).Nodup ∧ (m.remap.filterMap (·.target)).Nodup
    ∧ ∀ e ∈ m.remap, ∀ i, e.target = some i → i < spares

/-- Spare i is FREE by the map (R116): no entry names it, and it is not BAD. -/
def SectorMap.Frees (m : SectorMap) (i : Nat) : Prop := (∀ e ∈ m.remap, e.target ≠ some i) ∧ m.bad.getLsbD i = false

/-- The map's laws under the spare count in force, and no entry names a BAD spare (R116, R124). -/
def State.MapLawful (s : State) : Prop :=
  s.map.Lawful s.spareCount ∧ ∀ e ∈ s.map.remap, ∀ i, e.target = some i → s.map.bad.getLsbD i = false

/-- The work items in which the engine is in a phase (Table 4-2). -/
def Phase.items : Phase → List WorkItem
  | .idle => [.none]
  | .gather | .load | .program | .erase | .writeback => [.regionCommit]
  | .relocate => [.regionCommit, .eraseJob, .clearStep]
  | .jobErase => [.eraseJob]
  | .clearErase => [.clearStep]
  | .controlErase | .controlWrite | .controlVerify => [.controlUpdate]

/-- The engine's item is one of its phase, and a spare is on trial just in RELOCATE, FREE and below S (Table 4-2, R118). -/
def State.TrialLawful (s : State) : Prop :=
  s.engine.item ∈ s.engine.phase.items ∧ (s.engine.phase = .relocate ↔ s.engine.spareOnTrial.isSome = true)
    ∧ ∀ i, s.engine.spareOnTrial = some i → i < s.spareCount ∧ s.map.Frees i

/-- What the modes rule out: HELD and CLEARING have empty queues and no commit in flight (R158); from HOLDING on no write
stalls (R29); a clear step runs in CLEARING (R86), and stays where array loss stops it (R90); start-up and reset are in
STARTUP, where the engine is IDLE (R148, R156). -/
def State.ModeLawful (s : State) : Prop :=
  (s.mc.mode = .held ∨ s.mc.mode = .clearing → s.queuesEmpty = true ∧ s.engine.item ≠ .regionCommit)
    ∧ (s.mc.mode = .holding ∨ s.mc.mode = .held ∨ s.mc.mode = .clearing → s.stall = none)
    ∧ (s.engine.item = .clearStep → s.mc.mode = .clearing ∨ s.mc.mode = .offline)
    ∧ (s.startup.isSome = true ∨ s.inReset = true → s.mc.mode = .startup)
    ∧ (s.mc.mode = .startup → s.engine.phase = .idle)

/-- Copy A as judged during start-up holds valid tables (R139). -/
def State.JudgedLawful (s : State) : Prop :=
  ∀ u, s.startup = some u → ∀ r, u.judgedA = some (some r) → tablesValid r = true

/-- The laws that keep the sector map lawful from step to step. -/
def State.WorkLawful (s : State) : Prop := s.MapLawful ∧ s.TrialLawful ∧ s.ModeLawful ∧ s.JudgedLawful

/-! ### Ends of events -/

/-- The engine has a work item to select (R66). -/
def State.hasWork (s : State) : Bool :=
  s.maySelect && (s.cru.updatePending || (s.engine.jobPending && s.mc.mode != .clearing) || s.mc.mode == .clearing
    || s.dueRegion.isSome)

/-- Nothing waits for the end of an event: no drain to take (R158), no work to select (R65), no claim to grant in a FREE
port (R95) and no select to take in an IDLE host port (R208). -/
def State.Rests (s : State) : Prop :=
  s.hasWork = false ∧ ¬(s.mc.mode = .holding ∧ s.queuesEmpty = true ∧ s.engine.item ≠ .regionCommit)
    ∧ (s.port.state = .free → s.port.hostClaim = none ∧ s.port.engClaim = none)
    ∧ ¬(s.host.state = .idle ∧ s.host.reselect = true)

/-- No host access is held by a block: the host port is IDLE with no select waiting, the read assembler is IDLE, and no
write is stalled or being programmed. -/
def State.HostFree (s : State) : Prop :=
  s.inReset = false ∧ s.host.state = .idle ∧ s.host.reselect = false ∧ s.reader.state = .idle ∧ s.stall = none
    ∧ s.port.direct = none

/-- A region whose queue and policy take a staged write: the sector is inside the window in RUN, in the STAGED region r,
neither retired nor protected. -/
def State.Stages (s : State) (a : HostAddr) (r : Nat) : Prop :=
  s.mc.mode = .run ∧ sectorOf a < s.window ∧ s.regionOf (sectorOf a) = some r ∧ s.hasPolicy r .staged = true
    ∧ (s.map.translate (sectorOf a)).isSome = true ∧ s.map.protects (sectorOf a) = false

/-- The pins bring a write on the lanes of a mask (R210). -/
def writesLanes (p : HostPins) (m : LaneMask) : Prop := p.write = true ∧ lanesOf p.lane0 p.lane1 = some m

/-! ### Setup port -/

/-- The part is out of reset, SELECTED, and its transmitter is QUIET: a frame that completes is executed at once, and its
reply is sent (R176, R177). -/
def State.Listens (s : State) : Prop :=
  s.inReset = false ∧ s.setup.selection = .selected ∧ s.setup.tx = .quiet

/-- The part with a reply due (R177), its receiver waiting for a command. -/
def State.replies (s : State) (r : Reply) : State :=
  s.setSetup { s.setup.dropPart with tx := .replyDue, reply := some r }

/-- The part is out of reset under a selection, and its transmitter is QUIET: a frame that completes is executed at once
(R176). -/
def State.Hears (s : State) : Prop := s.inReset = false ∧ s.setup.selection ≠ .none ∧ s.setup.tx = .quiet

/-- The part after a frame that it hears: under SELECTED the reply is due, and under BROADCAST none is sent (R177). -/
def State.answers (s : State) (r : Reply) : State :=
  if s.setup.selection = .selected then s.replies r else s.setSetup s.setup.dropPart

/-- The host port presents the outcome of the access with these pins, HCS# held for it (R209). -/
def HostPort.presents (p : HostPins) (data : Option Word) (herr : Bool) : HostPort :=
  { state := .done, access := some p, data := data, herr := herr, select := true, pins := p, reselect := false }

/-- The host port holds the access with these pins: HWAIT# is active (R208). -/
def HostPort.holds (p : HostPins) : HostPort :=
  { state := .busy, access := some p, data := none, herr := false, select := true, pins := p, reselect := false }

/-- What an entry holds apart from its state: a gather, which may follow in the same event, leaves it. -/
structure EntryContent where
  addr  : HostAddr
  data  : Word
  mask  : LaneMask
  stamp : BitVec 32
deriving DecidableEq, Repr

/-- An entry's content. -/
def Entry.content (e : Entry) : EntryContent := { addr := e.addr, data := e.data, mask := e.mask, stamp := e.stamp }

/-- The contents of region r's queue, oldest first. -/
def State.contents (s : State) (r : Nat) : List EntryContent := (s.queue r).map Entry.content

/-- The command of the table that a setup command's frame is (log entry 7). -/
def SetupCommand.instr (c : SetupCommand) (payload : List Byte) : Instr :=
  match c with
  | .ident => .ident payload
  | .status => .status payload
  | .faultRead => .faultRead payload
  | .setupRead => .setupRead payload
  | .remapRead => .remapRead payload
  | .flush => .flush payload
  | .purge => .purge payload
  | .hold => .hold payload
  | .release => .release payload
  | .setupLoad => .setupLoad payload
  | .setupStore => .setupStore payload
  | .protect => .protect payload
  | .sectorErase => .sectorErase payload
  | .arrayClear => .arrayClear payload

/-! ### Array port -/

/-- The port runs an operation that is issued to the array, out of reset. -/
def State.Runs (s : State) (x : RunningOp) : Prop :=
  s.inReset = false ∧ s.port.state = .running ∧ s.port.op = some x ∧ x.issued = true

/-- The host read in hand: its READ is issued, and the host is held for it. -/
def State.Reads (s : State) (p : HostPins) (x : ReadAccess) : Prop :=
  p.write = false ∧ s.host = HostPort.holds p ∧ s.reader = { state := .reading, access := some x } ∧ s.port.direct = none
    ∧ s.port.hostClaim = some x.op

/-- The direct write in hand: its claim stands, and the host is held for it. -/
def State.WritesDirect (s : State) (p : HostPins) (d : DirectWrite) : Prop :=
  s.host = HostPort.holds p ∧ s.reader.state = .idle ∧ s.port.direct = some d ∧ d.held = false
    ∧ s.port.hostClaim = some d.op

/-- An erase of the commit in flight: phase ERASE on its physical sector, the engine waiting for its end (R77). -/
def State.ErasesForCommit (s : State) (psec : Nat) : Prop :=
  s.engine.phase = .erase ∧ s.engine.item = .regionCommit ∧ s.engine.itemPhys = some psec
    ∧ s.port.engClaim = some { kind := .erase, psec := psec, offset := 0, value := 0, issuer := .engine }

/-- The engine runs an operation for its item, with nothing that would come between its end and the next operation: no host
claim, no ARST# pulse and no select waiting. -/
def State.EngineRuns (s : State) (x : RunningOp) : Prop :=
  s.Runs x ∧ x.op.issuer = .engine ∧ s.port.hostClaim = none ∧ s.port.arst = .inactive ∧ s.host.reselect = false

/-- The port runs an operation that has just been issued to the array. -/
def State.Issues (s : State) (o : ArrayOp) : Prop :=
  s.port.state = .running ∧ s.port.op = some { op := o, timer := 0, issued := true }

/-- The engine's operation on a physical sector. -/
def engineOp (kind : OpKind) (psec offset : Nat) (value : Word) : ArrayOp :=
  { kind := kind, psec := psec, offset := offset, value := value, issuer := .engine }

/-- Start-up reads word k of a copy (R149), nothing else being claimed. -/
def State.ReadsCopy (s : State) (u : StartUp) (x : RunningOp) : Prop :=
  s.Runs x ∧ s.startup = some u
    ∧ x.op = { kind := .read, psec := copySector u.copy, offset := u.words.length, value := 0, issuer := .startUp }
    ∧ s.port.hostClaim = none ∧ s.port.arst = .inactive ∧ s.mc.mode = .startup ∧ s.engine.phase = .idle
    ∧ s.engine.jobPending = false ∧ s.host.state = .idle ∧ s.host.reselect = false

/-! ### Work items -/

/-- A commit's image is written on from an offset: the ERASE of its sector, or of the spare on trial, passes, or the PROGRAM
of the word before does (R78, R120). -/
def State.WritesOn (s : State) (c : Instr) (x : RunningOp) (start : Nat) : Prop :=
  s.engine.item = .regionCommit
    ∧ ((c = .arrayEraseEnd true ∧ x.op.kind = .erase ∧ (s.engine.phase = .erase ∨ s.engine.phase = .relocate) ∧ start = 0)
      ∨ (c = .arrayProgramEnd true ∧ x.op.kind = .program ∧ (s.engine.phase = .writeback ∨ s.engine.phase = .relocate)
        ∧ start = x.op.offset + 1))

/-- The item's physical sector fails: the third attempt of its ERASE (R77, R84, R86), or the second of a word on the LOAD
path or in WRITEBACK (R76, R78). -/
def State.SectorFails (s : State) (c : Instr) (x : RunningOp) : Prop :=
  (c = .arrayEraseEnd false ∧ x.op.kind = .erase ∧ 3 ≤ s.engine.eraseAttempts
    ∧ (s.engine.phase, s.engine.item) ∈
      [(Phase.erase, WorkItem.regionCommit), (Phase.jobErase, WorkItem.eraseJob), (Phase.clearErase, WorkItem.clearStep)])
  ∨ (c = .arrayProgramEnd false ∧ x.op.kind = .program ∧ 2 ≤ s.engine.programAttempts ∧ s.engine.item = .regionCommit
    ∧ (s.engine.phase = .writeback ∨ (s.engine.phase = .program ∧ s.engine.path = some .load)))

/-- An item relocates its sector with spare i on trial (R118). -/
def State.Tries (s : State) (i : Nat) : Prop :=
  s.engine.phase = .relocate ∧ s.engine.spareOnTrial = some i
    ∧ s.engine.item ∈ [WorkItem.regionCommit, WorkItem.eraseJob, WorkItem.clearStep]

/-- The trial of spare i ends in failure: the third attempt of its ERASE, or the second of a word (R120, R121, R123). -/
def State.SpareFails (s : State) (c : Instr) (x : RunningOp) (i : Nat) : Prop :=
  s.Tries i ∧ ((c = .arrayEraseEnd false ∧ x.op.kind = .erase ∧ 3 ≤ s.engine.eraseAttempts)
    ∨ (c = .arrayProgramEnd false ∧ x.op.kind = .program ∧ 2 ≤ s.engine.programAttempts))

/-- The trial of spare i ends in success: its ERASE passes for a job or a clear step, or a commit's image is written to its
end (R120, R121). -/
def State.SparePasses (s : State) (c : Instr) (x : RunningOp) (i : Nat) : Prop :=
  s.Tries i ∧ ((c = .arrayEraseEnd true ∧ x.op.kind = .erase ∧ s.engine.item ≠ .regionCommit)
    ∨ ∃ start, s.WritesOn c x start ∧ ∀ o, start ≤ o → o < 2048 → s.engine.mergeWord o = 0xFFFF)

/-- The item of s has ended in t: a commit has served its region and the merge buffer is invalid (R80, R81), a job has its
result (R84), a clear step's sector is passed (R86). -/
def State.ItemEnded (s t : State) (result : JobResult) : Prop :=
  (s.engine.item = .regionCommit → t.engine.lastServed = s.engine.itemRegion ∧ t.engine.mergeValid = false)
    ∧ (s.engine.item = .eraseJob →
      t.engine.jobPending = false ∧ t.engine.jobSector = none ∧ t.engine.lastJobResult = result)
    ∧ (s.engine.item = .clearStep → s.engine.sector < t.mc.clearIndex)

/-- A commit's end of LOAD that waits for a host read is to retire the item sector (R60, R75, R125). -/
def State.AwaitsRetirement (s : State) : Prop :=
  s.endOfLoadWaits = true ∧ s.engine.item = .regionCommit ∧ s.loadRetires = true

/-- From s to t the commit has retired its sector: its entry names NONE, and the commit has ended (R80, R125). -/
def State.Retires (s t : State) : Prop :=
  s.ItemEnded t .retired ∧ t.map.remap = if (s.map.entryOf s.engine.sector).isSome then
      s.map.remap.map fun e => if e.sector = s.engine.sector then { e with target := none } else e
    else s.map.remap ++ [{ sector := s.engine.sector, target := none }]

/-- What the engine's item, the host and the log have after a timeout of t is what they have in u, but that the operation
issued next waits for the end of the ARST# pulse (R212). -/
def State.SameButPulse (t u : State) : Prop :=
  t.engine = u.engine ∧ t.map = u.map ∧ t.cru = u.cru ∧ t.mc = u.mc ∧ t.log = u.log ∧ t.host = u.host
    ∧ (∀ r, t.contents r = u.contents r ∧ t.marked r = u.marked r)
    ∧ t.port.direct = u.port.direct ∧ t.port.hostClaim = u.port.hostClaim ∧ t.port.engClaim = u.port.engClaim
    ∧ t.port.state = u.port.state ∧ t.port.op = u.port.op.map fun y => { y with issued := false }

end Sys2Proof.Machine
end

