-- ==== Sys2Proof/WellFormed.lean ====
section
/-! DEFINITION. The commands as the edges of the part can bring them: what the receiver can hand on as a frame (R173)
and what a row's own name says of its frame (R178). `exec` gives every command a meaning, well-formed or not. -/

namespace Sys2Proof

open Machine

/-- A payload of a frame that the receiver holds whole (R173). -/
def payloadFits (payload : List Byte) : Bool := decide (payload.length ≤ payloadLimit)

/-- A frame as the receiver completes it (R173): a length character of 0..255, and the payload held up to the 250th
byte. -/
def SetupFrame.wellFormed (f : SetupFrame) : Bool :=
  decide (f.length ≤ 255 ∧ f.payload.length = min f.length payloadLimit)

/-- What a command's operands must meet to be one that the part's edges can bring. -/
def Instr.wellFormed : Instr → Bool
  | .hostAccessArrival _ => true
  | .hostSelectRelease => true
  | .reset => true
  | .resetRelease _ => true
  | .flushLevelChange _ => true
  | .stsclkRisingEdge => true
  | .addressCharacter _ => true
  | .framingError => true
  | .breakDetected => true
  | .gapTimeout => true
  | .frameBuffered f => f.wellFormed
  | .replyStart => true
  | .replyEnd => true
  | .ident p => payloadFits p
  | .status p => payloadFits p
  | .faultRead p => payloadFits p
  | .setupRead p => payloadFits p
  | .remapRead p => payloadFits p
  | .flush p => payloadFits p
  | .purge p => payloadFits p
  | .hold p => payloadFits p
  | .release p => payloadFits p
  | .setupLoad p => payloadFits p
  | .setupStore p => payloadFits p
  | .protect p => payloadFits p
  | .sectorErase p => payloadFits p
  | .arrayClear p => payloadFits p
  | .unknownCommand code p => (commandOf code).isNone && payloadFits p
  | .stallLimitExpiry => true
  | .regionAgeLimit _ => true
  | .arrayReadEnd _ => true
  | .arrayProgramEnd _ => true
  | .arrayEraseEnd _ => true
  | .suspendAcknowledgement => true
  | .operationTimeout => true
  | .suspendTimeout _ => true
  | .innerOperationTimeout => true
  | .arstPulseEnd => true
  | .frameCharacter _ => true
  | .checkErrorFrame _ p => payloadFits p
  | .frameLength _ length p => decide (payloadLimit < length.toNat) && decide (p.length = payloadLimit)
  | .hostSelectWhileBusy _ => true

end Sys2Proof
end

