-- ==== Sys2Proof/Certificates/Slice0/Obligations.lean ====
section
/-! DEFINITION. The statements for the provers. -/

open Sys2Proof Sys2Proof.Machine

/-! ### The machine -/

/-- A step runs the command at the front of the queue on the state with the queue's rest. -/
def Obligations.StepRunsFrontCommand : Prop :=
  ∀ (c : Instr) (s : State) (rest : List Instr), s.pending = c :: rest → step s = exec c (s.setPending rest)

/-- No command stops the part, and none changes the commands that wait behind it. -/
def Obligations.EveryCommandCompletesAndKeepsQueue : Prop :=
  ∀ (c : Instr) (s : State), ∃ t, exec c s = .next t ∧ t.pending = s.pending

/-- With no command waiting, one microsecond passes, and none while RST# is active, when both ticks are held (R214).
That an empty queue is a tick is the model's choice (log entry 2). -/
def Obligations.IdleStepIsOneTick : Prop :=
  ∀ s : State, s.pending = [] →
    (s.inReset = true → step s = .next s)
      ∧ (s.inReset = false → ∃ t, step s = .next t ∧ t.time = s.time + 1 ∧ t.inReset = false)

/-- What reset leaves: the values the chapters give (Tables 2-2, 4-1, 7-1, 8-2, 9-1, 10-1; R48, R93, R114, R193, R194, R206,
R211, R214), the empty sector map, the empty partial frame and the released SRO among them. -/
def Obligations.ResetValues : Prop :=
  let s := State.reset
  (s.queues = [] ∧ s.stall = none ∧ s.image = none)
    ∧ (s.reader.state = .idle ∧ s.reader.access = none ∧ s.host.state = .idle ∧ s.hwait = false ∧ s.hd = none
      ∧ s.herrPin = false)
    ∧ (s.engine.phase = .idle ∧ s.engine.item = .none ∧ s.engine.itemRegion = none ∧ s.engine.itemSector = none
      ∧ s.engine.itemPhys = none ∧ s.engine.path = none ∧ s.engine.gathered = [] ∧ s.engine.entryCount = 0
      ∧ s.engine.mergeValid = false ∧ s.engine.mergeSector = none ∧ s.engine.eraseAttempts = 0
      ∧ s.engine.programAttempts = 0 ∧ s.engine.spareOnTrial = none ∧ s.engine.lastServed = none
      ∧ s.engine.jobPending = false ∧ s.engine.jobSector = none ∧ s.engine.lastJobResult = .none
      ∧ s.engine.boundReloc = false ∧ s.engine.stopped = false)
    ∧ (s.port.state = .free ∧ s.port.op = none ∧ s.port.inner = none ∧ s.port.suspCount = 0 ∧ s.port.consecutive = 0
      ∧ s.port.hostClaim = none ∧ s.port.engClaim = none ∧ s.port.direct = none ∧ s.arstPin = true)
    ∧ (s.cru.current = none ∧ s.cru.generation = 0 ∧ s.cru.healthGood = false ∧ s.cru.updatePending = false)
    ∧ (s.mc.mode = .startup ∧ s.mc.refused = 0 ∧ s.mc.clearIndex = 0 ∧ s.mc.drained = false)
    ∧ (s.setup.selection = .none ∧ s.setup.rx = .waitCommand ∧ s.setup.gapTimer = none ∧ s.setup.buffer = none
      ∧ s.setup.tx = .quiet ∧ s.setup.reply = none
      ∧ s.setup.part = { command := 0, length := 0, payload := [], taken := 0, sum := 0 } ∧ s.sro = none)
    ∧ (s.map.remap = [] ∧ s.map.bad = 0 ∧ s.map.protection = [] ∧ s.startup = none)
    ∧ (s.log.records = [] ∧ s.log.unstored = 0 ∧ s.log.nextSeq = 0 ∧ s.log.attn = false)
    ∧ (s.stream.running = false ∧ s.stream.position = none ∧ s.stream.sts = 0 ∧ s.stream.stsync = false)
    ∧ s.time = 0 ∧ s.msTick = 0

/-- RESET: every block at its reset values, what stands outside the part as it was (R215; that the pins' levels and the
commands waiting stay is log entry 19; that the merge buffer's words are FFFFh and the straps low is log entries 10 and 20,
the model's choices). The flash is as R155 and Table 7-3 say: the sector worked on in ERASE, WRITEBACK, RELOCATE, JOB_ERASE,
CLEAR_ERASE or CONTROL_ERASE is undefined, and nothing of it is known; so is a sector whose ERASE is abandoned; the word of
a PROGRAM that is abandoned has bits old or cleared toward its value; every other word is as it was, in CONTROL_WRITE too,
where the target copy keeps the words written so far (that R91's list of phases yields to R155 there is log entry 18). -/
def Obligations.ResetReturnsToResetValues : Prop :=
  ∀ s : State, ∃ t, exec .reset s = .next t ∧ t = { s.heldInReset with flash := t.flash } ∧
    let loses := fun (p : Nat) => s.engine.itemPhys = some p
      ∧ s.engine.phase ∈ [Phase.erase, .writeback, .relocate, .jobErase, .clearErase, .controlErase]
    let abandons := fun (x : RunningOp) => x.issued = true ∧ (s.port.op = some x ∨ s.port.inner = some x)
    (∀ a, loses (a / 2048) → t.flash.read a = .unknown)
    ∧ (∀ a, ¬loses (a / 2048) → (∀ x, abandons x →
          (x.op.kind = .erase → x.op.psec ≠ a / 2048) ∧ (x.op.kind = .program → x.op.word ≠ a)) →
        t.flash.read a = s.flash.read a)
    ∧ (∀ x a, abandons x → x.op.kind = .erase → x.op.psec = a / 2048 → s.port.op = some x →
        t.flash.read a = .unknown)
    ∧ ∀ x, abandons x → x.op.kind = .program → ¬loses (x.op.word / 2048) →
        (∀ y, abandons y → y = x ∨ (y.op.kind = .erase ∧ y.op.psec ≠ x.op.word / 2048)) →
        t.flash.read x.op.word = (s.flash.read x.op.word).halfProgrammed x.op.value

/-- The release of RST# begins start-up (R148, R213, R214, R112): the straps are sampled, the ticks start from 0, ARST# is
released and the READ of word 0 of copy A is granted, and issued in that event when AREADY is high; with AREADY low it
waits, the wait counted in its time (R212; log entry 15, the model's reading). The engine is as reset leaves it, its merge
words FFFFh (log entry 10, the model's choice). A select that is active is an arrival held
under STARTUP (R211, R11). A word of a copy then leads to the next READ, or to copy B (R149, R148). The last word of B
ends start-up: the current copy by R140, the records of R150 and R151, and the image of R151 to R153, or the default
image of R8; with it empty queues, the copy's map and the status stream before slot 0, in RUN. An access held under
STARTUP then has the effect of its arrival (R11). -/
def Obligations.ResetReleaseBeginsStartUp : Prop :=
  (∀ (u : State) (pins : ReleasePins), ∃ s t, exec .reset u = .next s ∧ exec (.resetRelease pins) s = .next t
    ∧ t.inReset = false ∧ t.straps = pins.straps ∧ t.time = 0 ∧ t.mc.mode = .startup ∧ t.arstPin = false
    ∧ t.port.state = .running
    ∧ t.port.op = some { op := { kind := .read, psec := 1022, offset := 0, value := 0, issuer := .startUp }
                         timer := 0, issued := pins.aready }
    ∧ (pins.aready = true → t.port.arst = .inactive)
    ∧ (pins.aready = false → t.port.arst = .pulse ∧ t.port.arstTimer = 10
      ∧ ∀ d, (elapse d t).port.op = some
          { op := { kind := .read, psec := 1022, offset := 0, value := 0, issuer := .startUp }, timer := d, issued := false })
    ∧ t.startup = some { copy := .a, words := [], judgedA := none }
    ∧ t.engine = Engine.reset ∧ t.log.records = [] ∧ t.log.unstored = 0 ∧ t.cru = State.reset.cru
    ∧ t.host = (if u.host.select then HostPort.holds u.host.pins else { State.reset.host with pins := u.host.pins }))
  ∧ ∀ (s : State) (u : StartUp) (x : RunningOp) (w : Word), s.ReadsCopy u x →
    let copyOp := fun (psec offset : Nat) =>
      ({ kind := .read, psec := psec, offset := offset, value := 0, issuer := .startUp } : ArrayOp)
    let words := u.words ++ [w]
    (judgeCopy words = .reading → ∃ t, exec (.arrayReadEnd w) s = .next t ∧ t.mc.mode = .startup
      ∧ t.startup = some { u with words := words } ∧ t.Issues (copyOp x.op.psec words.length))
    ∧ ∀ judged : Option ControlRecord, judgeCopy words = (match judged with
        | some r => .valid r
        | none => .invalid) →
      (u.copy = .a → ∃ t, exec (.arrayReadEnd w) s = .next t ∧ t.mc.mode = .startup
        ∧ t.startup = some { copy := .b, words := [], judgedA := some judged } ∧ t.Issues (copyOp 1023 0))
      ∧ ∀ a, u.copy = .b → u.judgedA = some a →
        let chosen := match a, judged with
          | some ra, some rb => if ra.generation < rb.generation then some (Copy.b, rb) else some (Copy.a, ra)
          | some ra, none => some (Copy.a, ra)
          | none, some rb => some (Copy.b, rb)
          | none, none => none
        let default := fun (spares : Nat) => ({
          version := 1, spares := spares, suspendLimit := 8
          regions := (List.range 16).map fun r => {
            first := 62 * r, count := if r < 15 then 62 else 92 - spares, policy := .staged, blocks := 2
            af := if s.straps.defAf then 48 else 16, ageCode := 3, stallLimit := 50 } } : SetupImage)
        let im := match chosen with
          | some (_, r) => if s.straps.cfgIgnore then default r.image.spares else r.image
          | none => default 16
        let invalid := fun (psec : Nat) => ({ kind := .controlCopyInvalid, psec := some psec } : FaultReport)
        let reports := (match a, judged with
            | some _, some _ => []
            | some _, none => [invalid 1023]
            | none, some _ => [invalid 1022]
            | none, none => [{ kind := .startupDefaults, reason := some .noValidCopy }])
          ++ if s.straps.cfgIgnore = true ∧ chosen.isSome = true then [{ kind := .startupDefaults, reason := some .strap }]
            else []
        ∃ t, exec (.arrayReadEnd w) s = .next t ∧ t.mc.mode = .run ∧ t.startup = none ∧ t.host = s.host
          ∧ t.image = some im ∧ t.queues = im.regions.map (fun _ => { entries := [], flushMark := false }) ∧ t.stall = none
          ∧ t.map = (match chosen with
            | some (_, r) => { remap := r.remap, bad := r.bad, protection := r.protection }
            | none => { remap := [], bad := 0, protection := [] })
          ∧ t.cru = { current := chosen.map (·.1), generation := (chosen.map (·.2.generation)).getD 0
                      healthGood := a.isSome && judged.isSome, updatePending := false }
          ∧ t.stream = { running := true, position := none, sts := 0, stsync := false }
          ∧ t.log.records = (reports.foldl (fun l f => l.take f s.msTick) s.log).records
          ∧ ∀ p, exec (.arrayReadEnd w) (s.setHost (HostPort.holds p)) = exec (.hostAccessArrival p) t

/-- While RST# is active, no command but RESET and RESET_RELEASE changes anything but the levels that stand at HCS#, the
host's pins and FLUSH (R215, R211). -/
def Obligations.NothingElseActsInReset : Prop :=
  ∀ (c : Instr) (s : State), s.inReset = true → c ≠ .reset → (∀ pins, c ≠ .resetRelease pins) →
    ∃ t, exec c s = .next t ∧ t = { s with
      host := { s.host with select := t.host.select, pins := t.host.pins, reselect := t.host.reselect }
      mc := { s.mc with flushHigh := t.mc.flushHigh } }
      ∧ (t.host.reselect = true → s.host.reselect = true)

/-! ### Invariants of every step -/

/-- At reset every law of Safety holds. -/
def Obligations.ResetMeetsTheLaws : Prop :=
  State.reset.ResetHolds ∧ State.reset.OutputsTrack ∧ State.reset.log.Lawful ∧ State.reset.StoreLawful
    ∧ State.reset.setup.Lawful ∧ State.reset.PortLawful ∧ State.reset.flash.wf ∧ State.reset.ReaderLawful
    ∧ State.reset.WorkLawful

/-- While RST# is active the part holds its reset values: every step keeps this (R215). That the merge buffer's words are
FFFFh and the straps low among them is the model's choice (log entries 10 and 20). -/
def Obligations.StepKeepsResetHolds : Prop :=
  ∀ s t : State, s.ResetHolds → step s = .next t → t.ResetHolds

/-- ATTN and DRAINED stand as their facts say after every step (R202, R169). -/
def Obligations.StepKeepsOutputsTrack : Prop :=
  ∀ s t : State, s.OutputsTrack → step s = .next t → t.OutputsTrack

/-- The fault log keeps its laws: at most 32 records, an unstored count of 0..255 that is above 0 only while records are
held (R199). A report does one of three things. A WRITE_DROPPED or WRITE_REFUSED of the kind, reason and region of the
newest record merges into it: its count rises, saturating at 65535, and it takes the report's time and address, in a full
log too (R198). Another report forms a record with the next sequence number and the present tick, stored at the end where
there is room (R196, R197), and otherwise only counted as unstored, up to 255, its sequence number used (R199). -/
def Obligations.StepKeepsFaultLogLawful : Prop :=
  (∀ s t : State, s.log.Lawful → step s = .next t → t.log.Lawful)
  ∧ ∀ (l : FaultLog) (f : FaultReport) (tick : BitVec 32),
    (∀ older x, l.records = older ++ [x] → (f.kind = .writeDropped ∨ f.kind = .writeRefused) → x.report.kind = f.kind →
      x.report.reason = f.reason → x.report.region = f.region →
      l.take f tick = { l with records := older ++ [{ x with
        last := tick, report := { x.report with count := min 65535 (x.report.count + 1), addr := f.addr } }] })
    ∧ ((f.kind ≠ .writeDropped ∧ f.kind ≠ .writeRefused) ∨ l.records = []
        ∨ (∃ older x, l.records = older ++ [x]
          ∧ ¬(x.report.kind = f.kind ∧ x.report.reason = f.reason ∧ x.report.region = f.region)) →
      l.take f tick = if l.records.length < 32 then
          { l with records := l.records ++ [{ seq := l.nextSeq, first := tick, last := tick, report := f }]
                   nextSeq := l.nextSeq + 1 }
        else { l with unstored := min 255 (l.unstored + 1), nextSeq := l.nextSeq + 1 })

/-- The staging store keeps its laws: no queue exceeds its capacity, every entry names its region and holds FFh outside its
lanes (R20, R21). -/
def Obligations.StepKeepsStoreLawful : Prop :=
  ∀ s t : State, s.StoreLawful → step s = .next t → t.StoreLawful

/-- The setup port keeps its laws (R172 to R177). -/
def Obligations.StepKeepsSetupPortLawful : Prop :=
  ∀ s t : State, s.setup.Lawful → step s = .next t → t.setup.Lawful

/-- The array port keeps its laws: each claim is one of its own side, a FREE port runs nothing and an inner operation runs
only inside a suspension; and the mode is OFFLINE just while the port is STOPPED, with the consecutive timeout count at 2,
which is below 2 otherwise (R93, R94, R98, R106, R107, R167). The read assembler holds an access just while it is not IDLE
(R48). -/
def Obligations.StepKeepsPortLawful : Prop :=
  ∀ s t : State, step s = .next t → (s.PortLawful → t.PortLawful) ∧ (s.ReaderLawful → t.ReaderLawful)

/-- What is kept of the flash bank stays in its canonical form. -/
def Obligations.StepKeepsFlashCanonical : Prop :=
  ∀ s t : State, s.flash.wf → step s = .next t → t.flash.wf

/-! ### The setup port: commands that report -/

/-- IDENT replies OK with the part code 7240h, the silicon revision, SADDR and the mode code, and changes nothing else
(R181, section 13.6). -/
def Obligations.IdentReplies : Prop :=
  ∀ s : State, s.Listens → exec (.ident []) s = .next (refresh (s.replies
    { code := 0x80
      payload := [0x40, 0x72, Config.siliconRevision, s.straps.saddr.setWidth 8, match s.mc.mode with
        | .startup => 0x00
        | .run => 0x01
        | .holding => 0x02
        | .held => 0x03
        | .clearing => 0x04
        | .offline => 0x05] }))

/-- STATUS replies OK with 28 bytes and three more for each region, and changes nothing else: mode, phase and work item by
their codes, item region, item sector and merge buffer sector, flags, job sector, last job result and current copy, then
generation, spares, numbers of records and unstored reports, refused count, progress index and N, and of each region its
count and its flags (R182, section 13.6). A field that is absent has every byte FFh (R216). -/
def Obligations.StatusReplies : Prop :=
  ∀ s : State, s.Listens →
    let sectorField := fun (x : Option Nat) => match x with
      | some v => leBytes 2 v
      | none => [0xFF#8, 0xFF#8]
    ∃ p : List Byte, exec (.status []) s = .next (refresh (s.replies { code := 0x80, payload := p }))
      ∧ p.length = 28 + 3 * s.regions.length
      ∧ p.take 13 = [
          match s.mc.mode with
            | .startup => 0x00#8
            | .run => 0x01
            | .holding => 0x02
            | .held => 0x03
            | .clearing => 0x04
            | .offline => 0x05,
          match s.engine.phase with
            | .idle => 0x00#8
            | .gather => 0x01
            | .load => 0x02
            | .program => 0x03
            | .erase => 0x04
            | .writeback => 0x05
            | .relocate => 0x06
            | .controlErase => 0x07
            | .controlWrite => 0x08
            | .controlVerify => 0x09
            | .jobErase => 0x0A
            | .clearErase => 0x0B,
          match s.engine.item with
            | .none => 0x00#8
            | .regionCommit => 0x01
            | .eraseJob => 0x02
            | .clearStep => 0x03
            | .controlUpdate => 0x04,
          match s.engine.itemRegion with
            | some r => BitVec.ofNat 8 r
            | none => 0xFF]
        ++ sectorField s.engine.itemSector ++ sectorField s.engine.mergeSector
        ++ [BitVec.ofNat 8 (s.engine.mergeValid.toNat + 2 * s.engine.jobPending.toNat
          + 4 * s.cru.updatePending.toNat + 8 * (!s.cru.healthGood).toNat)]
        ++ sectorField s.engine.jobSector
        ++ [match s.engine.lastJobResult with
            | .none => 0x00#8
            | .done => 0x01
            | .remapped => 0x02
            | .retired => 0x03,
          match s.cru.current with
            | none => 0x00#8
            | some .a => 0x01
            | some .b => 0x02]
      ∧ (p.drop 13).take 10 = leBytes 4 s.cru.generation
        ++ [BitVec.ofNat 8 s.spareCount, BitVec.ofNat 8 (s.spareTally .free), BitVec.ofNat 8 (s.spareTally .used),
            BitVec.ofNat 8 (s.spareTally .bad), BitVec.ofNat 8 s.log.records.length, BitVec.ofNat 8 s.log.unstored]
      ∧ (p.drop 23).take 5 = leBytes 2 s.mc.refused ++ leBytes 2 s.mc.clearIndex
        ++ [BitVec.ofNat 8 s.regions.length]
      ∧ ∀ r, r < s.regions.length → (p.drop (28 + 3 * r)).take 3 = leBytes 2 (s.count r)
        ++ [BitVec.ofNat 8 (s.levelCode r % 4 + 4 * (s.commitOf r).toNat + 8 * (s.stalled r).toNat
              + 16 * (s.marked r).toNat + 32 * (s.aged r).toNat)]

/-- FAULT_READ removes the oldest record and replies with its 25 bytes as section 13.5 lays them out: sequence number, kind,
times, count, presence flags, region, logical and physical sector, spare index, word address, reason, an absent field FFh
throughout (R216), and the unstored count as it stood. The read that empties the log clears that count; on an empty log
the reply has an empty payload (R183, R200). -/
def Obligations.FaultReadRemovesOldest : Prop :=
  ∀ s : State, s.Listens →
    (s.log.records = [] →
      exec (.faultRead []) s = .next (refresh (s.replies { code := 0x80, payload := [] })))
    ∧ ∀ x rest, s.log.records = x :: rest →
      let f := x.report
      let field := fun (n : Nat) (v : Option Nat) => match v with
        | some k => leBytes n k
        | none => List.replicate n 0xFF#8
      let kind : Byte := match f.kind with
        | .writeDropped => 0x01
        | .writeRefused => 0x02
        | .sectorRemapped => 0x03
        | .spareBad => 0x04
        | .sectorRetired => 0x05
        | .dataLost => 0x06
        | .directWriteFailed => 0x07
        | .controlWriteFailed => 0x08
        | .controlCopyInvalid => 0x09
        | .startupDefaults => 0x0A
        | .arrayTimeout => 0x0B
        | .arrayLost => 0x0C
      let reason := fun (y : FaultReason) => match y with
        | .protectedSector => 0x01
        | .readonlyRegion => 0x02
        | .retiredSector => 0x03
        | .outsideWindow => 0x04
        | .tableFull => 0x05
        | .read => 0x06
        | .program => 0x07
        | .erase => 0x08
        | .suspend => 0x09
        | .verify => 0x0A
        | .generationLimit => 0x0B
        | .noValidCopy => 0x0C
        | .strap => 0x0D
      let payload := leBytes 2 x.seq.toNat ++ [kind] ++ leBytes 4 x.first.toNat ++ leBytes 4 x.last.toNat ++ leBytes 2 f.count
        ++ [BitVec.ofNat 8 (f.region.isSome.toNat + 2 * f.lsec.isSome.toNat + 4 * f.psec.isSome.toNat
          + 8 * f.spare.isSome.toNat + 16 * f.addr.isSome.toNat + 32 * f.reason.isSome.toNat)]
        ++ field 1 f.region ++ field 2 f.lsec ++ field 2 f.psec ++ field 1 f.spare ++ field 3 (f.addr.map (·.toNat))
        ++ field 1 (f.reason.map reason) ++ [BitVec.ofNat 8 s.log.unstored]
      payload.length = 25 ∧ exec (.faultRead []) s = .next (refresh ((s.setLog { s.log with
          records := rest, unstored := if rest = [] then 0 else s.log.unstored }).replies
        { code := 0x80, payload := payload }))

/-- SETUP_READ replies OK with the active image, or with nothing while none is active (R187); REMAP_READ with S, M, the remap
entries in their order and the 32 bad-spare flags (R193). Neither changes anything else. -/
def Obligations.SetupReadAndRemapReadReply : Prop :=
  ∀ s : State, s.Listens →
    exec (.setupRead []) s = .next (refresh (s.replies
      { code := 0x80, payload := match s.image with
          | some im => encodeImage im
          | none => [] }))
    ∧ exec (.remapRead []) s = .next (refresh (s.replies
      { code := 0x80
        payload := [BitVec.ofNat 8 s.spareCount, BitVec.ofNat 8 s.map.remap.length]
          ++ s.map.remap.flatMap (fun e => leBytes 2 e.sector ++ [match e.target with
              | some i => BitVec.ofNat 8 i
              | none => 0xFF])
          ++ leBytes 4 s.map.bad.toNat }))

/-! ### The setup port: commands that act -/

/-- FLUSH r and FLUSH ALL mark the STAGED regions named that hold entries, and reply OK; a region number of N or above is
INVALID/REGION and changes nothing (R184, R36). A rise of the FLUSH input marks every STAGED region that holds entries, and
its fall marks none (R168, R37). Marks that are set stay, and no entry is lost. Under BROADCAST the effect is the same and
no reply is sent (R178). -/
def Obligations.FlushMarksRegions : Prop :=
  (∀ (s : State) (b : Byte), s.Hears → s.host.reselect = false →
      (s.mc.mode = .run ∨ s.mc.mode = .holding ∨ s.mc.mode = .held) →
      if b.toNat = 255 ∨ b.toNat < s.regions.length then
        ∃ t, exec (.flush [b]) s = .next t ∧ t.setup = (s.answers { code := 0x80, payload := [] }).setup
          ∧ (∀ r, t.contents r = s.contents r)
          ∧ ∀ r, t.marked r = (s.marked r
            || ((b.toNat = 255 || b.toNat == r) && s.hasPolicy r .staged && decide (0 < s.count r)))
      else exec (.flush [b]) s = .next (refresh (s.answers { code := 0x84, payload := [0x03, 0xFF] })))
  ∧ ∀ (s : State) (high : Bool), s.inReset = false → s.host.reselect = false →
      ∃ t, exec (.flushLevelChange high) s = .next t ∧ t.mc.flushHigh = high
        ∧ (∀ r, t.contents r = s.contents r)
        ∧ ∀ r, t.marked r = (s.marked r || (high && s.hasPolicy r .staged && decide (0 < s.count r)))

/-- PURGE r discards every WAITING entry of region r alone, and replies OK with their number; the COMMITTING entries stay, and
the flush mark goes when none is left (R185, R44, R38). A write stalled on the region is then appended once its queue has
room, marked by a high FLUSH, and accepted: its access completes with HERR# inactive (R27, R37). A region number of N or
above is INVALID/REGION and changes nothing. -/
def Obligations.PurgeDiscardsWaitingEntries : Prop :=
  ∀ (s : State) (b : Byte), s.Listens → s.host.reselect = false → (s.mc.mode = .run ∨ s.mc.mode = .holding) →
    let kept := (s.queue b.toNat).filter fun e => !e.waits
    let mark := s.marked b.toNat && !kept.isEmpty
    if b.toNat < s.regions.length then
      ∃ t, exec (.purge [b]) s = .next t
        ∧ t.setup = (s.replies { code := 0x80, payload := leBytes 2 (s.waitingCount b.toNat) }).setup
        ∧ (∀ r, r ≠ b.toNat → t.contents r = s.contents r ∧ t.marked r = s.marked r)
        ∧ (s.stall = none → t.stall = none ∧ t.contents b.toNat = kept.map Entry.content ∧ t.marked b.toNat = mark)
        ∧ ∀ w, s.stall = some w → w.region = b.toNat → b.toNat < s.queues.length → kept.length < s.capacity b.toNat →
            t.stall = none ∧ t.contents b.toNat = kept.map Entry.content
              ++ [{ addr := w.addr, data := onLanes w.mask w.data, mask := w.mask, stamp := s.msTick }]
            ∧ t.marked b.toNat = (mark || s.mc.flushHigh)
            ∧ ∀ p, s.host = HostPort.holds p → t.host = HostPort.presents p none false
    else exec (.purge [b]) s = .next (refresh (s.replies { code := 0x84, payload := [0x03, 0xFF] }))

/-- HOLD in RUN: the refused-while-held count is cleared, every STAGED region with entries is marked, a stalled write is
refused with HERR# and counted, and the mode is HOLDING, or HELD when every queue is empty and no REGION_COMMIT is in flight
(R157, R29, R158, R186). No entry is lost. Under BROADCAST the effect is the same and no reply is sent (R178). -/
def Obligations.HoldOpensHolding : Prop :=
  ∀ s : State, s.Hears → s.mc.mode = .run → s.host.reselect = false →
    s.reader.state ≠ .eraseHold → s.port.direct = none →
    ∃ t, exec (.hold []) s = .next t ∧ t.setup = (s.answers { code := 0x80, payload := [] }).setup
      ∧ t.mc.mode = (if s.queuesEmpty = true ∧ s.engine.item ≠ .regionCommit then .held else .holding)
      ∧ t.mc.refused = (if s.stall.isSome then 1 else 0) ∧ t.stall = none
      ∧ (∀ r, t.contents r = s.contents r)
      ∧ (∀ r, t.marked r = (s.marked r || (s.hasPolicy r .staged && decide (0 < s.count r))))
      ∧ t.host = if s.stall.isSome ∧ s.host.state = .busy then
          (if s.host.select then { s.host with state := .done, data := none, herr := true }
            else { s.host with state := .idle, access := none, data := none, herr := false })
        else s.host

/-- RELEASE in HOLDING or HELD: the mode is RUN; the refused-while-held count, the flush marks, the entries and the image
stay (R159, R186). Under BROADCAST the effect is the same and no reply is sent (R178). -/
def Obligations.ReleaseReturnsToRun : Prop :=
  ∀ s : State, s.Hears → (s.mc.mode = .holding ∨ s.mc.mode = .held) → s.host.reselect = false →
    ∃ t, exec (.release []) s = .next t ∧ t.setup = (s.answers { code := 0x80, payload := [] }).setup
      ∧ t.mc.mode = .run ∧ t.mc.refused = s.mc.refused ∧ t.image = s.image ∧ t.stall = s.stall
      ∧ ∀ r, t.contents r = s.contents r ∧ t.marked r = s.marked r

/-- SETUP_LOAD in HELD: a valid image becomes the active image, with empty queues, no last served region and the status
stream before slot 0; the remap table, the bad-spare set and the protection list stay, and the mode stays HELD. During a
CONTROL_UPDATE the update-pending flag is set. An invalid image changes nothing and is answered with its reason and
region (R161, R163, R188, R207). -/
def Obligations.SetupLoadAppliesValidImages : Prop :=
  ∀ (s : State) (p : List Byte), s.Listens → s.mc.mode = .held → s.host.reselect = false → p.length ≤ 250 →
    match validateImage s.sparesRefused p with
    | .invalid reason region =>
      exec (.setupLoad p) s = .next (refresh (s.replies
        { code := 0x84, payload := [reason.code, (region.map (BitVec.ofNat 8)).getD 0xFF] }))
    | .valid im =>
      ∃ t, exec (.setupLoad p) s = .next t ∧ t.setup = (s.replies { code := 0x80, payload := [] }).setup
        ∧ t.image = some im ∧ t.queuesEmpty = true ∧ t.queues.length = im.regions.length
        ∧ (∀ r, t.count r = 0 ∧ t.marked r = false) ∧ t.stall = none ∧ t.engine.lastServed = none
        ∧ t.stream = { s.stream with position := none, sts := 0, stsync := false }
        ∧ t.map = s.map ∧ t.mc.mode = .held ∧ t.mc.refused = s.mc.refused
        ∧ (s.engine.phase ≠ .idle → s.engine.item = .controlUpdate → t.cru.updatePending = true)

/-- SETUP_STORE replies ACCEPTED and sets the update-pending flag; an engine that may take a selection begins the
CONTROL_UPDATE with it, whose target is the copy that is not current, and whose generation is the next (R189, R141, R142,
R144, R88), and whose words are those of the live image, protection list, remap table and bad-spare set with it (R143); at
the generation limit it fails at once (R146). The update goes on from ERASE to the PROGRAMs of the record's
words, in order, and to their READs (R88). The last word read as written makes the target the current copy, with the
record's generation and health GOOD (R145). A word that differs, or an ERASE or PROGRAM that fails, ends the try: the
first is followed by a second of the same target; the second reports CONTROL_WRITE_FAILED with its reason, health
becomes DEGRADED, and the current copy and the generation stay (R89, R146). -/
def Obligations.SetupStoreAsksForControlUpdate : Prop :=
  (∀ s : State, s.Listens → (s.mc.mode = .run ∨ s.mc.mode = .holding ∨ s.mc.mode = .held) → s.host.reselect = false →
    ∃ t, exec (.setupStore []) s = .next t ∧ t.setup = (s.replies { code := 0x81, payload := [] }).setup
      ∧ (s.maySelect = false → t.cru = { s.cru with updatePending := true } ∧ t.engine.item = s.engine.item)
      ∧ (s.engine.phase = .idle → s.engine.stopped = false → s.cru.generation < 0xFFFFFFFE →
          t.cru = { s.cru with updatePending := false } ∧ t.engine.item = .controlUpdate
            ∧ t.engine.phase = .controlErase ∧ t.engine.recordGen = s.cru.generation + 1
            ∧ t.engine.itemPhys = some (if s.cru.current = some .a then 1023 else 1022)
            ∧ ∀ im, s.image = some im → t.engine.record = recordWords
                { generation := s.cru.generation + 1, image := im, protection := s.map.protection, remap := s.map.remap
                  bad := s.map.bad })
      ∧ (s.engine.phase = .idle → s.engine.stopped = false → 0xFFFFFFFE ≤ s.cru.generation → s.port.direct = none →
          t.cru = { s.cru with updatePending := false, healthGood := false }
            ∧ t.log.records = (s.log.take
                { kind := .controlWriteFailed, reason := some .generationLimit
                  psec := some (if s.cru.current = some .a then 1023 else 1022) } s.msTick).records))
  ∧ ∀ (s : State) (x : RunningOp) (psec : Nat), s.EngineRuns x → s.engine.item = .controlUpdate →
      s.engine.itemPhys = some psec → (s.mc.mode = .run ∨ s.mc.mode = .holding ∨ s.mc.mode = .held) →
      (∀ c k v, ((c = .arrayEraseEnd true ∧ x.op.kind = .erase ∧ s.engine.phase = .controlErase ∧ k = 0)
          ∨ (c = .arrayProgramEnd true ∧ x.op.kind = .program ∧ s.engine.phase = .controlWrite
            ∧ k = s.engine.cursor + 1)) → s.engine.record[k]? = some v →
        ∃ t, exec c s = .next t ∧ t.engine.phase = .controlWrite ∧ t.Issues (engineOp .program psec k v) ∧ t.cru = s.cru)
      ∧ (x.op.kind = .program → s.engine.phase = .controlWrite → s.engine.record[s.engine.cursor + 1]? = none →
        ∃ t, exec (.arrayProgramEnd true) s = .next t ∧ t.engine.phase = .controlVerify
          ∧ t.Issues (engineOp .read psec 0 0) ∧ t.cru = s.cru)
      ∧ (∀ w, x.op.kind = .read → s.engine.phase = .controlVerify → s.engine.record[s.engine.cursor]? = some w →
        ∃ t, exec (.arrayReadEnd w) s = .next t
          ∧ (s.engine.cursor + 1 < s.engine.record.length → t.cru = s.cru ∧ t.engine.phase = .controlVerify
            ∧ t.engine.cursor = s.engine.cursor + 1 ∧ t.Issues (engineOp .read psec (s.engine.cursor + 1) 0))
          ∧ (s.engine.cursor + 1 = s.engine.record.length → s.cru.updatePending = false →
            t.cru = { current := some (if psec = 1023 then Copy.b else Copy.a), generation := s.engine.recordGen
                      healthGood := true, updatePending := false } ∧ t.engine.item ≠ .controlUpdate))
      ∧ ∀ c w reason, ((c = .arrayReadEnd w ∧ x.op.kind = .read ∧ s.engine.phase = .controlVerify
            ∧ s.engine.record[s.engine.cursor]? ≠ some w ∧ reason = .verify)
          ∨ (c = .arrayProgramEnd false ∧ x.op.kind = .program ∧ s.engine.phase = .controlWrite ∧ reason = .program)
          ∨ (c = .arrayEraseEnd false ∧ x.op.kind = .erase ∧ s.engine.phase = .controlErase ∧ reason = .erase)) →
        ∃ t, exec c s = .next t
          ∧ (s.engine.try2 = false → t.cru = s.cru ∧ t.log.records = s.log.records ∧ t.engine.try2 = true
            ∧ t.engine.phase = .controlErase ∧ t.engine.record = s.engine.record
            ∧ t.engine.recordGen = s.engine.recordGen ∧ t.Issues (engineOp .erase psec 0 0))
          ∧ (s.engine.try2 = true → s.cru.updatePending = false → s.port.direct = none →
            t.cru = { s.cru with healthGood := false } ∧ t.engine.item ≠ .controlUpdate
              ∧ t.log.records = (s.log.take { kind := .controlWriteFailed, psec := some psec, reason := some reason }
                s.msTick).records)

/-- PROTECT: the four outcomes of R190 in its order; an accepted range is added at the end of the list, with the remap table
and the bad-spare set as they were and the update-pending flag set, or taken by the CONTROL_UPDATE that starts (R132,
R190). -/
def Obligations.ProtectAddsRange : Prop :=
  ∀ (s : State) (a b c d : Byte), s.Listens → (s.mc.mode = .run ∨ s.mc.mode = .holding ∨ s.mc.mode = .held) →
    s.host.reselect = false →
    let first := a.toNat + 256 * b.toNat
    let count := c.toNat + 256 * d.toNat
    if count = 0 then exec (.protect [a, b, c, d]) s = .next (refresh (s.replies { code := 0x84, payload := [0x04, 0xFF] }))
    else if s.window ≤ first + count - 1 then
      exec (.protect [a, b, c, d]) s = .next (refresh (s.replies { code := 0x84, payload := [0x05, 0xFF] }))
    else if 8 ≤ s.map.protection.length then
      exec (.protect [a, b, c, d]) s = .next (refresh (s.replies { code := 0x84, payload := [0x06, 0xFF] }))
    else ∃ t, exec (.protect [a, b, c, d]) s = .next t ∧ t.setup = (s.replies { code := 0x80, payload := [] }).setup
      ∧ t.map = { s.map with protection := s.map.protection ++ [{ first := first, count := count }] }
      ∧ (t.cru.updatePending = true ∨ (s.engine.phase = .idle ∧ t.engine.item = .controlUpdate)
          ∨ (s.engine.phase = .idle ∧ 0xFFFFFFFE ≤ s.cru.generation))

/-- SECTOR_ERASE: the checks of R191 in order, each with its reply; when all pass the job is pending for the sector, and the
reply is ACCEPTED (R83, R191). An idle engine with no CONTROL_UPDATE pending begins the job at once (R66, R84). The job's
ERASE that passes ends it: its sector is erased, no job is pending and its result is DONE (R84). The accesses that the job
held go on in that event (R57, R110): a read claims its READ of the sector translated again, a direct write its PROGRAM;
where the sector is retired, the read returns FFFFh with HERR#, and the write is refused with HERR# and WRITE_REFUSED,
reason RETIRED (its region field is log entry 32, the model's choice). -/
def Obligations.SectorEraseAcceptsJob : Prop :=
  (∀ (s : State) (a b : Byte), s.Listens → (s.mc.mode = .run ∨ s.mc.mode = .held) → s.host.reselect = false →
    let x := a.toNat + 256 * b.toNat
    let refused := fun (code : Byte) (payload : List Byte) =>
      exec (.sectorErase [a, b]) s = .next (refresh (s.replies { code := code, payload := payload }))
    if s.engine.jobPending = true then refused 0x82 []
    else if s.window ≤ x then refused 0x84 [0x07, 0xFF]
    else if s.inDirect x = false then refused 0x84 [0x08, 0xFF]
    else if s.map.protects x = true then refused 0x84 [0x09, 0xFF]
    else if s.map.translate x = none then refused 0x84 [0x0A, 0xFF]
    else ∃ t, exec (.sectorErase [a, b]) s = .next t ∧ t.setup = (s.replies { code := 0x81, payload := [] }).setup
      ∧ t.engine.jobPending = true ∧ t.engine.jobSector = some x
      ∧ (s.maySelect = true → s.cru.updatePending = false → t.engine.item = .eraseJob ∧ t.engine.phase = .jobErase
          ∧ t.engine.itemSector = some x ∧ t.engine.itemPhys = s.map.translate x))
  ∧ ∀ (s : State) (x : RunningOp) (sector psec : Nat), s.EngineRuns x → s.flash.wf → s.engine.phase = .jobErase →
      s.engine.item = .eraseJob → s.engine.itemSector = some sector → x.op = engineOp .erase psec 0 0 →
      ∃ t, exec (.arrayEraseEnd true) s = .next t ∧ t.engine.jobPending = false ∧ t.engine.jobSector = none
        ∧ t.engine.lastJobResult = .done
        ∧ (∀ a, t.flash.read a = if a / 2048 = psec then FlashWord.ofWord 0xFFFF else s.flash.read a)
        ∧ (∀ p (y : ReadAccess), s.reader = { state := .eraseHold, access := some y } → sectorOf y.addr = sector →
          s.port.direct = none → s.host = HostPort.holds p →
          match s.map.translate sector with
          | some q => t.host = s.host ∧ t.reader = { state := .reading, access := some { y with psec := q } }
              ∧ t.Issues { kind := .read, psec := q, offset := offsetOf y.addr, value := 0, issuer := .hostRead }
          | none => t.reader = { state := .idle, access := none } ∧ t.host = HostPort.presents p (some 0xFFFF) true)
        ∧ ∀ p d, s.port.direct = some d → d.held = true → sectorOf d.addr = sector → s.reader.state = .idle →
          s.host = HostPort.holds p →
          match s.map.translate sector with
          | some q => t.host = s.host ∧ t.port.direct = some { d with psec := q, held := false, attempts := 1 }
              ∧ t.Issues { kind := .program, psec := q, offset := offsetOf d.addr, value := d.value
                           issuer := .directWrite }
          | none => t.port.direct = none ∧ t.host = HostPort.presents p none true
              ∧ (s.cru.generation < 0xFFFFFFFE → t.log.records = (s.log.take
                { kind := .writeRefused, region := some ((s.regionOf sector).getD d.region), addr := some d.addr
                  reason := some .retiredSector } s.msTick).records)

/-- ARRAY_CLEAR in HELD: BUSY and no change while a job is pending; else ACCEPTED, the mode CLEARING and the progress index 0,
from where an idle engine with no CONTROL_UPDATE pending begins the first CLEAR_STEP on the lowest sector that is not
retired (R165, R192, R86). A CLEAR_STEP's ERASE that passes leads to the step of the next sector above it that is not
retired; with none left the clear is complete: the progress index is W, the protection list is empty, the mode is HELD,
and a CONTROL_UPDATE begins (R86, R87). -/
def Obligations.ArrayClearEntersClearing : Prop :=
  (∀ s : State, s.Listens → s.mc.mode = .held → s.host.reselect = false →
    if s.engine.jobPending = true then
      exec (.arrayClear []) s = .next (refresh (s.replies { code := 0x82, payload := [] }))
    else ∃ t, exec (.arrayClear []) s = .next t ∧ t.setup = (s.replies { code := 0x81, payload := [] }).setup
      ∧ (s.maySelect = false → t.mc.mode = .clearing ∧ t.mc.clearIndex = 0)
      ∧ ∀ k, s.maySelect = true → s.cru.updatePending = false → k < s.window →
          (s.map.translate k).isSome = true → (∀ j < k, s.map.translate j = none) →
          t.mc.mode = .clearing ∧ t.mc.clearIndex = k ∧ t.engine.item = .clearStep ∧ t.engine.phase = .clearErase
            ∧ t.engine.itemSector = some k ∧ t.engine.itemPhys = s.map.translate k)
  ∧ ∀ (s : State) (x : RunningOp) (sector : Nat), s.EngineRuns x → x.op.kind = .erase → s.mc.mode = .clearing →
      s.engine.phase = .clearErase → s.engine.item = .clearStep → s.engine.itemSector = some sector →
      s.engine.stopped = false → s.cru.updatePending = false → s.cru.generation < 0xFFFFFFFE → sector < s.window →
      ∃ t, exec (.arrayEraseEnd true) s = .next t ∧ t.map.remap = s.map.remap ∧ t.map.bad = s.map.bad
        ∧ (∀ k, sector < k → k < s.window → (s.map.translate k).isSome = true →
            (∀ j, sector < j → j < k → s.map.translate j = none) →
            t.mc.mode = .clearing ∧ t.mc.clearIndex = k ∧ t.engine.item = .clearStep ∧ t.engine.phase = .clearErase
              ∧ t.engine.itemSector = some k ∧ t.engine.itemPhys = s.map.translate k
              ∧ t.map.protection = s.map.protection)
        ∧ ((∀ j, sector < j → j < s.window → s.map.translate j = none) →
            t.mc.mode = .held ∧ t.mc.clearIndex = s.window ∧ t.map.protection = [] ∧ t.cru.updatePending = false
              ∧ t.engine.item = .controlUpdate ∧ t.engine.phase = .controlErase)

/-- The tests of Table 9-3 before a command's own: a check sum that is not 0, a length character above 250, an unknown code,
a mode that does not allow the command and a payload of another length are answered CHECK_ERROR, INVALID/FRAME_LENGTH,
UNKNOWN, WRONG_STATE and INVALID/OPERAND_LENGTH, and have no other effect (R178). The modes and lengths are those of Table
9-5 (R180). -/
def Obligations.RefusedFramesChangeNothing : Prop :=
  (∀ s : State, s.Listens →
    (∀ code p, exec (.checkErrorFrame code p) s = .next (refresh (s.replies { code := 0x86, payload := [] })))
    ∧ (∀ (code length : Byte) p, 250 < length.toNat →
      exec (.frameLength code length p) s = .next (refresh (s.replies { code := 0x84, payload := [0x01, 0xFF] })))
    ∧ (∀ code p, p.length ≤ 250 →
      code ∉ [0x01, 0x02, 0x03, 0x04, 0x05, 0x10, 0x11, 0x12, 0x13, 0x20, 0x21, 0x22, 0x23, 0x24#8] →
      exec (.unknownCommand code p) s = .next (refresh (s.replies { code := 0x85, payload := [] })))
    ∧ ∀ (c : SetupCommand) p, p.length ≤ 250 →
      (c.allowedIn s.mc.mode = false →
        exec (c.instr p) s = .next (refresh (s.replies { code := 0x83, payload := [] })))
      ∧ (c.allowedIn s.mc.mode = true → c.lengthSuits p.length = false →
        exec (c.instr p) s = .next (refresh (s.replies { code := 0x84, payload := [0x02, 0xFF] }))))
  ∧ (∀ (c : SetupCommand) (m : Mode), c.allowedIn m = true ↔ m ∈ (match c with
      | .ident | .status | .faultRead | .setupRead | .remapRead =>
        [Mode.startup, .run, .holding, .held, .clearing, .offline]
      | .flush | .setupStore | .protect => [.run, .holding, .held]
      | .purge => [.run, .holding]
      | .hold => [.run]
      | .release => [.holding, .held]
      | .setupLoad | .arrayClear => [.held]
      | .sectorErase => [.run, .held]))
  ∧ ∀ (c : SetupCommand) (n : Nat), c.lengthSuits n = true ↔ (match c with
      | .setupLoad => True
      | .protect => n = 4
      | .sectorErase => n = 2
      | .flush | .purge => n = 1
      | .ident | .status | .faultRead | .setupRead | .remapRead | .hold | .release | .setupStore | .arrayClear => n = 0)

/-- A frame received under BROADCAST is never answered; a command other than FLUSH, HOLD and RELEASE is ignored whole
(R177, R178 step 4), and so are frames with a bad check, an over-long length or an unknown code. The same holds of the
frame that the last character completes, and of a frame buffered under BROADCAST, executed at the end of a reply
whatever the selection is then (R176). -/
def Obligations.BroadcastIsNeverAnswered : Prop :=
  (∀ (c : SetupCommand) (p : List Byte) (s : State), s.inReset = false → s.setup.selection = .broadcast →
    s.setup.tx = .quiet → p.length ≤ 250 →
    (∃ t, exec (c.instr p) s = .next t ∧ t.setup = s.setup.dropPart)
      ∧ (c ≠ .flush → c ≠ .hold → c ≠ .release →
        exec (c.instr p) s = .next (refresh (s.setSetup s.setup.dropPart))))
  ∧ ∀ s : State, s.inReset = false →
    (s.setup.selection = .broadcast → s.setup.tx = .quiet →
      (∀ code p, exec (.checkErrorFrame code p) s = .next (refresh (s.setSetup s.setup.dropPart)))
      ∧ (∀ (code length : Byte) p, 250 < length.toNat →
        exec (.frameLength code length p) s = .next (refresh (s.setSetup s.setup.dropPart)))
      ∧ (∀ code p, p.length ≤ 250 →
        code ∉ [0x01, 0x02, 0x03, 0x04, 0x05, 0x10, 0x11, 0x12, 0x13, 0x20, 0x21, 0x22, 0x23, 0x24#8] →
        exec (.unknownCommand code p) s = .next (refresh (s.setSetup s.setup.dropPart)))
      ∧ (∀ f, ∃ t, exec (.frameBuffered f) s = .next t ∧ t.setup = s.setup.dropPart)
      ∧ ∀ v, s.setup.rx = .waitCheck → ∃ t, exec (.frameCharacter v) s = .next t ∧ t.setup = s.setup.dropPart)
    ∧ ∀ f, s.setup.tx = .sending → s.setup.buffer = some { frame := f, selection := .broadcast } →
      ∃ t, exec .replyEnd s = .next t ∧ t.setup = { s.setup with tx := .quiet, reply := none, buffer := none }

/-- A frame that completes while a reply is due or being sent is buffered when the buffer is empty, and discarded when it
is not. The start bit of a reply makes the transmitter SENDING; its last stop bit makes it QUIET, with the reply gone, and
a buffered frame is executed in that event under the selection it was received with (R176, R177). SRO is driven only
while SENDING, with the characters of the reply as frame characters, and is released otherwise (R170, R177). -/
def Obligations.FramesQueueBehindReplies : Prop :=
  ∀ s : State, s.inReset = false →
    (∀ f, s.setup.selection ≠ .none → s.setup.tx ≠ .quiet →
      exec (.frameBuffered f) s = .next (refresh (s.setSetup { s.setup.dropPart with
        buffer := match s.setup.buffer with
          | none => some { frame := f, selection := s.setup.selection }
          | some b => some b })))
    ∧ (s.setup.tx = .replyDue → exec .replyStart s = .next (refresh (s.setSetup { s.setup with tx := .sending })))
    ∧ (s.setup.tx = .sending → s.setup.buffer = none →
      exec .replyEnd s = .next (refresh (s.setSetup { s.setup with tx := .quiet, reply := none })))
    ∧ (∀ b, s.setup.tx = .sending → s.setup.buffer = some b →
      exec .replyEnd s = .next (refresh (executeFrame b.frame b.selection
        (s.setSetup { s.setup with tx := .quiet, reply := none, buffer := none }))))
    ∧ (s.setup.tx ≠ .sending → s.sro = none)
    ∧ (∀ r, s.setup.tx = .replyDue → s.setup.reply = some r → ∃ t, exec .replyStart s = .next t
      ∧ t.sro = some ((replyBytes r).flatMap fun v =>
        [false] ++ (List.range 8).map (fun i => v.getLsbD i) ++ [false, true]))
    ∧ (s.setup.tx = .sending → ∃ t, exec .replyEnd s = .next t ∧ t.sro = none)

/-! ### The setup port: the line -/

/-- An address character selects by its value, discards a partial frame and a buffered one, and leaves the transmitter and
the reply in hand (R172). -/
def Obligations.AddressCharacterSelects : Prop :=
  ∀ (s : State) (v : Byte), s.inReset = false →
    exec (.addressCharacter v) s = .next (refresh (s.setSetup
      { selection := if v.toNat = s.straps.saddr.toNat then .selected else if v = 0xFF then .broadcast else .none
        rx := .waitCommand, part := PartialFrame.empty, gapTimer := none, buffer := none
        tx := s.setup.tx, reply := s.setup.reply }))

/-- A framing error discards the partial frame of a selected receiver, and nothing else (R171); a break discards the partial
frame and the buffered frame and deselects, and leaves the transmitter (R175). -/
def Obligations.FramingErrorAndBreak : Prop :=
  ∀ s : State, s.inReset = false →
    (s.setup.rx ≠ .waitCommand → s.setup.selection ≠ .none →
      exec .framingError s = .next (refresh (s.setSetup
        { s.setup with rx := .waitCommand, part := PartialFrame.empty, gapTimer := none })))
    ∧ (s.setup.rx = .waitCommand ∨ s.setup.selection = .none → exec .framingError s = .next (refresh s))
    ∧ exec .breakDetected s = .next (refresh (s.setSetup
        { s.setup with rx := .waitCommand, part := PartialFrame.empty, gapTimer := none, buffer := none
                       selection := .none }))

/-- The gap limit of a partial frame: it is discarded with no reply, the selection is kept, and the limit is reached at the
fifth millisecond tick from the timer's start (R174, R214; that the ticks still to come have then passed is log entry 3). -/
def Obligations.GapTimeoutDiscardsPartialFrame : Prop :=
  ∀ (s : State) (g : Nat), s.inReset = false → s.setup.gapTimer = some g → g < 5 →
    ∃ t, exec .gapTimeout s = .next t
      ∧ t.setup = { s.setup with rx := .waitCommand, part := PartialFrame.empty, gapTimer := none }
      ∧ t.time = (s.time / 1000 + (5 - g)) * 1000

/-- A frame character in WAIT_COMMAND, WAIT_LENGTH and PAYLOAD (R173): what is held, what is summed, and the next state; with
no selection it is dropped (R172). In WAIT_CHECK it completes the frame, which is good when its characters sum to 0, and is
executed, buffered or discarded in that event (R173, R176): the character does what the command of the whole frame does,
the setup command of its code, CHECK_ERROR_FRAME, FRAME_LENGTH or UNKNOWN_COMMAND (log entries 7 and 8). -/
def Obligations.FrameCharacterIsAssembled : Prop :=
  ∀ (s : State) (v : Byte), s.inReset = false →
    (s.setup.selection = .none → exec (.frameCharacter v) s = .next (refresh s))
    ∧ (s.setup.selection ≠ .none → s.setup.rx = .waitCommand →
      exec (.frameCharacter v) s = .next (refresh (s.setSetup { s.setup with
        rx := .waitLength, gapTimer := some 0
        part := { command := v, length := 0, payload := [], taken := 0, sum := v } })))
    ∧ (s.setup.selection ≠ .none → s.setup.rx = .waitLength →
      exec (.frameCharacter v) s = .next (refresh (s.setSetup { s.setup with
        rx := if v.toNat = 0 then .waitCheck else .payload, gapTimer := some 0
        part := { s.setup.part with length := v.toNat, sum := s.setup.part.sum + v } })))
    ∧ (s.setup.selection ≠ .none → s.setup.rx = .payload →
      exec (.frameCharacter v) s = .next (refresh (s.setSetup { s.setup with
        rx := if s.setup.part.length ≤ s.setup.part.taken + 1 then .waitCheck else .payload, gapTimer := some 0
        part := { s.setup.part with
          sum := s.setup.part.sum + v, taken := s.setup.part.taken + 1
          payload := if 250 ≤ s.setup.part.payload.length then s.setup.part.payload
            else s.setup.part.payload ++ [v] } })))
    ∧ (s.setup.selection ≠ .none → s.setup.rx = .waitCheck →
      let p := s.setup.part
      let does := fun (c : Instr) => exec (.frameCharacter v) s = exec c s
      does (.frameBuffered
          { code := p.command, length := p.length, payload := p.payload, sumZero := p.sum + v == 0 })
        ∧ (p.payload.length = p.length → p.length ≤ 250 →
          (p.sum + v ≠ 0 → does (.checkErrorFrame p.command p.payload))
          ∧ (p.sum + v = 0 →
            (∀ c : SetupCommand, p.command = (match c with
                | .ident => 0x01#8
                | .status => 0x02
                | .faultRead => 0x03
                | .setupRead => 0x04
                | .remapRead => 0x05
                | .flush => 0x10
                | .purge => 0x11
                | .hold => 0x12
                | .release => 0x13
                | .setupLoad => 0x20
                | .setupStore => 0x21
                | .protect => 0x22
                | .sectorErase => 0x23
                | .arrayClear => 0x24) → does (c.instr p.payload))
            ∧ (p.command ∉ [0x01, 0x02, 0x03, 0x04, 0x05, 0x10, 0x11, 0x12, 0x13, 0x20, 0x21, 0x22, 0x23, 0x24#8] →
              does (.unknownCommand p.command p.payload))))
        ∧ (p.sum + v = 0 → 250 < p.length → p.length ≤ 255 → p.payload.length = 250 →
          does (.frameLength p.command (BitVec.ofNat 8 p.length) p.payload)))

/-- A frame sent character by character is the completion of that frame: from WAIT_COMMAND under a selection, the code, the
length, the payload and the check that makes the sum 0 have the effect of the command that the whole frame is (R173; that
a setup command's row is such a completion is log entry 7). -/
def Obligations.CharactersMakeTheFrame : Prop :=
  ∀ (s : State) (code : Byte) (payload : List Byte), s.setup.selection ≠ .none → s.setup.rx = .waitCommand →
    payload.length ≤ 255 →
    (frameBytes code payload).foldl (fun u v => takeFrameCharacter v u) s = completeFrame (goodFrame code payload) s

/-- The characters of every reply sum to 0 modulo 256, in the order code, length, payload, check (R177); and the eleven
bits of a character form it again, as an address character with marker 1 and a frame character with marker 0 (R170). -/
def Obligations.ReplyCharactersSumToZero : Prop :=
  (∀ r : Reply, byteSum (replyBytes r) = 0 ∧ (replyBytes r).length = r.payload.length + 3
      ∧ (replyBytes r).take (r.payload.length + 2) = r.code :: BitVec.ofNat 8 r.payload.length :: r.payload)
    ∧ ∀ v : Byte, formCharacter (characterBits true v) = .address v ∧ formCharacter (characterBits false v) = .frame v

/-! ### The status stream -/

/-- A rising edge of STSCLK with the stream running (R203): the position goes from before slot 0 to 0, up to N and back to
0; STSYNC marks slot 0; a STAGED region's slot carries its level code, a commit in flight and a stalled write, another
region's 0 (R204), and slot N the mode code, the engine at work and ATTN (R205). An edge before the stream runs is ignored
(R206). -/
def Obligations.StatusStreamEdge : Prop :=
  ∀ s : State, s.inReset = false →
    (s.stream.running = false → exec .stsclkRisingEdge s = .next (refresh s))
    ∧ (s.stream.running = true → ∃ t k, exec .stsclkRisingEdge s = .next t
      ∧ t = refresh (s.setStream { running := true, position := some k, sts := t.stream.sts, stsync := k == 0 })
      ∧ k = (match s.stream.position with
        | none => 0
        | some j => if j < s.regions.length then j + 1 else 0)
      ∧ (k < s.regions.length → t.stream.sts.toNat = if s.hasPolicy k .staged
          then s.levelCode k + 4 * (s.commitOf k).toNat + 8 * (s.stalled k).toNat else 0)
      ∧ (s.regions.length ≤ k → t.stream.sts.toNat =
          (match s.mc.mode with
            | .run => 0
            | .holding => 1
            | .held => 2
            | .startup | .clearing | .offline => 3)
          + 4 * (decide (s.engine.phase ≠ .idle)).toNat + 8 * s.log.attn.toNat))

/-! ### The host port -/

/-- An access OUTSIDE the window completes at once with HERR#, in every mode but STARTUP: a read returns FFFFh and records
nothing; a write is reported as WRITE_REFUSED/OUTSIDE with no region and its address (R10). Nothing else changes. -/
def Obligations.OutsideAccessIsRefused : Prop :=
  ∀ (s : State) (p : HostPins), s.HostFree → s.Rests → s.mc.mode ≠ .startup → s.window ≤ sectorOf p.addr →
    (p.write = false → exec (.hostAccessArrival p) s =
      .next (refresh (s.setHost (HostPort.presents p (some 0xFFFF) true))))
    ∧ (p.write = true → exec (.hostAccessArrival p) s =
      .next (refresh ((s.setLog (s.log.take { kind := .writeRefused, addr := some p.addr, reason := some .outsideWindow }
        s.msTick)).setHost (HostPort.presents p none true))))

/-- What the device mode decides of an access inside the window: in STARTUP it is held, unclassified (R11; the window is not
in force then, and any address is held); in OFFLINE it is refused, neither recorded nor counted (R12); in HOLDING, HELD and
CLEARING a write is refused and counted, up to 65535, and not recorded (R13). Nothing else changes. -/
def Obligations.ModeDecidesAccess : Prop :=
  ∀ (s : State) (p : HostPins), s.HostFree → s.Rests →
    (s.mc.mode = .startup → exec (.hostAccessArrival p) s = .next (refresh (s.setHost (HostPort.holds p))))
    ∧ (s.mc.mode = .offline → sectorOf p.addr < s.window → exec (.hostAccessArrival p) s =
      .next (refresh (s.setHost (HostPort.presents p (if p.write then none else some 0xFFFF) true))))
    ∧ ((s.mc.mode = .holding ∨ s.mc.mode = .held ∨ s.mc.mode = .clearing) → sectorOf p.addr < s.window →
      p.write = true → exec (.hostAccessArrival p) s =
        .next (refresh ((s.setMc { s.mc with refused := min 65535 (s.mc.refused + 1) }).setHost
          (HostPort.presents p none true))))

/-- The refusals of an access by its sector and region: a retired sector refuses reads in every mode that lets them come
to it, with FFFFh and no record (R13, R14), and in RUN it refuses writes (R14); a protected one and a READONLY region
refuse writes, in that order (R15, R16); each write refused is reported with its reason, region and address. A write with
no lane enabled that none of them refuses completes with no error and no effect (R17). -/
def Obligations.SectorAndRegionRefusals : Prop :=
  ∀ (s : State) (p : HostPins) (r : Nat), s.HostFree → s.Rests →
    (s.mc.mode = .run ∨ s.mc.mode = .holding ∨ s.mc.mode = .held ∨ s.mc.mode = .clearing) → sectorOf p.addr < s.window →
    s.regionOf (sectorOf p.addr) = some r →
    let writes := s.mc.mode = .run ∧ p.write = true
    let refused := fun (reason : FaultReason) => exec (.hostAccessArrival p) s =
      .next (refresh ((s.setLog (s.log.take { kind := .writeRefused, region := some r, addr := some p.addr
                                              reason := some reason } s.msTick)).setHost
        (HostPort.presents p none true)))
    if s.map.translate (sectorOf p.addr) = none then
      (writes → refused .retiredSector)
        ∧ (p.write = false → exec (.hostAccessArrival p) s =
          .next (refresh (s.setHost (HostPort.presents p (some 0xFFFF) true))))
    else if s.map.protects (sectorOf p.addr) = true then writes → refused .protectedSector
    else if s.hasPolicy r .readonly = true then writes → refused .readonlyRegion
    else writes → p.lane0 = false → p.lane1 = false →
      exec (.hostAccessArrival p) s = .next (refresh (s.setHost (HostPort.presents p none false)))

/-- A staged write (R22): it coalesces into a WAITING entry for its address, lane by lane, whatever the count (R23); else it
is appended at the tail with FFh on the lane it lacks and the present tick, while there is room, and completes (R24); else
it stalls, HWAIT# active, its timer at 0 (R26). Other entries and other queues stay as they were. -/
def Obligations.StagedWriteCoalescesAppendsOrStalls : Prop :=
  ∀ (s : State) (p : HostPins) (r : Nat) (m : LaneMask), s.HostFree → s.Stages p.addr r → writesLanes p m →
    r < s.queues.length →
    ∃ t, exec (.hostAccessArrival p) s = .next t ∧ (∀ r', r' ≠ r → t.contents r' = s.contents r') ∧
      if ∃ e ∈ s.queue r, e.state = .waiting ∧ e.addr = p.addr then
        t.host = HostPort.presents p none false ∧ t.stall = none ∧ t.marked r = s.marked r
          ∧ t.contents r = (s.queue r).map fun e =>
            if e.state = .waiting ∧ e.addr = p.addr then
              { addr := e.addr, data := overlay m p.data e.data, mask := e.mask.union m, stamp := e.stamp }
            else e.content
      else if s.count r < s.capacity r then
        t.host = HostPort.presents p none false ∧ t.stall = none
          ∧ t.marked r = (s.marked r || s.mc.flushHigh)
          ∧ t.contents r = s.contents r
            ++ [{ addr := p.addr, data := onLanes m p.data, mask := m, stamp := s.msTick }]
      else
        t.host = HostPort.holds p ∧ t.hwait = true ∧ t.contents r = s.contents r
          ∧ t.stall = some { region := r, addr := p.addr, mask := m, data := p.data, timer := 0 }

/-- A read that classification hands on, in each mode that lets it (R12, R48) and of each policy, protected sectors and
READONLY regions too. On the sector of an ERASE_JOB or CLEAR_STEP in flight it is held (R56), before it could be fast (log
entry 33, the model's choice). Else, in a STAGED region, the merge buffer's word of its sector under the entries' bytes,
or its COMMITTING and WAITING bytes that cover both lanes, the newer over the older, complete it at once, and nothing is
claimed (R49, R50). Any other claims the port for one READ (R50, R58, R59): a FREE port issues it at once, or after an
ARST# pulse (R51, R95, R212; that it is granted during the pulse is log entry 14); it suspends a running ERASE below the
suspend limit (R97), and waits otherwise (R96, R100). -/
def Obligations.ReadIsFastOrClaimsThePort : Prop :=
  ∀ (s : State) (p : HostPins) (r psec : Nat) (g : RegionRec), s.HostFree → s.reader.access = none → s.Rests →
    (s.mc.mode = .run ∨ s.mc.mode = .holding ∨ s.mc.mode = .held ∨ s.mc.mode = .clearing) → p.write = false →
    sectorOf p.addr < s.window → s.regionOf (sectorOf p.addr) = some r → s.region? r = some g →
    s.map.translate (sectorOf p.addr) = some psec →
    let x : ReadAccess := { addr := p.addr, region := r, policy := g.policy, psec := psec }
    let o : ArrayOp := { kind := .read, psec := psec, offset := offsetOf p.addr, value := 0, issuer := .hostRead }
    let waiting := s.waitingAt r p.addr
    let committing := s.committingAt r p.addr
    let covered := entryBits committing ||| entryBits waiting = 0xFFFF
    let claims := fun (state : ReadState) (port : ArrayPort) => exec (.hostAccessArrival p) s = .next (refresh
      (((s.setHost (HostPort.holds p)).setReader { state := state, access := some x }).setPort
        { port with hostClaim := some o }))
    if s.eraseHeld (sectorOf p.addr) = true then
      exec (.hostAccessArrival p) s = .next (refresh ((s.setHost (HostPort.holds p)).setReader
        { state := .eraseHold, access := some x }))
    else if g.policy = .staged ∧ s.mergeHit (sectorOf p.addr) = true then
      exec (.hostAccessArrival p) s = .next (refresh (s.setHost (HostPort.presents p
        (some (overlayEntry waiting (overlayEntry committing (s.engine.mergeWord (offsetOf p.addr))))) false)))
    else if g.policy = .staged ∧ covered then ∀ base : Word,
      exec (.hostAccessArrival p) s = .next (refresh (s.setHost (HostPort.presents p
        (some (overlayEntry waiting (overlayEntry committing base))) false)))
    else if s.port.state = .free then
      if s.port.arst = .inactive then
        claims .reading { s.port with state := .running, op := some { op := o, timer := 0, issued := true } }
      else claims .portWait { s.port with state := .running, op := some { op := o, timer := 0, issued := false } }
    else if s.eraseRunning = true ∧ s.port.suspCount < s.suspendLimit then
      claims .portWait { s.port with state := .suspending, ackTimer := 0 }
    else claims .portWait s.port

/-- A write to a DIRECT region that is not held by a job on its sector claims the array port for its PROGRAM, with FFh on the
lane not enabled, and the host is held (R17, R108): a FREE port grants it as its first attempt, issued at once, or after
an ARST# pulse (R95, R109, R212; log entry 14); it suspends a running ERASE below the suspend limit (R97), and waits
otherwise, with no attempt counted (R96, R100).
A write to the sector of an ERASE_JOB in flight is held before its claim (R110). -/
def Obligations.DirectWriteIsProgrammedOrHeld : Prop :=
  ∀ (s : State) (p : HostPins) (r psec : Nat) (m : LaneMask), s.HostFree → s.Rests → s.mc.mode = .run →
    sectorOf p.addr < s.window → s.regionOf (sectorOf p.addr) = some r → s.hasPolicy r .direct = true →
    s.map.protects (sectorOf p.addr) = false → s.map.translate (sectorOf p.addr) = some psec → writesLanes p m →
    let d : DirectWrite :=
      { region := r, addr := p.addr, psec := psec, value := onLanes m p.data, attempts := 0, held := false }
    (s.jobHeld (sectorOf p.addr) = true → exec (.hostAccessArrival p) s =
      .next (refresh ((s.setHost (HostPort.holds p)).setPort { s.port with direct := some { d with held := true } })))
    ∧ (s.jobHeld (sectorOf p.addr) = false →
      let o : ArrayOp :=
        { kind := .program, psec := psec, offset := offsetOf p.addr, value := onLanes m p.data, issuer := .directWrite }
      let claims := fun (attempts : Nat) (port : ArrayPort) => exec (.hostAccessArrival p) s = .next (refresh
        ((s.setHost (HostPort.holds p)).setPort
          { port with hostClaim := some o, direct := some { d with attempts := attempts } }))
      if s.port.state = .free then
        claims 1 { s.port with state := .running
                               op := some { op := o, timer := 0, issued := decide (s.port.arst = .inactive) } }
      else if s.eraseRunning = true ∧ s.port.suspCount < s.suspendLimit then
        claims 0 { s.port with state := .suspending, ackTimer := 0 }
      else claims 0 s.port)

/-- HCS# inactive: a DONE port becomes IDLE and presents nothing any more; a BUSY one goes on with its access. HCS# active
while the port is BUSY or DONE is not taken: HWAIT# is active for it, and the access in hand stays (R208, R209). The
select that waits is an arrival when the port is IDLE again, with the pins as they stand then (R208, R209): at the HCS#
that ends a DONE access (log entry 6, the model's reading), and after any other command that completes the access in hand,
whose own work is done first (log entry 16). -/
def Obligations.SelectIsReleasedOrWaits : Prop :=
  (∀ s : State, s.inReset = false → s.Rests → s.host.reselect = false →
    (s.host.state = .done → exec .hostSelectRelease s = .next (refresh (s.setHost
      { s.host with state := .idle, access := none, data := none, herr := false, select := false })))
    ∧ (s.host.state = .busy → exec .hostSelectRelease s = .next (refresh (s.setHost { s.host with select := false })))
    ∧ ∀ p, s.host.state ≠ .idle → ∃ t, exec (.hostSelectWhileBusy p) s = .next t ∧ t.hwait = true
        ∧ t = refresh (s.setHost { s.host with select := true, pins := p, reselect := true }))
  ∧ (∀ s : State, s.inReset = false → s.Rests → s.host.state = .done → s.host.reselect = true →
      exec .hostSelectRelease s = exec (.hostAccessArrival s.host.pins) (s.setHost
        { s.host with state := .idle, access := none, data := none, herr := false, select := false, reselect := false }))
  ∧ ∀ (s t : State) (c : Instr), s.inReset = false → s.host.state = .busy → s.host.reselect = true →
      (∀ p, c ≠ .hostAccessArrival p) → (∀ p, c ≠ .hostSelectWhileBusy p) → c ≠ .hostSelectRelease → c ≠ .reset →
      (∀ pins, c ≠ .resetRelease pins) →
      exec c (s.setHost { s.host with select := false, reselect := false }) = .next t → t.host.state = .idle →
      exec c s = exec (.hostAccessArrival s.host.pins) t

/-! ### The array port -/

/-- The READ of a host read reports its word (R51, R99): the word is assembled with the merge buffer and the entries as they
stand then, or taken as it is for a DIRECT or READONLY region (R59); the access completes with no error, the claim and
the consecutive timeout count go, and the flash word is known. The READ of a suspension is followed by RESUME in the same
event, with the erase's suspension count raised by one. An end of LOAD that is to retire the read's sector has waited for
the read, and is taken with its end: the sector is retired and the commit ends (R51, R60, R125; log entry 35, the model's
reading). -/
def Obligations.HostReadReturnsAssembledWord : Prop :=
  ∀ (s : State) (p : HostPins) (x : ReadAccess) (y : RunningOp) (w : Word), s.Reads p x → y.op = x.op →
    y.issued = true → s.inReset = false → s.Rests → s.port.Lawful →
    let word := if x.policy = .staged then
        overlayEntry (s.waitingAt x.region x.addr) (overlayEntry (s.committingAt x.region x.addr)
          (if s.mergeHit (sectorOf x.addr) then s.engine.mergeWord (offsetOf x.addr) else w))
      else w
    ((s.port.state = .running ∧ s.port.op = some y) ∨ (s.port.state = .suspended ∧ s.port.inner = some y)) →
    ∃ t, exec (.arrayReadEnd w) s = .next t ∧ t.host = HostPort.presents p (some word) false
      ∧ t.reader = { state := .idle, access := none } ∧ t.port.hostClaim = none ∧ t.port.consecutive = 0
      ∧ (s.endOfLoadWaits = false → ∀ r, t.contents r = s.contents r)
      ∧ (s.AwaitsRetirement → s.Retires t ∧ ∀ r, s.engine.itemRegion = some r → s.stall = none →
          (∀ k, k ≠ r → t.contents k = s.contents k)
          ∧ t.contents r = ((s.queue r).filter
              fun e => e.waits && sectorOf e.addr != s.engine.sector).map Entry.content)
      ∧ (∀ a, t.flash.read a = if a = x.op.word then { known := 0xFFFF, value := w } else s.flash.read a)
      ∧ (s.port.state = .suspended → t.port.state = .running ∧ t.port.op = s.port.op ∧ t.port.inner = none
          ∧ t.port.suspCount = s.port.suspCount + 1)

/-- The PROGRAM of a direct write ends (R109): a pass completes the write, and the word holds old AND new where it is
known; a first failed attempt is repeated at once, keeping the port, before any engine claim; a second ends the write with
HERR# and DIRECT_WRITE_FAILED, whose region is that of the image in force at the report (Table 10-2, note 3; log entry 32,
the model's choice). As the inner operation of a suspension it does the same: the second attempt runs inside the same
suspension, and the write's end is followed by RESUME in the same event (R99, R109). What is known of a word after a
PROGRAM is said bit by bit (R92): a pass leaves old AND new, and a failed attempt each bit as it was, or cleared where the
value clears it; both hold of every word that agrees with what is known. -/
def Obligations.DirectWriteEndsOrRetries : Prop :=
  (∀ (s : State) (p : HostPins) (d : DirectWrite) (x : RunningOp) (pass : Bool),
    ((s.Runs x ∧ s.port.arst = .inactive)
      ∨ (s.inReset = false ∧ s.port.state = .suspended ∧ s.port.inner = some x ∧ x.issued = true)) →
    s.WritesDirect p d → x.op = d.op → s.Rests →
    ∃ t, exec (.arrayProgramEnd pass) s = .next t ∧ t.port.consecutive = 0
      ∧ (∀ a, a ≠ d.op.word → t.flash.read a = s.flash.read a)
      ∧ t.flash.read d.op.word = (if pass then (s.flash.read d.op.word).programmed d.value
          else (s.flash.read d.op.word).halfProgrammed d.value)
      ∧ (if pass = true then
          t.host = HostPort.presents p none false ∧ t.port.direct = none ∧ t.port.hostClaim = none
            ∧ t.log.records = s.log.records
        else if d.attempts < 2 then
          t.host = HostPort.holds p ∧ t.port.direct = some { d with attempts := d.attempts + 1 }
            ∧ t.port.hostClaim = some d.op ∧ t.port.state = s.port.state
            ∧ (s.port.state = .running → t.port.op = some { op := d.op, timer := 0, issued := true })
            ∧ (s.port.state = .suspended → t.port.op = s.port.op ∧ t.port.suspCount = s.port.suspCount
              ∧ t.port.inner = some { op := d.op, timer := 0, issued := true })
            ∧ t.port.engClaim = s.port.engClaim ∧ t.log.records = s.log.records
        else
          t.host = HostPort.presents p none true ∧ t.port.direct = none ∧ t.port.hostClaim = none
            ∧ t.log.records = (s.log.take { kind := .directWriteFailed, addr := some d.addr
                                            region := some ((s.regionOf (sectorOf d.addr)).getD d.region) }
                s.msTick).records)
      ∧ (s.port.state = .suspended → pass = true ∨ 2 ≤ d.attempts → t.port.state = .running ∧ t.port.op = s.port.op
          ∧ t.port.inner = none ∧ t.port.suspCount = s.port.suspCount + 1))
  ∧ ∀ (x : FlashWord) (v : Word),
      let agrees := fun (y : FlashWord) (w : Word) => ∀ i < 16, y.known.getLsbD i = true →
        w.getLsbD i = y.value.getLsbD i
      (∀ i < 16, (x.programmed v).known.getLsbD i = (x.known.getLsbD i || !v.getLsbD i)
        ∧ (x.programmed v).value.getLsbD i = (x.value.getLsbD i && v.getLsbD i)
        ∧ (x.halfProgrammed v).known.getLsbD i = (x.known.getLsbD i && (v.getLsbD i || !x.value.getLsbD i))
        ∧ (x.halfProgrammed v).value.getLsbD i = (x.value.getLsbD i && v.getLsbD i))
      ∧ ∀ old : Word, agrees x old → agrees (x.programmed v) (old &&& v)
        ∧ ∀ new : Word, (∀ i < 16, new.getLsbD i = old.getLsbD i ∨ (v.getLsbD i = false ∧ new.getLsbD i = false)) →
          agrees (x.halfProgrammed v) new

/-- An ERASE attempt of a commit ends (R77, R78, R79, R118), with no host claim waiting. A pass leaves the sector erased, and
WRITEBACK begins with the first merge buffer word that is not FFFFh. A failed attempt below the third is issued again,
with a suspension count of 0; the third puts the lowest FREE spare on trial, when the remap table has room. A failed
attempt leaves nothing of the sector known (R92). The image's words that are not FFFFh are programmed in order, and after
the last one the commit ends, or the spare is taken (R78, R80, R120). A sector of any item that fails, or a spare on trial
that fails, which is BAD and reported (R123), puts the lowest FREE spare on trial (R118); with none the sector is retired:
its entry names NONE, its old spare is BAD, its WAITING entries go, a write stalled on it is refused, and SECTOR_RETIRED
counts what is lost, the refused write's WRITE_REFUSED, reason RETIRED, after it (R125, R127, R43, R30; log entry 34). A
word's first failed PROGRAM and an ERASE that fails below its third attempt are issued again, in every phase that allows
another attempt (R73, R76, R78, R84, R86, R120, R121). Without room in the table DATA_LOST is reported and the map
stays (R126). A trial that succeeds makes the spare the sector's home, its old spare BAD, with SECTOR_REMAPPED (R124). The
item ends with each outcome. -/
def Obligations.CommitEraseEnds : Prop :=
  (∀ (s : State) (psec : Nat) (x : RunningOp) (pass : Bool), s.Runs x → s.ErasesForCommit psec → s.flash.wf →
    x.op = { kind := .erase, psec := psec, offset := 0, value := 0, issuer := .engine } →
    s.port.hostClaim = none → s.host.reselect = false → s.port.arst = .inactive →
    ∃ t, exec (.arrayEraseEnd pass) s = .next t ∧ t.port.consecutive = 0
      ∧ (∀ a, t.flash.read a = if a / 2048 = psec then
          (if pass then FlashWord.ofWord 0xFFFF else FlashWord.unknown) else s.flash.read a)
      ∧ (∀ o, pass = true → o < 2048 → s.engine.mergeWord o ≠ 0xFFFF → (∀ j < o, s.engine.mergeWord j = 0xFFFF) →
          t.engine.phase = .writeback ∧ t.engine.programAttempts = 1 ∧ t.port.state = .running
            ∧ t.port.op = some { op := { kind := .program, psec := psec, offset := o, value := s.engine.mergeWord o
                                         issuer := .engine }
                                 timer := 0, issued := true })
      ∧ (pass = false → s.engine.eraseAttempts < 3 →
          t.engine = { s.engine with eraseAttempts := s.engine.eraseAttempts + 1 } ∧ t.port.state = .running
            ∧ t.port.suspCount = 0 ∧ t.port.op = some { op := x.op, timer := 0, issued := true })
      ∧ (∀ i, pass = false → 3 ≤ s.engine.eraseAttempts → s.lowestFree = some i →
          ((s.map.entryOf s.engine.sector).isSome = true ∨ s.map.remap.length < 64) →
          t.engine.phase = .relocate ∧ t.engine.spareOnTrial = some i ∧ t.engine.itemPhys = some (1021 - i)
            ∧ t.engine.eraseAttempts = 1 ∧ t.map = s.map ∧ t.port.state = .running
            ∧ t.port.op = some { op := { kind := .erase, psec := 1021 - i, offset := 0, value := 0, issuer := .engine }
                                 timer := 0, issued := true }))
  ∧ ∀ (s : State) (x : RunningOp) (c : Instr), s.EngineRuns x →
      let sector := s.engine.sector
      let entry := s.map.entryOf sector
      let remap := fun (target : Option Nat) => if entry.isSome then
          s.map.remap.map fun e => if e.sector = sector then { e with target := target } else e
        else s.map.remap ++ [{ sector := sector, target := target }]
      let spareBad := fun (i : Nat) => ({ kind := .spareBad, spare := some i, psec := some (1021 - i) } : FaultReport)
      let logOld := fun (l : FaultLog) => match entry.bind (·.target) with
        | some j => l.take (spareBad j) s.msTick
        | none => l
      let badOld := fun (b : BitVec 32) => match entry.bind (·.target) with
        | some j => b ||| BitVec.ofNat 32 (2 ^ j)
        | none => b
      let lost : FaultReport := { kind := .sectorRetired, lsec := some sector
                                  count := if s.engine.item = .regionCommit then
                                      s.engine.entryCount + s.waitingIn (s.engine.itemRegion.getD 0) sector else 0 }
      let quiet := s.port.direct = none ∧ s.cru.generation < 0xFFFFFFFE
      let asks := fun (t : State) => t.cru.updatePending = true ∨ t.engine.item = .controlUpdate
        ∨ 0xFFFFFFFE ≤ s.cru.generation
      -- a failed attempt that is not the last is repeated
      ((c = .arrayProgramEnd false → x.op.kind = .program → s.engine.phase ∈ [Phase.program, .writeback, .relocate] →
          s.engine.programAttempts < 2 → ∃ t, exec c s = .next t ∧ t.Issues x.op ∧ t.map = s.map
            ∧ t.engine = { s.engine with programAttempts := s.engine.programAttempts + 1 })
        ∧ (c = .arrayEraseEnd false → x.op.kind = .erase →
          s.engine.phase ∈ [Phase.erase, .relocate, .jobErase, .clearErase] → s.engine.eraseAttempts < 3 →
          ∃ t, exec c s = .next t ∧ t.Issues x.op ∧ t.map = s.map ∧ t.port.suspCount = 0
            ∧ t.engine = { s.engine with eraseAttempts := s.engine.eraseAttempts + 1 }))
      -- the image is written on, or is complete
      ∧ (∀ start psec, s.WritesOn c x start → s.engine.itemPhys = some psec → ∃ t, exec c s = .next t
        ∧ (∀ o, start ≤ o → o < 2048 → s.engine.mergeWord o ≠ 0xFFFF →
            (∀ j, start ≤ j → j < o → s.engine.mergeWord j = 0xFFFF) →
            t.engine.phase = (if s.engine.phase = .relocate then .relocate else .writeback)
              ∧ t.engine.programAttempts = 1 ∧ t.Issues (engineOp .program psec o (s.engine.mergeWord o)))
        ∧ ((∀ o, start ≤ o → o < 2048 → s.engine.mergeWord o = 0xFFFF) → s.engine.phase ≠ .relocate →
            s.ItemEnded t .none ∧ t.map.remap = s.map.remap ∧ t.map.bad = s.map.bad ∧ (s.ModeLawful → t.map = s.map)))
      -- no room in the remap table
      ∧ (s.SectorFails c x → entry = none → 64 ≤ s.map.remap.length → ∃ t, exec c s = .next t
        ∧ t.map.remap = s.map.remap ∧ t.map.bad = s.map.bad ∧ s.ItemEnded t .none
        ∧ (quiet → t.log.records = (s.log.take
            { kind := .dataLost, lsec := some sector, reason := some .tableFull
              count := if s.engine.item = .regionCommit then s.engine.entryCount else 0 } s.msTick).records))
      -- the next spare, or retirement
      ∧ (∀ bad (log : FaultLog),
          ((s.SectorFails c x ∧ (entry.isSome = true ∨ s.map.remap.length < 64) ∧ bad = s.map.bad ∧ log = s.log)
            ∨ ∃ i, s.SpareFails c x i ∧ bad = s.map.bad ||| BitVec.ofNat 32 (2 ^ i)
                ∧ log = s.log.take (spareBad i) s.msTick) →
          let m := { s.map with bad := bad }
          (∀ k, k < s.spareCount → m.spareState k = .free → (∀ j < k, m.spareState j ≠ .free) →
            ∃ t, exec c s = .next t ∧ t.map = m ∧ t.log.records = log.records
              ∧ t.engine.phase = .relocate ∧ t.engine.spareOnTrial = some k ∧ t.engine.itemPhys = some (1021 - k)
              ∧ t.engine.eraseAttempts = 1 ∧ t.engine.item = s.engine.item
              ∧ t.engine.itemSector = s.engine.itemSector ∧ t.Issues (engineOp .erase (1021 - k) 0 0))
          ∧ ((∀ k < s.spareCount, m.spareState k ≠ .free) →
            ∃ t, exec c s = .next t ∧ t.map.remap = remap none ∧ t.map.bad = badOld bad ∧ s.ItemEnded t .retired ∧ asks t
              ∧ (s.stall = none → quiet → t.log.records = (logOld (log.take lost s.msTick)).records)
              ∧ (∀ r, s.engine.item = .regionCommit → s.engine.itemRegion = some r → s.stall = none →
                  (∀ r', r' ≠ r → t.contents r' = s.contents r')
                  ∧ t.contents r = ((s.queue r).filter
                      fun e => !(e.waits && sectorOf e.addr == sector)).map Entry.content)
              ∧ ∀ w p, s.stall = some w → sectorOf w.addr = sector → s.host = HostPort.holds p → s.reader.state = .idle →
                  s.port.direct = none → t.stall = none ∧ t.host = HostPort.presents p none true
                    ∧ (quiet → t.log.records = ((logOld (log.take lost s.msTick)).take
                      { kind := .writeRefused, region := some w.region, addr := some w.addr
                        reason := some .retiredSector } s.msTick).records)))
      -- the spare is the sector's home
      ∧ ∀ i, s.SparePasses c x i → ∃ t, exec c s = .next t ∧ t.map.remap = remap (some i)
        ∧ t.map.bad = badOld s.map.bad ∧ s.ItemEnded t .remapped ∧ asks t
        ∧ (quiet → t.log.records = (logOld (s.log.take
            { kind := .sectorRemapped, lsec := some sector, spare := some i
              psec := some ((s.map.translate sector).getD sector) } s.msTick)).records)

/-- A host claim meets a RUNNING ERASE (R97): below the suspend limit SUSPEND is issued, and at it the claim waits. The
array's acknowledgement then grants the claim, a read's READ or a direct write's PROGRAM with its attempt counted, as the
inner operation, and clears the consecutive timeout count (R98, R106, R109). -/
def Obligations.SuspendServesHostClaim : Prop :=
  (∀ (s : State) (o : ArrayOp), s.eraseRunning = true → s.port.hostClaim = none →
    raiseHostClaim o s = if s.port.suspCount < s.suspendLimit
      then s.setPort { s.port with hostClaim := some o, state := .suspending, ackTimer := 0 }
      else s.setPort { s.port with hostClaim := some o })
  ∧ (∀ (s : State) (x : ReadAccess), s.inReset = false → s.Rests → s.port.state = .suspending →
    s.port.hostClaim = some x.op →
    exec .suspendAcknowledgement s = .next (refresh ((s.setReader { s.reader with
        state := if s.reader.state = .portWait then .reading else s.reader.state }).setPort
      { s.port with state := .suspended, consecutive := 0
                    inner := some { op := x.op, timer := 0, issued := true } })))
  ∧ ∀ (s : State) (d : DirectWrite), s.inReset = false → s.Rests → s.port.state = .suspending →
    s.port.hostClaim = some d.op → s.port.direct = some d →
    exec .suspendAcknowledgement s = .next (refresh (s.setPort
      { s.port with state := .suspended, consecutive := 0, direct := some { d with attempts := d.attempts + 1 }
                    inner := some { op := d.op, timer := 0, issued := true } }))

/-- The operation of a RUNNING port reaches its limit, 50 µs of a READ, 1 ms of a PROGRAM, 200 ms of an ERASE (R102,
R103). A first timeout is reported by kind and sector, raises the consecutive count to 1 and pulses ARST# (R106, R212). A
host read completes with HERR# and FFFFh (R61), and a retirement that waited for it is taken (R60; log entry 35). The
PROGRAM of a direct write or of the engine, and an ERASE, take it as a failed attempt: what follows is what follows a fail
report at that time, but for the pulse, and the operation issued next waits for its end (R109, R103; log entry 14). A READ
of the engine is claimed again, in CONTROL_VERIFY it fails the try with VERIFY as a wrong word does (R82, R88), and a READ
of start-up is claimed again (R149). A second timeout in a row is reported, then ARRAY_LOST; the part is OFFLINE, its port
STOPPED with ARST# active, the engine stopped where it was, start-up at its end, and the access that the host is held for
completes with HERR# and no report of its own (R107, R154, R167). The tick of the reports is that of the limit (R102; log
entry 3). -/
def Obligations.ReadTimeoutsLoseTheArray : Prop :=
  ∀ (s : State) (x : RunningOp), s.Runs x → s.port.Lawful → s.host.reselect = false →
    let limit := match x.op.kind with
      | .read => 50
      | .program => 1000
      | .erase => 200000
    let time := s.time + (limit - x.timer)
    let tick : BitVec 32 := BitVec.ofNat 32 (time / 1000)
    let log := s.log.take { kind := .arrayTimeout, psec := some x.op.psec
                            reason := some (match x.op.kind with
                              | .read => .read
                              | .program => .program
                              | .erase => .erase) } tick
    let again := fun (t : State) => t.port.state = .running ∧ t.port.op = some { op := x.op, timer := 0, issued := false }
    let quiet := s.stall = none ∧ s.cru.generation < 0xFFFFFFFE
    x.timer ≤ limit →
    -- the first timeout
    (s.port.consecutive = 0 → ∃ t, exec .operationTimeout s = .next t ∧ t.time = time ∧ t.port.consecutive = 1
      ∧ t.port.arst = .pulse
      ∧ (∀ p y, s.Reads p y → x.op = y.op → quiet → t.host = HostPort.presents p (some 0xFFFF) true
          ∧ t.reader = { state := .idle, access := none } ∧ t.flash = s.flash ∧ t.port.hostClaim = none
          ∧ (s.endOfLoadWaits = false → (∀ r, t.contents r = s.contents r) ∧ t.log.records = log.records)
          ∧ (s.AwaitsRetirement → s.Retires t))
      ∧ (∀ c, ((c = .arrayProgramEnd false ∧ x.op.kind = .program) ∨ (c = .arrayEraseEnd false ∧ x.op.kind = .erase)) →
          (x.op.issuer = .engine ∨ x.op.issuer = .directWrite) → ∃ u, exec c ((s.setTime time).setLog log) = .next u
            ∧ t.engine = u.engine ∧ t.map = u.map ∧ t.cru = u.cru ∧ t.mc = u.mc ∧ t.log = u.log ∧ t.flash = u.flash
            ∧ t.host = u.host ∧ (∀ r, t.contents r = u.contents r ∧ t.marked r = u.marked r)
            ∧ t.port.direct = u.port.direct ∧ t.port.hostClaim = u.port.hostClaim ∧ t.port.engClaim = u.port.engClaim
            ∧ t.port.state = u.port.state ∧ t.port.op = u.port.op.map fun y => { y with issued := false })
      ∧ (x.op.kind = .read → s.port.hostClaim = none →
        (x.op.issuer = .engine → s.engine.phase = .gather ∨ s.engine.phase = .load →
          again t ∧ t.engine = s.engine ∧ t.flash = s.flash ∧ t.log.records = log.records)
        ∧ (x.op.issuer = .startUp → s.mc.mode = .startup → again t ∧ t.startup = s.startup ∧ t.mc.mode = .startup
          ∧ t.log.records = log.records)
        ∧ ∀ w, x.op.issuer = .engine → s.engine.phase = .controlVerify → s.engine.record[s.engine.cursor]? ≠ some w →
          ∃ u, exec (.arrayReadEnd w) ((s.setTime time).setLog log) = .next u ∧ t.engine = u.engine ∧ t.cru = u.cru ∧ t.log = u.log ∧ t.flash = s.flash
            ∧ t.port.op = u.port.op.map fun y => { y with issued := false }))
    -- the second in a row
    ∧ (s.port.consecutive = 1 → ∃ t, exec .operationTimeout s = .next t ∧ t.time = time ∧ t.mc.mode = .offline
      ∧ t.port.state = .stopped ∧ t.port.consecutive = 2 ∧ t.port.op = none ∧ t.arstPin = true
      ∧ t.port.hostClaim = none ∧ t.port.engClaim = none ∧ t.port.direct = none ∧ t.stall = none ∧ t.startup = none
      ∧ t.engine = { s.engine with stopped := true } ∧ t.reader = { state := .idle, access := none }
      ∧ t.mc.drained = false ∧ t.log.attn = true ∧ t.log.records = (log.take { kind := .arrayLost } tick).records
      ∧ t.map = s.map ∧ t.cru = s.cru ∧ (∀ r, t.contents r = s.contents r)
      ∧ (∀ a, t.flash.read a = match x.op.kind with
          | .read => s.flash.read a
          | .program => if a = x.op.word then (s.flash.read a).halfProgrammed x.op.value else s.flash.read a
          | .erase => if a / 2048 = x.op.psec then FlashWord.unknown else s.flash.read a)
      ∧ ∀ p, s.host = HostPort.holds p → t.host = HostPort.presents p (if p.write then none else some 0xFFFF) true)

/-- A timeout during the suspension of an erase, the first in a row. Of a commit's erase with attempts left: While
SUSPENDING, one report names SUSPEND or ERASE by the limit reached, the erase is issued again only after the host claim
that caused the SUSPEND (R104). While SUSPENDED, the inner READ's timeout is reported once, the read completes with HERR#
and FFFFh, and the erase, abandoned with it, takes a failed attempt (R105). Of any erase of the engine, on its last
attempt too: what follows is what follows its fail report in a RUNNING port, but for the pulse, after the host has had the
outcome of its inner operation, a read that of R61 and a direct write a failed attempt: its first is repeated in FREE,
before the engine's claim, and its second ends it with DIRECT_WRITE_FAILED (R104, R105, R109; log entry 32). That the next
claim is granted at once, and not issued while the ARST# pulse lasts, is log entry 14, the model's reading of R104 and
R212; that the ticks still to come to the limit have passed before the report's tick is log entry 3. -/
def Obligations.SuspensionTimeoutsFailTheErase : Prop :=
  (∀ (s : State) (p : HostPins) (x : ReadAccess) (e : RunningOp) (psec : Nat), s.inReset = false → s.port.Lawful →
    s.ErasesForCommit psec → s.port.op = some e → e.issued = true →
    e.op = { kind := .erase, psec := psec, offset := 0, value := 0, issuer := .engine } →
    s.engine.eraseAttempts < 3 → s.port.consecutive = 0 → s.stall = none → s.host.reselect = false →
    (∀ limit, s.port.state = .suspending → s.port.hostClaim = some x.op →
      ∃ t, exec (.suspendTimeout limit) s = .next t ∧ t.port.consecutive = 1 ∧ t.port.arst = .pulse
        ∧ t.port.state = .running ∧ t.port.op = some { op := x.op, timer := 0, issued := false }
        ∧ t.port.engClaim = some e.op ∧ t.engine = s.engine ∧ t.host = s.host
        ∧ (∀ a, t.flash.read a = if a / 2048 = psec then FlashWord.unknown else s.flash.read a)
        ∧ t.log.records = (s.log.take { kind := .arrayTimeout, psec := some psec
                                        reason := some (match limit with
                                          | .acknowledgement => .suspend
                                          | .eraseTime => .erase) } t.msTick).records)
    ∧ ∀ y, s.port.state = .suspended → s.Reads p x → s.port.inner = some y → y.op = x.op →
      ∃ t, exec .innerOperationTimeout s = .next t ∧ t.port.consecutive = 1 ∧ t.port.arst = .pulse
        ∧ t.port.state = .running ∧ t.port.op = some { op := e.op, timer := 0, issued := false }
        ∧ t.engine = { s.engine with eraseAttempts := s.engine.eraseAttempts + 1 }
        ∧ t.host = HostPort.presents p (some 0xFFFF) true
        ∧ (∀ a, t.flash.read a = if a / 2048 = psec then FlashWord.unknown else s.flash.read a)
        ∧ t.log.records = (s.log.take { kind := .arrayTimeout, psec := some x.psec, reason := some .read }
            t.msTick).records)
  ∧ ∀ (s : State) (e : RunningOp), s.inReset = false → s.port.Lawful → s.port.op = some e → e.issued = true →
    e.op.kind = .erase → e.op.issuer = .engine → s.port.engClaim = some e.op → s.port.consecutive = 0 →
    s.host.reselect = false →
    -- the state in which the timeout has been reported at a time
    let reported := fun (psec : Nat) (reason : FaultReason) (time : Nat) => (s.setTime time).setLog
      (s.log.take { kind := .arrayTimeout, psec := some psec, reason := some reason } (BitVec.ofNat 32 (time / 1000)))
    let fails := fun (c : Instr) (u : State) => ∃ t v, exec c s = .next t ∧ exec (.arrayEraseEnd false) u = .next v
      ∧ t.SameButPulse v ∧ t.time = u.time ∧ t.port.consecutive = 1 ∧ t.port.arst = .pulse ∧ t.port.inner = none
      ∧ ∀ a, t.flash.read a = if a / 2048 = e.op.psec then FlashWord.unknown
        else match s.port.inner with
          | some y => if y.issued = true ∧ y.op.kind = .program ∧ y.op.word = a then
              (s.flash.read a).halfProgrammed y.op.value else s.flash.read a
          | none => s.flash.read a
    (s.port.state = .suspending →
      (s.port.ackTimer ≤ 100 → fails (.suspendTimeout .acknowledgement)
        (reported e.op.psec .suspend (s.time + (100 - s.port.ackTimer))))
      ∧ (e.timer ≤ 200000 → fails (.suspendTimeout .eraseTime)
        (reported e.op.psec .erase (s.time + (200000 - e.timer)))))
    ∧ (∀ (p : HostPins) (y : RunningOp), s.port.state = .suspended → s.port.inner = some y → y.issued = true →
      -- a host read
      (∀ x, s.Reads p x → y.op = x.op → y.timer ≤ 50 → fails .innerOperationTimeout
        ((((reported x.psec .read (s.time + (50 - y.timer))).setHost (HostPort.presents p (some 0xFFFF) true)).setReader
          { state := .idle, access := none }).setPort { s.port with state := .running, inner := none, hostClaim := none }))
      -- a direct write
      ∧ ∀ d, s.WritesDirect p d → y.op = d.op → y.timer ≤ 1000 →
        let u := reported d.psec .program (s.time + (1000 - y.timer))
        (d.attempts < 2 → fails .innerOperationTimeout (u.setPort { s.port with state := .running, inner := none }))
        ∧ (2 ≤ d.attempts → fails .innerOperationTimeout
          (((u.setLog (u.log.take { kind := .directWriteFailed, addr := some d.addr
                                    region := some ((s.regionOf (sectorOf d.addr)).getD d.region) } u.msTick)).setHost
            (HostPort.presents p none true)).setPort
              { s.port with state := .running, inner := none, hostClaim := none, direct := none })))

/-- An ARST# pulse, and AREADY high after it (R212). ARST# is active for the 10 µs of the pulse, and inactive while the
controller then waits for AREADY, the wait counted in the time of the operation that it is about to issue: its limit gives
that operation's timeout, and a second in a row takes the part OFFLINE, in the reads of start-up too (R154).
ARST_PULSE_END is AREADY high, the ticks of the pulse still to come having passed (log entry 3): the operation that waited
for the pulse (log entry 14, the model's reading) is issued, the READ of a host read in PORT_WAIT then READING (R51), an
ERASE suspended at once for a host claim that waits, below the suspend limit (R97; log entry 14). Without a pulse nothing
happens (log entry 4, the model's reading). Otherwise a rise of AREADY is the report that the table of R212 gives for what
the controller has issued, and with nothing issued it is ignored. -/
def Obligations.PulseEndIssuesWaitingOperation : Prop :=
  (∀ (s : State) (pins : ArrayPins),
    (s.arstPin = true ↔ s.port.arst = .held ∨ (s.port.arst = .pulse ∧ s.port.arstTimer < 10))
    ∧ (s.port.arst = .pulse → s.readReport pins = if s.port.arstTimer < 10 then none else some .arstPulseEnd)
    ∧ (s.port.arst ≠ .pulse →
      let ends := fun (x : RunningOp) => match x.op.kind with
        | .read => Instr.arrayReadEnd pins.ad
        | .program => .arrayProgramEnd (!pins.afail)
        | .erase => .arrayEraseEnd (!pins.afail)
      (s.port.state = .free ∨ s.port.state = .stopped → s.readReport pins = none)
      ∧ (s.port.state = .suspending → s.readReport pins =
          if pins.asusp = true then some .suspendAcknowledgement else some (.arrayEraseEnd (!pins.afail)))
      ∧ ∀ x, (s.port.state = .running ∧ s.port.op = some x) ∨ (s.port.state = .suspended ∧ s.port.inner = some x) →
        s.readReport pins = if x.issued = true then some (ends x) else none))
  ∧ (∀ (s : State) (x : RunningOp), s.inReset = false → s.port.Lawful → s.host.reselect = false →
    s.port.arst = .pulse → s.port.state = .running → s.port.op = some x → x.issued = false →
    let limit := match x.op.kind with
      | .read => 50
      | .program => 1000
      | .erase => 200000
    let time := s.time + (10 - s.port.arstTimer) + (limit - x.timer)
    let log := s.log.take { kind := .arrayTimeout, psec := some x.op.psec
                            reason := some (match x.op.kind with
                              | .read => .read
                              | .program => .program
                              | .erase => .erase) } (BitVec.ofNat 32 (time / 1000))
    (∀ d, (elapse d s).port.op = some { x with
        timer := x.timer + (s.port.arstTimer + d - 10) - (s.port.arstTimer - 10) })
    ∧ (x.timer ≤ limit → ∃ t, exec .operationTimeout s = .next t ∧ t.time = time ∧ t.flash = s.flash ∧ t.arstPin = true
      ∧ (s.port.consecutive = 0 → t.port.consecutive = 1 ∧ t.port.arst = .pulse ∧ t.port.arstTimer = 0
        ∧ (x.op.issuer = .startUp → s.mc.mode = .startup → s.port.hostClaim = none → t.startup = s.startup
          ∧ t.mc.mode = .startup ∧ t.log.records = log.records ∧ t.port.state = .running
          ∧ t.port.op = some { op := x.op, timer := 0, issued := false }))
      ∧ (s.port.consecutive = 1 → t.mc.mode = .offline ∧ t.port.state = .stopped ∧ t.startup = none
        ∧ t.log.records = (log.take { kind := .arrayLost } (BitVec.ofNat 32 (time / 1000))).records)))
  ∧ ∀ s : State, s.inReset = false → s.Rests →
    (s.port.arst ≠ .pulse → exec .arstPulseEnd s = .next (refresh s))
    ∧ (s.port.arst = .pulse → s.port.arstTimer < 10 →
      exec .arstPulseEnd s = exec .arstPulseEnd (elapse (10 - s.port.arstTimer) s))
    ∧ (s.port.arst = .pulse → 10 ≤ s.port.arstTimer → s.port.op = none →
      exec .arstPulseEnd s = .next (refresh (s.setPort { s.port with arst := .inactive, arstTimer := 0 })))
    ∧ ∀ x, s.port.arst = .pulse → 10 ≤ s.port.arstTimer → s.port.op = some x → x.issued = false →
      (x.op.kind ≠ .erase → exec .arstPulseEnd s = .next (refresh
        ((s.setReader { s.reader with
            state := if x.op.issuer = .hostRead ∧ s.reader.state = .portWait then .reading else s.reader.state }).setPort
          { s.port with arst := .inactive, arstTimer := 0, op := some { x with issued := true } })))
      ∧ (x.op.kind = .erase → x.op.issuer = .engine → s.port.state = .running →
        exec .arstPulseEnd s = .next (refresh (s.setPort
          (if s.port.hostClaim.isSome = true ∧ s.port.suspCount < s.suspendLimit then
            { s.port with arst := .inactive, arstTimer := 0, op := some { x with issued := true }
                          state := .suspending, ackTimer := 0 }
          else { s.port with arst := .inactive, arstTimer := 0, op := some { x with issued := true } }))))

/-- The stall limit: the stalled write is dropped with HERR# and WRITE_DROPPED, no entry is created or changed, and the limit
is the region's stall limit × 100 µs from the timer's start (R26, R28; that the ticks still to come have then passed is log
entry 3). -/
def Obligations.StallExpiryDropsTheWrite : Prop :=
  ∀ (s : State) (p : HostPins) (w : StalledWrite) (g : RegionRec), s.inReset = false → s.stall = some w →
    s.host = HostPort.holds p → s.reader.state = .idle → s.port.direct = none → s.region? w.region = some g →
    w.timer ≤ g.stallLimit * 100 → s.cru.generation < 0xFFFFFFFE →
    ∃ t, exec .stallLimitExpiry s = .next t ∧ t.stall = none ∧ t.host = HostPort.presents p none true
      ∧ t.time = s.time + (g.stallLimit * 100 - w.timer) ∧ (∀ r, t.contents r = s.contents r ∧ t.marked r = s.marked r)
      ∧ t.log.records = (s.log.take { kind := .writeDropped, region := some w.region, addr := some w.addr }
          (BitVec.ofNat 32 (t.time / 1000))).records

/-- The age limit of a STAGED region whose oldest WAITING entry is younger than it: at the millisecond tick that brings the
entry to the limit, the region is aged; an engine at work goes on, and an idle one with no update, job or clear starts a
REGION_COMMIT (R35, R65, R66). Without a COMMITTING entry while the engine is idle (R40). That the ticks still to come
have then passed is log entry 3. -/
def Obligations.AgeLimitMakesRegionDue : Prop :=
  ∀ (s : State) (r : BitVec 4) (g : RegionRec) (h : BitVec 32) (l : Nat), s.inReset = false →
    s.region? r.toNat = some g → g.policy = .staged → ageLimit g.ageCode = some l → s.headStamp r.toNat = some h →
    (s.msTick - h).toNat < l → s.host.reselect = false →
    ∃ t, exec (.regionAgeLimit r) s = .next t
      ∧ t.time = (s.time / 1000 + (l - (s.msTick - h).toNat)) * 1000
      ∧ (∀ k, t.contents k = s.contents k ∧ t.marked k = s.marked k)
      ∧ (s.maySelect = false → t.aged r.toNat = true ∧ t.engine.item = s.engine.item)
      ∧ (s.maySelect = true → s.cru.updatePending = false → s.engine.jobPending = false → s.mc.mode = .run →
          (∀ k, ∀ e ∈ s.queue k, e.state = .waiting) → t.engine.item = .regionCommit ∧ t.engine.phase ≠ .idle)

/-! ### The commit engine, the sector map and the records -/

/-- A selection of rank 4 takes a due region of the lowest class that any due region has, and of that class the first after
the last served region, upward and wrapping to end with it; none is taken only when no region is due (R67, R68). A region is
due when it is STAGED and holds entries, in the first class of R67 that holds of it: its write stalls, level code 3, level
code 2, flush mark, aged. The level code is R32's, and a STAGED region is aged by the ticks since its head age stamp, modulo
2³², against the limit of its age code (R35). -/
def Obligations.RegionSelectionOrder : Prop :=
  (∀ s : State, (∀ l, s.engine.lastServed = some l → l < s.regions.length) →
    (s.dueRegion = none ↔ ∀ r, r < s.regions.length → s.dueClass r = none)
    ∧ ∀ r, s.dueRegion = some r → r < s.regions.length ∧ ∃ c, s.dueClass r = some c
      ∧ ∀ r' c', r' < s.regions.length → s.dueClass r' = some c' →
          c ≤ c' ∧ (c' = c → match s.engine.lastServed with
            | none => r ≤ r'
            | some l => (r + s.regions.length - 1 - l) % s.regions.length
                ≤ (r' + s.regions.length - 1 - l) % s.regions.length))
  ∧ ∀ (s : State) (r : Nat),
    (s.dueClass r = if s.hasPolicy r .staged = false ∨ s.count r = 0 then none
      else if ∃ w, s.stall = some w ∧ w.region = r then some 1
      else if s.levelCode r = 3 then some 2
      else if s.levelCode r = 2 then some 3
      else if s.marked r = true then some 4
      else if s.aged r = true then some 5
      else none)
    ∧ ∀ g, s.region? r = some g →
      (s.levelCode r = if s.count r = 0 ∨ g.blocks = 0 then 0
        else if 64 * g.blocks ≤ s.count r then 3
        else if 64 * g.blocks ≤ s.count r + g.af then 2
        else 1)
      ∧ (s.aged r = true ↔ g.policy = .staged ∧ ∃ h l,
          s.headStamp r = some h ∧ (g.ageCode, l) ∈ [(1, 2), (2, 16), (3, 128), (4, 1024)]
            ∧ l ≤ (s.time / 1000 + 2 ^ 32 - h.toNat) % 2 ^ 32)

/-- A REGION_COMMIT of a region that holds a WAITING entry starts with the gather (R40, R69, R70): exactly the WAITING entries
in the sector X of the oldest one become COMMITTING, in their places; the gathered set lists their addresses, words and
masks in queue order, none released; X, its physical sector and the number of entries are the item's, and 32 or fewer take
the GATHER path, more the LOAD path. Nothing else changes but the engine's claim. On the GATHER path each READ gives its
entry's old word and is followed by the next entry's; an infeasible entry leads to LOAD; after the last one, PROGRAM takes
the entries in order (R72, R73): one whose target is its old word is released at once, and the first other one is
programmed. A PROGRAM that passes releases its entry alone, and the entries after it go on so; with none left the commit
ends (R41). A word's second failed attempt leads to LOAD, bound for RELOCATE, with no entry released. The READ of offset
2047 ends LOAD (R74): the merge buffer holds the words as loaded, with the target of each gathered entry not released before
at its address, and the region's COMMITTING entries are released. The sector is then relocated when its path is bound for
RELOCATE, erased when such an entry was infeasible, programmed from the lowest offset whose target differs, or, with none,
the commit ends (R75, R80). A PROGRAM that passes on that path leads to the next offset whose target differed, or ends the
commit (R76). Where the end of LOAD is to retire the sector while a read of it waits for the port, that read is served
first, the commit still in LOAD (R51, R60; log entry 35, the model's reading). -/
def Obligations.CommitStartsWithGather : Prop :=
  (∀ (s : State) (r : Nat) (e : Entry), (s.queue r).find? Entry.waits = some e →
    let x := sectorOf e.addr
    let n := (s.queue r).countP fun e => e.waits && sectorOf e.addr == x
    let t := startCommit r s
    t.queue r = (s.queue r).map (fun e =>
        if e.state = .waiting ∧ sectorOf e.addr = x then { e with state := .committing } else e)
      ∧ (∀ r', r' ≠ r → t.queue r' = s.queue r') ∧ (∀ r', t.marked r' = s.marked r')
      ∧ t.engine.item = .regionCommit ∧ t.engine.itemRegion = some r ∧ t.engine.itemSector = some x
      ∧ t.engine.itemPhys = some ((s.map.translate x).getD x) ∧ t.engine.entryCount = n
      ∧ t.engine.gathered = ((s.queue r).filter fun e => e.waits && sectorOf e.addr == x).map (fun e =>
          { addr := e.addr, data := e.data, mask := e.mask, old := none, differs := false, released := false })
      ∧ (if n ≤ 32 then t.engine.phase = .gather ∧ t.engine.path = some .gather
          else t.engine.phase = .load ∧ t.engine.path = some .load ∧ t.engine.mergeSector = some x)
      ∧ t = { s with queues := t.queues, engine := t.engine, port := { s.port with engClaim := t.port.engClaim } })
  -- the last READ of LOAD
  ∧ (∀ (s : State) (x : RunningOp) (r psec : Nat) (w : Word), s.EngineRuns x → x.op.kind = .read →
      s.engine.phase = .load → s.engine.item = .regionCommit → s.engine.itemRegion = some r →
      s.engine.itemPhys = some psec → s.engine.cursor = 2047 → s.stall = none →
      let loaded := fun (o : Nat) => if o = 2047 then w else s.engine.mergeWord o
      let target := fun (g : GatheredEntry) => overlay g.mask g.data (loaded (offsetOf g.addr))
      let left := s.engine.gathered.filter fun g => !g.released
      let infeasible := ∃ g ∈ left, feasible g.mask g.data (loaded (offsetOf g.addr)) = false
      let differs := fun (o : Nat) => ∃ g ∈ left, offsetOf g.addr = o ∧ target g ≠ loaded o
      let released := fun (t : State) => (∀ r', r' ≠ r → t.contents r' = s.contents r')
        ∧ t.contents r = ((s.queue r).filter Entry.waits).map Entry.content
      ∃ t, exec (.arrayReadEnd w) s = .next t
        ∧ (∀ o < 2048, (∀ g ∈ left, offsetOf g.addr ≠ o) → t.engine.mergeWord o = loaded o)
        ∧ (∀ g ∈ left, (∀ g' ∈ left, offsetOf g'.addr = offsetOf g.addr → g' = g) →
            t.engine.mergeWord (offsetOf g.addr) = target g)
        ∧ (∀ i, s.engine.boundReloc = true → s.lowestFree = some i →
            (s.map.entryOf s.engine.sector).isSome = true ∨ s.map.remap.length < 64 →
            released t ∧ t.engine.mergeValid = true ∧ t.engine.phase = .relocate ∧ t.engine.spareOnTrial = some i
              ∧ t.Issues (engineOp .erase (1021 - i) 0 0))
        ∧ (s.engine.boundReloc = false → infeasible → released t ∧ t.engine.mergeValid = true ∧ t.engine.phase = .erase
            ∧ t.engine.eraseAttempts = 1 ∧ t.Issues (engineOp .erase psec 0 0))
        ∧ (∀ o, s.engine.boundReloc = false → ¬infeasible → o < 2048 → differs o → (∀ j < o, ¬differs j) →
            released t ∧ t.engine.mergeValid = true ∧ t.engine.phase = .program ∧ t.engine.programAttempts = 1
              ∧ t.Issues (engineOp .program psec o (t.engine.mergeWord o)))
        ∧ (s.engine.boundReloc = false → ¬infeasible → (∀ o < 2048, ¬differs o) →
            released t ∧ s.ItemEnded t .none))
  -- the last READ of LOAD, where the retirement waits for a read of the sector
  ∧ (∀ (s : State) (x : RunningOp) (p : HostPins) (a : ReadAccess) (w : Word), s.Runs x → x.op.kind = .read →
      x.op.issuer = .engine → s.engine.phase = .load → s.engine.cursor = 2047 → s.loadRetires = true →
      s.port.arst = .inactive → s.host = HostPort.holds p → s.reader = { state := .portWait, access := some a } →
      sectorOf a.addr = s.engine.sector → s.port.hostClaim = some a.op → s.port.direct = none →
      ∃ t, exec (.arrayReadEnd w) s = .next t ∧ t.Issues a.op ∧ t.reader = { state := .reading, access := some a }
        ∧ t.host = s.host ∧ t.map = s.map ∧ t.port.engClaim = none ∧ t.port.hostClaim = some a.op
        ∧ (∀ r, t.contents r = s.contents r) ∧ t.endOfLoadWaits = true ∧ t.loadRetires = true
        ∧ t.engine = { s.engine with cursor := 2048, merge := s.engine.merge.setIfInBounds 2047 w })
  -- the GATHER path, and PROGRAM on the LOAD path
  ∧ ∀ (s : State) (x : RunningOp) (r psec : Nat), s.EngineRuns x → s.engine.item = .regionCommit →
      s.engine.itemRegion = some r → s.engine.itemPhys = some psec → s.stall = none →
      let target := fun (g : GatheredEntry) (w : Word) => overlay g.mask g.data w
      let still := fun (t : State) => ∀ k, t.contents k = s.contents k
      let loads := fun (t : State) (gs : List GatheredEntry) => still t ∧ t.engine.phase = .load
        ∧ t.engine.path = some .load ∧ t.engine.mergeValid = false ∧ t.engine.mergeSector = s.engine.itemSector
        ∧ t.engine.gathered = gs ∧ t.Issues (engineOp .read psec 0 0)
      -- PROGRAM over the entries `rest`, those of `gone` having been released
      let goesOn := fun (t : State) (gs gone rest : List GatheredEntry) =>
        let settled := fun (g : GatheredEntry) => match g.old with
          | some w => target g w == w
          | none => false
        let released := gone ++ rest.takeWhile settled
        (∀ k, k ≠ r → t.contents k = s.contents k)
          ∧ t.contents r = ((s.queue r).filter
              fun e => e.waits || !released.any (·.addr == e.addr)).map Entry.content
          ∧ match rest.dropWhile settled with
            | [] => s.ItemEnded t .none
            | h :: _ => ∀ w, h.old = some w → t.engine.phase = .program ∧ t.engine.programAttempts = 1
                ∧ t.engine.gathered = gs.map (fun g =>
                    if released.any (·.addr == g.addr) then { g with released := true } else g)
                ∧ t.Issues (engineOp .program psec (offsetOf h.addr) (target h w))
      (∀ (done rest : List GatheredEntry) (g : GatheredEntry) (w : Word), x.op.kind = .read → s.engine.phase = .gather →
          s.engine.gathered = done ++ g :: rest → (∀ d ∈ done ++ g :: rest, d.released = false) → g.old = none →
          (∀ d ∈ rest, d.old = none) →
          (∀ d ∈ done, match d.old with
            | some o => feasible d.mask d.data o = true
            | none => False) →
          let gs := done ++ { g with old := some w, differs := target g w != w } :: rest
          ∃ t, exec (.arrayReadEnd w) s = .next t
            ∧ (feasible g.mask g.data w = false → loads t gs)
            ∧ (feasible g.mask g.data w = true → match rest with
              | h :: _ => still t ∧ t.engine = { s.engine with gathered := gs }
                  ∧ t.Issues (engineOp .read psec (offsetOf h.addr) 0)
              | [] => goesOn t gs [] gs))
      ∧ (∀ (done rest : List GatheredEntry) (g : GatheredEntry), x.op.kind = .program → s.engine.phase = .program →
          s.engine.path = some .gather → s.engine.gathered = done ++ g :: rest → (∀ d ∈ done, d.released = true) →
          (∀ d ∈ g :: rest, d.released = false) → (s.engine.gathered.map (·.addr)).Nodup →
          (∃ t, exec (.arrayProgramEnd true) s = .next t ∧ goesOn t s.engine.gathered [g] rest)
          ∧ (2 ≤ s.engine.programAttempts → ∃ t, exec (.arrayProgramEnd false) s = .next t
            ∧ t.engine.boundReloc = true ∧ loads t s.engine.gathered))
      ∧ (x.op.kind = .program → s.engine.phase = .program → s.engine.path = some .load →
          let differed := fun (o : Nat) => ∃ g ∈ s.engine.gathered, g.differs = true ∧ offsetOf g.addr = o
          ∃ t, exec (.arrayProgramEnd true) s = .next t ∧ still t
            ∧ (∀ o, x.op.offset < o → o < 2048 → differed o → (∀ j, x.op.offset < j → j < o → ¬differed j) →
                t.engine.phase = .program ∧ t.engine.programAttempts = 1
                  ∧ t.Issues (engineOp .program psec o (s.engine.mergeWord o)))
            ∧ ((∀ o, x.op.offset < o → o < 2048 → ¬differed o) → s.ItemEnded t .none))

/-- Feasibility and target (R71): an entry is feasible over a word just when its bytes clear bits alone on its lanes; the
target has its bytes on its lanes and the word's elsewhere; and for a feasible entry with FFh outside its lanes, the
target is the word AND the data, and a PROGRAM of it leaves it. -/
def Obligations.FeasibleTargets : Prop :=
  ∀ (m : LaneMask) (d o : Word),
    (feasible m d o = true ↔ ∀ i < 16, m.bits.getLsbD i = true → d.getLsbD i = true → o.getLsbD i = true)
    ∧ (∀ i < 16, (targetWord m d o).getLsbD i = if m.bits.getLsbD i then d.getLsbD i else o.getLsbD i)
    ∧ (feasible m d o = true → d ||| m.bits = 0xFFFF →
        targetWord m d o = o &&& d ∧ o &&& targetWord m d o = targetWord m d o)

/-- A setup image that validation accepts (R162): its version, region count, spare count and suspend limit are in range; every
logical sector of its window lies in exactly one region; its blocks sum to 32 or less, and a region owns blocks just
when it is STAGED; AF lies below the capacity, age codes are 0..4, and stall limits above 0. Any bytes are judged by the
checks of Table 8-3 in its order: the first that fails gives the reason, with the region that it names, and bytes that pass
every check are accepted as the image they spell (section 13.3). What SPARES asks is R162's for SETUP_LOAD, and S at most
32 at start-up (note 1). -/
def Obligations.ValidImagesTileTheWindow : Prop :=
  (∀ (sparesBad : Nat → Bool) (b : List Byte) (im : SetupImage), (∀ n, 32 < n → sparesBad n = true) →
    validateImage sparesBad b = .valid im →
    im.version = 1 ∧ 1 ≤ im.regions.length ∧ im.regions.length ≤ 16 ∧ im.spares ≤ 32 ∧ im.suspendLimit ≤ 15
      ∧ b.length = 4 + 10 * im.regions.length
      ∧ (∀ x, x < 1022 - im.spares → ∃ r, r < im.regions.length ∧
          ∀ r' (g : RegionRec), im.regions[r']? = some g → (g.covers x = true ↔ r' = r))
      ∧ (im.regions.map (·.blocks)).sum ≤ 32
      ∧ ∀ g ∈ im.regions, (0 < g.blocks ↔ g.policy = .staged) ∧ (g.policy = .staged → g.af < g.blocks * 64)
          ∧ g.ageCode ≤ 4 ∧ 0 < g.stallLimit ∧ 0 < g.count ∧ g.first + g.count ≤ 1022 - im.spares)
  ∧ (∀ (sparesBad : Nat → Bool) (b : List Byte),
    let one := fun (i : Nat) => (b[i]?.getD 0).toNat
    let two := fun (i : Nat) => one i + 256 * one (i + 1)
    let n := one 1
    let w := 1022 - one 2
    let first := fun (r : Nat) => two (4 + 10 * r)
    let count := fun (r : Nat) => two (6 + 10 * r)
    let policy := fun (r : Nat) => one (8 + 10 * r)
    let blocks := fun (r : Nat) => one (9 + 10 * r)
    let af := fun (r : Nat) => two (10 + 10 * r)
    let age := fun (r : Nat) => one (12 + 10 * r)
    let stall := fun (r : Nat) => one (13 + 10 * r)
    let tiling := fun (r : Nat) => decide (first r ≠ (if r = 0 then 0 else first (r - 1) + count (r - 1)) ∨ count r = 0
      ∨ w < first r + count r ∨ (r + 1 = n ∧ first r + count r ≠ w))
    let owns := fun (r : Nat) => decide (2 < policy r ∨ (policy r = 0 ∧ blocks r = 0) ∨ (policy r ≠ 0 ∧ 0 < blocks r)
      ∨ 32 < ((List.range (r + 1)).map blocks).sum)
    let tooFew := fun (r : Nat) => decide (policy r = 0 ∧ 64 * blocks r ≤ af r)
    let ages := fun (r : Nat) => decide (4 < age r)
    let stalls := fun (r : Nat) => decide (stall r = 0)
    let judged := validateImage sparesBad b
    let firstFault := fun (bad : Nat → Bool) (reason : InvalidReason) => ∀ r, r < n → bad r = true →
      (∀ j, j < r → bad j = false) → judged = .invalid reason (some r)
    let passes := fun (bad : Nat → Bool) => ∀ r, r < n → bad r = false
    if b.length < 4 ∨ b.length ≠ 4 + 10 * n then judged = .invalid .imageLength none
    else if one 0 ≠ 1 then judged = .invalid .version none
    else if n = 0 ∨ 16 < n then judged = .invalid .regionCount none
    else if sparesBad (one 2) = true then judged = .invalid .spares none
    else if 15 < one 3 then judged = .invalid .suspend none
    else firstFault tiling .tiling ∧ (passes tiling → firstFault owns .blocks ∧ (passes owns → firstFault tooFew .af
      ∧ (passes tooFew → firstFault ages .age ∧ (passes ages → firstFault stalls .stall ∧ (passes stalls →
        judged = .valid { version := 1, spares := one 2, suspendLimit := one 3
                          regions := (List.range n).map fun r => {
                            first := first r, count := count r, blocks := blocks r, af := af r, ageCode := age r
                            policy := if policy r = 0 then .staged else if policy r = 1 then .direct else .readonly
                            stallLimit := stall r } }))))))
  ∧ ∀ (s : State) (n : Nat), (sparesTooMany n = true ↔ 32 < n)
    ∧ (s.sparesRefused n = true ↔ 32 < n ∨ (n ≠ s.spareCount ∧ (s.map.remap ≠ [] ∨ s.engine.item = .eraseJob)))

/-- The words of a control record that the bridge builds are judged valid at start-up, and give the record back; every shorter
run of them is still being read, so that start-up reads just the record's words (R137, R139, R143, R149). -/
def Obligations.ControlRecordReadsBack : Prop :=
  ∀ r : ControlRecord, r.generation ≤ 0xFFFFFFFE → r.protection.length ≤ 8 → r.remap.length ≤ 64 →
    validateImage sparesTooMany (encodeImage r.image) = .valid r.image → tablesValid r = true →
    judgeCopy (recordWords r) = .valid r ∧ ∀ k, k < (recordWords r).length → judgeCopy ((recordWords r).take k) = .reading

/-- Every step keeps the sector map lawful under the spare count in force: no logical sector has two entries, no spare two,
every target is a spare below S, and none is BAD (R116, R117, R124). It keeps with it the laws of the trial, the modes and
the judgement of copies on which that rests. Under a lawful map no logical sector of the window is held in a control
sector, and no two that are not retired in the same physical sector (R2, R115). -/
def Obligations.TranslationIsInjective : Prop :=
  (∀ s t : State, s.PortLawful → s.WorkLawful → step s = .next t → t.WorkLawful)
  ∧ ∀ (m : SectorMap) (spares x p : Nat), m.Lawful spares → x < 1022 - spares → m.translate x = some p →
    p < 1022 ∧ ∀ x', x' < 1022 - spares → m.translate x' = some p → x' = x
end

