-- ==== Sys2Proof/Laws/State.lean ====
section
/-! SUPPORT. What each update of one component of the state leaves: the component is the one written, and every other
component is as it was. -/

namespace Sys2Proof.Machine

variable (s : State)

/-! ### setHost -/

@[simp] theorem State.setHost_pending (x : HostPort) : (s.setHost x).pending = s.pending := rfl
@[simp] theorem State.setHost_inReset (x : HostPort) : (s.setHost x).inReset = s.inReset := rfl
@[simp] theorem State.setHost_straps (x : HostPort) : (s.setHost x).straps = s.straps := rfl
@[simp] theorem State.setHost_time (x : HostPort) : (s.setHost x).time = s.time := rfl
@[simp] theorem State.setHost_host (x : HostPort) : (s.setHost x).host = x := rfl
@[simp] theorem State.setHost_image (x : HostPort) : (s.setHost x).image = s.image := rfl
@[simp] theorem State.setHost_queues (x : HostPort) : (s.setHost x).queues = s.queues := rfl
@[simp] theorem State.setHost_stall (x : HostPort) : (s.setHost x).stall = s.stall := rfl
@[simp] theorem State.setHost_reader (x : HostPort) : (s.setHost x).reader = s.reader := rfl
@[simp] theorem State.setHost_engine (x : HostPort) : (s.setHost x).engine = s.engine := rfl
@[simp] theorem State.setHost_port (x : HostPort) : (s.setHost x).port = s.port := rfl
@[simp] theorem State.setHost_map (x : HostPort) : (s.setHost x).map = s.map := rfl
@[simp] theorem State.setHost_cru (x : HostPort) : (s.setHost x).cru = s.cru := rfl
@[simp] theorem State.setHost_startup (x : HostPort) : (s.setHost x).startup = s.startup := rfl
@[simp] theorem State.setHost_setup (x : HostPort) : (s.setHost x).setup = s.setup := rfl
@[simp] theorem State.setHost_log (x : HostPort) : (s.setHost x).log = s.log := rfl
@[simp] theorem State.setHost_stream (x : HostPort) : (s.setHost x).stream = s.stream := rfl
@[simp] theorem State.setHost_mc (x : HostPort) : (s.setHost x).mc = s.mc := rfl
@[simp] theorem State.setHost_flash (x : HostPort) : (s.setHost x).flash = s.flash := rfl
@[simp] theorem State.setHost_setHost (x y : HostPort) : (s.setHost x).setHost y = s.setHost y := rfl
@[simp] theorem State.setHost_self : s.setHost s.host = s := rfl

/-! ### setImage -/

@[simp] theorem State.setImage_pending (x : Option SetupImage) : (s.setImage x).pending = s.pending := rfl
@[simp] theorem State.setImage_inReset (x : Option SetupImage) : (s.setImage x).inReset = s.inReset := rfl
@[simp] theorem State.setImage_straps (x : Option SetupImage) : (s.setImage x).straps = s.straps := rfl
@[simp] theorem State.setImage_time (x : Option SetupImage) : (s.setImage x).time = s.time := rfl
@[simp] theorem State.setImage_host (x : Option SetupImage) : (s.setImage x).host = s.host := rfl
@[simp] theorem State.setImage_image (x : Option SetupImage) : (s.setImage x).image = x := rfl
@[simp] theorem State.setImage_queues (x : Option SetupImage) : (s.setImage x).queues = s.queues := rfl
@[simp] theorem State.setImage_stall (x : Option SetupImage) : (s.setImage x).stall = s.stall := rfl
@[simp] theorem State.setImage_reader (x : Option SetupImage) : (s.setImage x).reader = s.reader := rfl
@[simp] theorem State.setImage_engine (x : Option SetupImage) : (s.setImage x).engine = s.engine := rfl
@[simp] theorem State.setImage_port (x : Option SetupImage) : (s.setImage x).port = s.port := rfl
@[simp] theorem State.setImage_map (x : Option SetupImage) : (s.setImage x).map = s.map := rfl
@[simp] theorem State.setImage_cru (x : Option SetupImage) : (s.setImage x).cru = s.cru := rfl
@[simp] theorem State.setImage_startup (x : Option SetupImage) : (s.setImage x).startup = s.startup := rfl
@[simp] theorem State.setImage_setup (x : Option SetupImage) : (s.setImage x).setup = s.setup := rfl
@[simp] theorem State.setImage_log (x : Option SetupImage) : (s.setImage x).log = s.log := rfl
@[simp] theorem State.setImage_stream (x : Option SetupImage) : (s.setImage x).stream = s.stream := rfl
@[simp] theorem State.setImage_mc (x : Option SetupImage) : (s.setImage x).mc = s.mc := rfl
@[simp] theorem State.setImage_flash (x : Option SetupImage) : (s.setImage x).flash = s.flash := rfl
@[simp] theorem State.setImage_setImage (x y : Option SetupImage) : (s.setImage x).setImage y = s.setImage y := rfl
@[simp] theorem State.setImage_self : s.setImage s.image = s := rfl

/-! ### setQueues -/

@[simp] theorem State.setQueues_pending (x : List RegionQueue) : (s.setQueues x).pending = s.pending := rfl
@[simp] theorem State.setQueues_inReset (x : List RegionQueue) : (s.setQueues x).inReset = s.inReset := rfl
@[simp] theorem State.setQueues_straps (x : List RegionQueue) : (s.setQueues x).straps = s.straps := rfl
@[simp] theorem State.setQueues_time (x : List RegionQueue) : (s.setQueues x).time = s.time := rfl
@[simp] theorem State.setQueues_host (x : List RegionQueue) : (s.setQueues x).host = s.host := rfl
@[simp] theorem State.setQueues_image (x : List RegionQueue) : (s.setQueues x).image = s.image := rfl
@[simp] theorem State.setQueues_queues (x : List RegionQueue) : (s.setQueues x).queues = x := rfl
@[simp] theorem State.setQueues_stall (x : List RegionQueue) : (s.setQueues x).stall = s.stall := rfl
@[simp] theorem State.setQueues_reader (x : List RegionQueue) : (s.setQueues x).reader = s.reader := rfl
@[simp] theorem State.setQueues_engine (x : List RegionQueue) : (s.setQueues x).engine = s.engine := rfl
@[simp] theorem State.setQueues_port (x : List RegionQueue) : (s.setQueues x).port = s.port := rfl
@[simp] theorem State.setQueues_map (x : List RegionQueue) : (s.setQueues x).map = s.map := rfl
@[simp] theorem State.setQueues_cru (x : List RegionQueue) : (s.setQueues x).cru = s.cru := rfl
@[simp] theorem State.setQueues_startup (x : List RegionQueue) : (s.setQueues x).startup = s.startup := rfl
@[simp] theorem State.setQueues_setup (x : List RegionQueue) : (s.setQueues x).setup = s.setup := rfl
@[simp] theorem State.setQueues_log (x : List RegionQueue) : (s.setQueues x).log = s.log := rfl
@[simp] theorem State.setQueues_stream (x : List RegionQueue) : (s.setQueues x).stream = s.stream := rfl
@[simp] theorem State.setQueues_mc (x : List RegionQueue) : (s.setQueues x).mc = s.mc := rfl
@[simp] theorem State.setQueues_flash (x : List RegionQueue) : (s.setQueues x).flash = s.flash := rfl
@[simp] theorem State.setQueues_setQueues (x y : List RegionQueue) : (s.setQueues x).setQueues y = s.setQueues y := rfl
@[simp] theorem State.setQueues_self : s.setQueues s.queues = s := rfl

/-! ### setStall -/

@[simp] theorem State.setStall_pending (x : Option StalledWrite) : (s.setStall x).pending = s.pending := rfl
@[simp] theorem State.setStall_inReset (x : Option StalledWrite) : (s.setStall x).inReset = s.inReset := rfl
@[simp] theorem State.setStall_straps (x : Option StalledWrite) : (s.setStall x).straps = s.straps := rfl
@[simp] theorem State.setStall_time (x : Option StalledWrite) : (s.setStall x).time = s.time := rfl
@[simp] theorem State.setStall_host (x : Option StalledWrite) : (s.setStall x).host = s.host := rfl
@[simp] theorem State.setStall_image (x : Option StalledWrite) : (s.setStall x).image = s.image := rfl
@[simp] theorem State.setStall_queues (x : Option StalledWrite) : (s.setStall x).queues = s.queues := rfl
@[simp] theorem State.setStall_stall (x : Option StalledWrite) : (s.setStall x).stall = x := rfl
@[simp] theorem State.setStall_reader (x : Option StalledWrite) : (s.setStall x).reader = s.reader := rfl
@[simp] theorem State.setStall_engine (x : Option StalledWrite) : (s.setStall x).engine = s.engine := rfl
@[simp] theorem State.setStall_port (x : Option StalledWrite) : (s.setStall x).port = s.port := rfl
@[simp] theorem State.setStall_map (x : Option StalledWrite) : (s.setStall x).map = s.map := rfl
@[simp] theorem State.setStall_cru (x : Option StalledWrite) : (s.setStall x).cru = s.cru := rfl
@[simp] theorem State.setStall_startup (x : Option StalledWrite) : (s.setStall x).startup = s.startup := rfl
@[simp] theorem State.setStall_setup (x : Option StalledWrite) : (s.setStall x).setup = s.setup := rfl
@[simp] theorem State.setStall_log (x : Option StalledWrite) : (s.setStall x).log = s.log := rfl
@[simp] theorem State.setStall_stream (x : Option StalledWrite) : (s.setStall x).stream = s.stream := rfl
@[simp] theorem State.setStall_mc (x : Option StalledWrite) : (s.setStall x).mc = s.mc := rfl
@[simp] theorem State.setStall_flash (x : Option StalledWrite) : (s.setStall x).flash = s.flash := rfl
@[simp] theorem State.setStall_setStall (x y : Option StalledWrite) : (s.setStall x).setStall y = s.setStall y := rfl
@[simp] theorem State.setStall_self : s.setStall s.stall = s := rfl

/-! ### setReader -/

@[simp] theorem State.setReader_pending (x : Reader) : (s.setReader x).pending = s.pending := rfl
@[simp] theorem State.setReader_inReset (x : Reader) : (s.setReader x).inReset = s.inReset := rfl
@[simp] theorem State.setReader_straps (x : Reader) : (s.setReader x).straps = s.straps := rfl
@[simp] theorem State.setReader_time (x : Reader) : (s.setReader x).time = s.time := rfl
@[simp] theorem State.setReader_host (x : Reader) : (s.setReader x).host = s.host := rfl
@[simp] theorem State.setReader_image (x : Reader) : (s.setReader x).image = s.image := rfl
@[simp] theorem State.setReader_queues (x : Reader) : (s.setReader x).queues = s.queues := rfl
@[simp] theorem State.setReader_stall (x : Reader) : (s.setReader x).stall = s.stall := rfl
@[simp] theorem State.setReader_reader (x : Reader) : (s.setReader x).reader = x := rfl
@[simp] theorem State.setReader_engine (x : Reader) : (s.setReader x).engine = s.engine := rfl
@[simp] theorem State.setReader_port (x : Reader) : (s.setReader x).port = s.port := rfl
@[simp] theorem State.setReader_map (x : Reader) : (s.setReader x).map = s.map := rfl
@[simp] theorem State.setReader_cru (x : Reader) : (s.setReader x).cru = s.cru := rfl
@[simp] theorem State.setReader_startup (x : Reader) : (s.setReader x).startup = s.startup := rfl
@[simp] theorem State.setReader_setup (x : Reader) : (s.setReader x).setup = s.setup := rfl
@[simp] theorem State.setReader_log (x : Reader) : (s.setReader x).log = s.log := rfl
@[simp] theorem State.setReader_stream (x : Reader) : (s.setReader x).stream = s.stream := rfl
@[simp] theorem State.setReader_mc (x : Reader) : (s.setReader x).mc = s.mc := rfl
@[simp] theorem State.setReader_flash (x : Reader) : (s.setReader x).flash = s.flash := rfl
@[simp] theorem State.setReader_setReader (x y : Reader) : (s.setReader x).setReader y = s.setReader y := rfl
@[simp] theorem State.setReader_self : s.setReader s.reader = s := rfl

/-! ### setEngine -/

@[simp] theorem State.setEngine_pending (x : Engine) : (s.setEngine x).pending = s.pending := rfl
@[simp] theorem State.setEngine_inReset (x : Engine) : (s.setEngine x).inReset = s.inReset := rfl
@[simp] theorem State.setEngine_straps (x : Engine) : (s.setEngine x).straps = s.straps := rfl
@[simp] theorem State.setEngine_time (x : Engine) : (s.setEngine x).time = s.time := rfl
@[simp] theorem State.setEngine_host (x : Engine) : (s.setEngine x).host = s.host := rfl
@[simp] theorem State.setEngine_image (x : Engine) : (s.setEngine x).image = s.image := rfl
@[simp] theorem State.setEngine_queues (x : Engine) : (s.setEngine x).queues = s.queues := rfl
@[simp] theorem State.setEngine_stall (x : Engine) : (s.setEngine x).stall = s.stall := rfl
@[simp] theorem State.setEngine_reader (x : Engine) : (s.setEngine x).reader = s.reader := rfl
@[simp] theorem State.setEngine_engine (x : Engine) : (s.setEngine x).engine = x := rfl
@[simp] theorem State.setEngine_port (x : Engine) : (s.setEngine x).port = s.port := rfl
@[simp] theorem State.setEngine_map (x : Engine) : (s.setEngine x).map = s.map := rfl
@[simp] theorem State.setEngine_cru (x : Engine) : (s.setEngine x).cru = s.cru := rfl
@[simp] theorem State.setEngine_startup (x : Engine) : (s.setEngine x).startup = s.startup := rfl
@[simp] theorem State.setEngine_setup (x : Engine) : (s.setEngine x).setup = s.setup := rfl
@[simp] theorem State.setEngine_log (x : Engine) : (s.setEngine x).log = s.log := rfl
@[simp] theorem State.setEngine_stream (x : Engine) : (s.setEngine x).stream = s.stream := rfl
@[simp] theorem State.setEngine_mc (x : Engine) : (s.setEngine x).mc = s.mc := rfl
@[simp] theorem State.setEngine_flash (x : Engine) : (s.setEngine x).flash = s.flash := rfl
@[simp] theorem State.setEngine_setEngine (x y : Engine) : (s.setEngine x).setEngine y = s.setEngine y := rfl
@[simp] theorem State.setEngine_self : s.setEngine s.engine = s := rfl

/-! ### setPort -/

@[simp] theorem State.setPort_pending (x : ArrayPort) : (s.setPort x).pending = s.pending := rfl
@[simp] theorem State.setPort_inReset (x : ArrayPort) : (s.setPort x).inReset = s.inReset := rfl
@[simp] theorem State.setPort_straps (x : ArrayPort) : (s.setPort x).straps = s.straps := rfl
@[simp] theorem State.setPort_time (x : ArrayPort) : (s.setPort x).time = s.time := rfl
@[simp] theorem State.setPort_host (x : ArrayPort) : (s.setPort x).host = s.host := rfl
@[simp] theorem State.setPort_image (x : ArrayPort) : (s.setPort x).image = s.image := rfl
@[simp] theorem State.setPort_queues (x : ArrayPort) : (s.setPort x).queues = s.queues := rfl
@[simp] theorem State.setPort_stall (x : ArrayPort) : (s.setPort x).stall = s.stall := rfl
@[simp] theorem State.setPort_reader (x : ArrayPort) : (s.setPort x).reader = s.reader := rfl
@[simp] theorem State.setPort_engine (x : ArrayPort) : (s.setPort x).engine = s.engine := rfl
@[simp] theorem State.setPort_port (x : ArrayPort) : (s.setPort x).port = x := rfl
@[simp] theorem State.setPort_map (x : ArrayPort) : (s.setPort x).map = s.map := rfl
@[simp] theorem State.setPort_cru (x : ArrayPort) : (s.setPort x).cru = s.cru := rfl
@[simp] theorem State.setPort_startup (x : ArrayPort) : (s.setPort x).startup = s.startup := rfl
@[simp] theorem State.setPort_setup (x : ArrayPort) : (s.setPort x).setup = s.setup := rfl
@[simp] theorem State.setPort_log (x : ArrayPort) : (s.setPort x).log = s.log := rfl
@[simp] theorem State.setPort_stream (x : ArrayPort) : (s.setPort x).stream = s.stream := rfl
@[simp] theorem State.setPort_mc (x : ArrayPort) : (s.setPort x).mc = s.mc := rfl
@[simp] theorem State.setPort_flash (x : ArrayPort) : (s.setPort x).flash = s.flash := rfl
@[simp] theorem State.setPort_setPort (x y : ArrayPort) : (s.setPort x).setPort y = s.setPort y := rfl
@[simp] theorem State.setPort_self : s.setPort s.port = s := rfl

/-! ### setMap -/

@[simp] theorem State.setMap_pending (x : SectorMap) : (s.setMap x).pending = s.pending := rfl
@[simp] theorem State.setMap_inReset (x : SectorMap) : (s.setMap x).inReset = s.inReset := rfl
@[simp] theorem State.setMap_straps (x : SectorMap) : (s.setMap x).straps = s.straps := rfl
@[simp] theorem State.setMap_time (x : SectorMap) : (s.setMap x).time = s.time := rfl
@[simp] theorem State.setMap_host (x : SectorMap) : (s.setMap x).host = s.host := rfl
@[simp] theorem State.setMap_image (x : SectorMap) : (s.setMap x).image = s.image := rfl
@[simp] theorem State.setMap_queues (x : SectorMap) : (s.setMap x).queues = s.queues := rfl
@[simp] theorem State.setMap_stall (x : SectorMap) : (s.setMap x).stall = s.stall := rfl
@[simp] theorem State.setMap_reader (x : SectorMap) : (s.setMap x).reader = s.reader := rfl
@[simp] theorem State.setMap_engine (x : SectorMap) : (s.setMap x).engine = s.engine := rfl
@[simp] theorem State.setMap_port (x : SectorMap) : (s.setMap x).port = s.port := rfl
@[simp] theorem State.setMap_map (x : SectorMap) : (s.setMap x).map = x := rfl
@[simp] theorem State.setMap_cru (x : SectorMap) : (s.setMap x).cru = s.cru := rfl
@[simp] theorem State.setMap_startup (x : SectorMap) : (s.setMap x).startup = s.startup := rfl
@[simp] theorem State.setMap_setup (x : SectorMap) : (s.setMap x).setup = s.setup := rfl
@[simp] theorem State.setMap_log (x : SectorMap) : (s.setMap x).log = s.log := rfl
@[simp] theorem State.setMap_stream (x : SectorMap) : (s.setMap x).stream = s.stream := rfl
@[simp] theorem State.setMap_mc (x : SectorMap) : (s.setMap x).mc = s.mc := rfl
@[simp] theorem State.setMap_flash (x : SectorMap) : (s.setMap x).flash = s.flash := rfl
@[simp] theorem State.setMap_setMap (x y : SectorMap) : (s.setMap x).setMap y = s.setMap y := rfl
@[simp] theorem State.setMap_self : s.setMap s.map = s := rfl

/-! ### setCru -/

@[simp] theorem State.setCru_pending (x : ControlUnit) : (s.setCru x).pending = s.pending := rfl
@[simp] theorem State.setCru_inReset (x : ControlUnit) : (s.setCru x).inReset = s.inReset := rfl
@[simp] theorem State.setCru_straps (x : ControlUnit) : (s.setCru x).straps = s.straps := rfl
@[simp] theorem State.setCru_time (x : ControlUnit) : (s.setCru x).time = s.time := rfl
@[simp] theorem State.setCru_host (x : ControlUnit) : (s.setCru x).host = s.host := rfl
@[simp] theorem State.setCru_image (x : ControlUnit) : (s.setCru x).image = s.image := rfl
@[simp] theorem State.setCru_queues (x : ControlUnit) : (s.setCru x).queues = s.queues := rfl
@[simp] theorem State.setCru_stall (x : ControlUnit) : (s.setCru x).stall = s.stall := rfl
@[simp] theorem State.setCru_reader (x : ControlUnit) : (s.setCru x).reader = s.reader := rfl
@[simp] theorem State.setCru_engine (x : ControlUnit) : (s.setCru x).engine = s.engine := rfl
@[simp] theorem State.setCru_port (x : ControlUnit) : (s.setCru x).port = s.port := rfl
@[simp] theorem State.setCru_map (x : ControlUnit) : (s.setCru x).map = s.map := rfl
@[simp] theorem State.setCru_cru (x : ControlUnit) : (s.setCru x).cru = x := rfl
@[simp] theorem State.setCru_startup (x : ControlUnit) : (s.setCru x).startup = s.startup := rfl
@[simp] theorem State.setCru_setup (x : ControlUnit) : (s.setCru x).setup = s.setup := rfl
@[simp] theorem State.setCru_log (x : ControlUnit) : (s.setCru x).log = s.log := rfl
@[simp] theorem State.setCru_stream (x : ControlUnit) : (s.setCru x).stream = s.stream := rfl
@[simp] theorem State.setCru_mc (x : ControlUnit) : (s.setCru x).mc = s.mc := rfl
@[simp] theorem State.setCru_flash (x : ControlUnit) : (s.setCru x).flash = s.flash := rfl
@[simp] theorem State.setCru_setCru (x y : ControlUnit) : (s.setCru x).setCru y = s.setCru y := rfl
@[simp] theorem State.setCru_self : s.setCru s.cru = s := rfl

/-! ### setStartup -/

@[simp] theorem State.setStartup_pending (x : Option StartUp) : (s.setStartup x).pending = s.pending := rfl
@[simp] theorem State.setStartup_inReset (x : Option StartUp) : (s.setStartup x).inReset = s.inReset := rfl
@[simp] theorem State.setStartup_straps (x : Option StartUp) : (s.setStartup x).straps = s.straps := rfl
@[simp] theorem State.setStartup_time (x : Option StartUp) : (s.setStartup x).time = s.time := rfl
@[simp] theorem State.setStartup_host (x : Option StartUp) : (s.setStartup x).host = s.host := rfl
@[simp] theorem State.setStartup_image (x : Option StartUp) : (s.setStartup x).image = s.image := rfl
@[simp] theorem State.setStartup_queues (x : Option StartUp) : (s.setStartup x).queues = s.queues := rfl
@[simp] theorem State.setStartup_stall (x : Option StartUp) : (s.setStartup x).stall = s.stall := rfl
@[simp] theorem State.setStartup_reader (x : Option StartUp) : (s.setStartup x).reader = s.reader := rfl
@[simp] theorem State.setStartup_engine (x : Option StartUp) : (s.setStartup x).engine = s.engine := rfl
@[simp] theorem State.setStartup_port (x : Option StartUp) : (s.setStartup x).port = s.port := rfl
@[simp] theorem State.setStartup_map (x : Option StartUp) : (s.setStartup x).map = s.map := rfl
@[simp] theorem State.setStartup_cru (x : Option StartUp) : (s.setStartup x).cru = s.cru := rfl
@[simp] theorem State.setStartup_startup (x : Option StartUp) : (s.setStartup x).startup = x := rfl
@[simp] theorem State.setStartup_setup (x : Option StartUp) : (s.setStartup x).setup = s.setup := rfl
@[simp] theorem State.setStartup_log (x : Option StartUp) : (s.setStartup x).log = s.log := rfl
@[simp] theorem State.setStartup_stream (x : Option StartUp) : (s.setStartup x).stream = s.stream := rfl
@[simp] theorem State.setStartup_mc (x : Option StartUp) : (s.setStartup x).mc = s.mc := rfl
@[simp] theorem State.setStartup_flash (x : Option StartUp) : (s.setStartup x).flash = s.flash := rfl
@[simp] theorem State.setStartup_setStartup (x y : Option StartUp) : (s.setStartup x).setStartup y = s.setStartup y := rfl
@[simp] theorem State.setStartup_self : s.setStartup s.startup = s := rfl

/-! ### setSetup -/

@[simp] theorem State.setSetup_pending (x : SetupPort) : (s.setSetup x).pending = s.pending := rfl
@[simp] theorem State.setSetup_inReset (x : SetupPort) : (s.setSetup x).inReset = s.inReset := rfl
@[simp] theorem State.setSetup_straps (x : SetupPort) : (s.setSetup x).straps = s.straps := rfl
@[simp] theorem State.setSetup_time (x : SetupPort) : (s.setSetup x).time = s.time := rfl
@[simp] theorem State.setSetup_host (x : SetupPort) : (s.setSetup x).host = s.host := rfl
@[simp] theorem State.setSetup_image (x : SetupPort) : (s.setSetup x).image = s.image := rfl
@[simp] theorem State.setSetup_queues (x : SetupPort) : (s.setSetup x).queues = s.queues := rfl
@[simp] theorem State.setSetup_stall (x : SetupPort) : (s.setSetup x).stall = s.stall := rfl
@[simp] theorem State.setSetup_reader (x : SetupPort) : (s.setSetup x).reader = s.reader := rfl
@[simp] theorem State.setSetup_engine (x : SetupPort) : (s.setSetup x).engine = s.engine := rfl
@[simp] theorem State.setSetup_port (x : SetupPort) : (s.setSetup x).port = s.port := rfl
@[simp] theorem State.setSetup_map (x : SetupPort) : (s.setSetup x).map = s.map := rfl
@[simp] theorem State.setSetup_cru (x : SetupPort) : (s.setSetup x).cru = s.cru := rfl
@[simp] theorem State.setSetup_startup (x : SetupPort) : (s.setSetup x).startup = s.startup := rfl
@[simp] theorem State.setSetup_setup (x : SetupPort) : (s.setSetup x).setup = x := rfl
@[simp] theorem State.setSetup_log (x : SetupPort) : (s.setSetup x).log = s.log := rfl
@[simp] theorem State.setSetup_stream (x : SetupPort) : (s.setSetup x).stream = s.stream := rfl
@[simp] theorem State.setSetup_mc (x : SetupPort) : (s.setSetup x).mc = s.mc := rfl
@[simp] theorem State.setSetup_flash (x : SetupPort) : (s.setSetup x).flash = s.flash := rfl
@[simp] theorem State.setSetup_setSetup (x y : SetupPort) : (s.setSetup x).setSetup y = s.setSetup y := rfl
@[simp] theorem State.setSetup_self : s.setSetup s.setup = s := rfl

/-! ### setLog -/

@[simp] theorem State.setLog_pending (x : FaultLog) : (s.setLog x).pending = s.pending := rfl
@[simp] theorem State.setLog_inReset (x : FaultLog) : (s.setLog x).inReset = s.inReset := rfl
@[simp] theorem State.setLog_straps (x : FaultLog) : (s.setLog x).straps = s.straps := rfl
@[simp] theorem State.setLog_time (x : FaultLog) : (s.setLog x).time = s.time := rfl
@[simp] theorem State.setLog_host (x : FaultLog) : (s.setLog x).host = s.host := rfl
@[simp] theorem State.setLog_image (x : FaultLog) : (s.setLog x).image = s.image := rfl
@[simp] theorem State.setLog_queues (x : FaultLog) : (s.setLog x).queues = s.queues := rfl
@[simp] theorem State.setLog_stall (x : FaultLog) : (s.setLog x).stall = s.stall := rfl
@[simp] theorem State.setLog_reader (x : FaultLog) : (s.setLog x).reader = s.reader := rfl
@[simp] theorem State.setLog_engine (x : FaultLog) : (s.setLog x).engine = s.engine := rfl
@[simp] theorem State.setLog_port (x : FaultLog) : (s.setLog x).port = s.port := rfl
@[simp] theorem State.setLog_map (x : FaultLog) : (s.setLog x).map = s.map := rfl
@[simp] theorem State.setLog_cru (x : FaultLog) : (s.setLog x).cru = s.cru := rfl
@[simp] theorem State.setLog_startup (x : FaultLog) : (s.setLog x).startup = s.startup := rfl
@[simp] theorem State.setLog_setup (x : FaultLog) : (s.setLog x).setup = s.setup := rfl
@[simp] theorem State.setLog_log (x : FaultLog) : (s.setLog x).log = x := rfl
@[simp] theorem State.setLog_stream (x : FaultLog) : (s.setLog x).stream = s.stream := rfl
@[simp] theorem State.setLog_mc (x : FaultLog) : (s.setLog x).mc = s.mc := rfl
@[simp] theorem State.setLog_flash (x : FaultLog) : (s.setLog x).flash = s.flash := rfl
@[simp] theorem State.setLog_setLog (x y : FaultLog) : (s.setLog x).setLog y = s.setLog y := rfl
@[simp] theorem State.setLog_self : s.setLog s.log = s := rfl

/-! ### setStream -/

@[simp] theorem State.setStream_pending (x : StatusStream) : (s.setStream x).pending = s.pending := rfl
@[simp] theorem State.setStream_inReset (x : StatusStream) : (s.setStream x).inReset = s.inReset := rfl
@[simp] theorem State.setStream_straps (x : StatusStream) : (s.setStream x).straps = s.straps := rfl
@[simp] theorem State.setStream_time (x : StatusStream) : (s.setStream x).time = s.time := rfl
@[simp] theorem State.setStream_host (x : StatusStream) : (s.setStream x).host = s.host := rfl
@[simp] theorem State.setStream_image (x : StatusStream) : (s.setStream x).image = s.image := rfl
@[simp] theorem State.setStream_queues (x : StatusStream) : (s.setStream x).queues = s.queues := rfl
@[simp] theorem State.setStream_stall (x : StatusStream) : (s.setStream x).stall = s.stall := rfl
@[simp] theorem State.setStream_reader (x : StatusStream) : (s.setStream x).reader = s.reader := rfl
@[simp] theorem State.setStream_engine (x : StatusStream) : (s.setStream x).engine = s.engine := rfl
@[simp] theorem State.setStream_port (x : StatusStream) : (s.setStream x).port = s.port := rfl
@[simp] theorem State.setStream_map (x : StatusStream) : (s.setStream x).map = s.map := rfl
@[simp] theorem State.setStream_cru (x : StatusStream) : (s.setStream x).cru = s.cru := rfl
@[simp] theorem State.setStream_startup (x : StatusStream) : (s.setStream x).startup = s.startup := rfl
@[simp] theorem State.setStream_setup (x : StatusStream) : (s.setStream x).setup = s.setup := rfl
@[simp] theorem State.setStream_log (x : StatusStream) : (s.setStream x).log = s.log := rfl
@[simp] theorem State.setStream_stream (x : StatusStream) : (s.setStream x).stream = x := rfl
@[simp] theorem State.setStream_mc (x : StatusStream) : (s.setStream x).mc = s.mc := rfl
@[simp] theorem State.setStream_flash (x : StatusStream) : (s.setStream x).flash = s.flash := rfl
@[simp] theorem State.setStream_setStream (x y : StatusStream) : (s.setStream x).setStream y = s.setStream y := rfl
@[simp] theorem State.setStream_self : s.setStream s.stream = s := rfl

/-! ### setMc -/

@[simp] theorem State.setMc_pending (x : ModeControl) : (s.setMc x).pending = s.pending := rfl
@[simp] theorem State.setMc_inReset (x : ModeControl) : (s.setMc x).inReset = s.inReset := rfl
@[simp] theorem State.setMc_straps (x : ModeControl) : (s.setMc x).straps = s.straps := rfl
@[simp] theorem State.setMc_time (x : ModeControl) : (s.setMc x).time = s.time := rfl
@[simp] theorem State.setMc_host (x : ModeControl) : (s.setMc x).host = s.host := rfl
@[simp] theorem State.setMc_image (x : ModeControl) : (s.setMc x).image = s.image := rfl
@[simp] theorem State.setMc_queues (x : ModeControl) : (s.setMc x).queues = s.queues := rfl
@[simp] theorem State.setMc_stall (x : ModeControl) : (s.setMc x).stall = s.stall := rfl
@[simp] theorem State.setMc_reader (x : ModeControl) : (s.setMc x).reader = s.reader := rfl
@[simp] theorem State.setMc_engine (x : ModeControl) : (s.setMc x).engine = s.engine := rfl
@[simp] theorem State.setMc_port (x : ModeControl) : (s.setMc x).port = s.port := rfl
@[simp] theorem State.setMc_map (x : ModeControl) : (s.setMc x).map = s.map := rfl
@[simp] theorem State.setMc_cru (x : ModeControl) : (s.setMc x).cru = s.cru := rfl
@[simp] theorem State.setMc_startup (x : ModeControl) : (s.setMc x).startup = s.startup := rfl
@[simp] theorem State.setMc_setup (x : ModeControl) : (s.setMc x).setup = s.setup := rfl
@[simp] theorem State.setMc_log (x : ModeControl) : (s.setMc x).log = s.log := rfl
@[simp] theorem State.setMc_stream (x : ModeControl) : (s.setMc x).stream = s.stream := rfl
@[simp] theorem State.setMc_mc (x : ModeControl) : (s.setMc x).mc = x := rfl
@[simp] theorem State.setMc_flash (x : ModeControl) : (s.setMc x).flash = s.flash := rfl
@[simp] theorem State.setMc_setMc (x y : ModeControl) : (s.setMc x).setMc y = s.setMc y := rfl
@[simp] theorem State.setMc_self : s.setMc s.mc = s := rfl

/-! ### setFlash -/

@[simp] theorem State.setFlash_pending (x : FlashBank) : (s.setFlash x).pending = s.pending := rfl
@[simp] theorem State.setFlash_inReset (x : FlashBank) : (s.setFlash x).inReset = s.inReset := rfl
@[simp] theorem State.setFlash_straps (x : FlashBank) : (s.setFlash x).straps = s.straps := rfl
@[simp] theorem State.setFlash_time (x : FlashBank) : (s.setFlash x).time = s.time := rfl
@[simp] theorem State.setFlash_host (x : FlashBank) : (s.setFlash x).host = s.host := rfl
@[simp] theorem State.setFlash_image (x : FlashBank) : (s.setFlash x).image = s.image := rfl
@[simp] theorem State.setFlash_queues (x : FlashBank) : (s.setFlash x).queues = s.queues := rfl
@[simp] theorem State.setFlash_stall (x : FlashBank) : (s.setFlash x).stall = s.stall := rfl
@[simp] theorem State.setFlash_reader (x : FlashBank) : (s.setFlash x).reader = s.reader := rfl
@[simp] theorem State.setFlash_engine (x : FlashBank) : (s.setFlash x).engine = s.engine := rfl
@[simp] theorem State.setFlash_port (x : FlashBank) : (s.setFlash x).port = s.port := rfl
@[simp] theorem State.setFlash_map (x : FlashBank) : (s.setFlash x).map = s.map := rfl
@[simp] theorem State.setFlash_cru (x : FlashBank) : (s.setFlash x).cru = s.cru := rfl
@[simp] theorem State.setFlash_startup (x : FlashBank) : (s.setFlash x).startup = s.startup := rfl
@[simp] theorem State.setFlash_setup (x : FlashBank) : (s.setFlash x).setup = s.setup := rfl
@[simp] theorem State.setFlash_log (x : FlashBank) : (s.setFlash x).log = s.log := rfl
@[simp] theorem State.setFlash_stream (x : FlashBank) : (s.setFlash x).stream = s.stream := rfl
@[simp] theorem State.setFlash_mc (x : FlashBank) : (s.setFlash x).mc = s.mc := rfl
@[simp] theorem State.setFlash_flash (x : FlashBank) : (s.setFlash x).flash = x := rfl
@[simp] theorem State.setFlash_setFlash (x y : FlashBank) : (s.setFlash x).setFlash y = s.setFlash y := rfl
@[simp] theorem State.setFlash_self : s.setFlash s.flash = s := rfl

/-! ### setTime -/

@[simp] theorem State.setTime_pending (x : Nat) : (s.setTime x).pending = s.pending := rfl
@[simp] theorem State.setTime_inReset (x : Nat) : (s.setTime x).inReset = s.inReset := rfl
@[simp] theorem State.setTime_straps (x : Nat) : (s.setTime x).straps = s.straps := rfl
@[simp] theorem State.setTime_time (x : Nat) : (s.setTime x).time = x := rfl
@[simp] theorem State.setTime_host (x : Nat) : (s.setTime x).host = s.host := rfl
@[simp] theorem State.setTime_image (x : Nat) : (s.setTime x).image = s.image := rfl
@[simp] theorem State.setTime_queues (x : Nat) : (s.setTime x).queues = s.queues := rfl
@[simp] theorem State.setTime_stall (x : Nat) : (s.setTime x).stall = s.stall := rfl
@[simp] theorem State.setTime_reader (x : Nat) : (s.setTime x).reader = s.reader := rfl
@[simp] theorem State.setTime_engine (x : Nat) : (s.setTime x).engine = s.engine := rfl
@[simp] theorem State.setTime_port (x : Nat) : (s.setTime x).port = s.port := rfl
@[simp] theorem State.setTime_map (x : Nat) : (s.setTime x).map = s.map := rfl
@[simp] theorem State.setTime_cru (x : Nat) : (s.setTime x).cru = s.cru := rfl
@[simp] theorem State.setTime_startup (x : Nat) : (s.setTime x).startup = s.startup := rfl
@[simp] theorem State.setTime_setup (x : Nat) : (s.setTime x).setup = s.setup := rfl
@[simp] theorem State.setTime_log (x : Nat) : (s.setTime x).log = s.log := rfl
@[simp] theorem State.setTime_stream (x : Nat) : (s.setTime x).stream = s.stream := rfl
@[simp] theorem State.setTime_mc (x : Nat) : (s.setTime x).mc = s.mc := rfl
@[simp] theorem State.setTime_flash (x : Nat) : (s.setTime x).flash = s.flash := rfl
@[simp] theorem State.setTime_setTime (x y : Nat) : (s.setTime x).setTime y = s.setTime y := rfl
@[simp] theorem State.setTime_self : s.setTime s.time = s := rfl

/-! ### setPending -/

@[simp] theorem State.setPending_pending (x : List Instr) : (s.setPending x).pending = x := rfl
@[simp] theorem State.setPending_inReset (x : List Instr) : (s.setPending x).inReset = s.inReset := rfl
@[simp] theorem State.setPending_straps (x : List Instr) : (s.setPending x).straps = s.straps := rfl
@[simp] theorem State.setPending_time (x : List Instr) : (s.setPending x).time = s.time := rfl
@[simp] theorem State.setPending_host (x : List Instr) : (s.setPending x).host = s.host := rfl
@[simp] theorem State.setPending_image (x : List Instr) : (s.setPending x).image = s.image := rfl
@[simp] theorem State.setPending_queues (x : List Instr) : (s.setPending x).queues = s.queues := rfl
@[simp] theorem State.setPending_stall (x : List Instr) : (s.setPending x).stall = s.stall := rfl
@[simp] theorem State.setPending_reader (x : List Instr) : (s.setPending x).reader = s.reader := rfl
@[simp] theorem State.setPending_engine (x : List Instr) : (s.setPending x).engine = s.engine := rfl
@[simp] theorem State.setPending_port (x : List Instr) : (s.setPending x).port = s.port := rfl
@[simp] theorem State.setPending_map (x : List Instr) : (s.setPending x).map = s.map := rfl
@[simp] theorem State.setPending_cru (x : List Instr) : (s.setPending x).cru = s.cru := rfl
@[simp] theorem State.setPending_startup (x : List Instr) : (s.setPending x).startup = s.startup := rfl
@[simp] theorem State.setPending_setup (x : List Instr) : (s.setPending x).setup = s.setup := rfl
@[simp] theorem State.setPending_log (x : List Instr) : (s.setPending x).log = s.log := rfl
@[simp] theorem State.setPending_stream (x : List Instr) : (s.setPending x).stream = s.stream := rfl
@[simp] theorem State.setPending_mc (x : List Instr) : (s.setPending x).mc = s.mc := rfl
@[simp] theorem State.setPending_flash (x : List Instr) : (s.setPending x).flash = s.flash := rfl
@[simp] theorem State.setPending_setPending (x y : List Instr) : (s.setPending x).setPending y = s.setPending y := rfl
@[simp] theorem State.setPending_self : s.setPending s.pending = s := rfl

end Sys2Proof.Machine
end

