-- ==== Sys2Proof/Laws/Flash.lean ====
section
/-! SUPPORT. The flash bank's operations: each keeps the canonical form, and what a word reads as after it. -/

namespace Sys2Proof.Machine

/-! ### Lists of words -/

theorem listedWord_insertWord (a b : Nat) (x : FlashWord) (ws : List (Nat × FlashWord)) :
    listedWord (insertWord a x ws) b = if a = b then some x else listedWord ws b := by
  induction ws with
  | nil => simp [insertWord, listedWord]
  | cons y t ih =>
    obtain ⟨c, y⟩ := y
    by_cases hab : a = b
    · subst hab
      rw [if_pos rfl] at ih ⊢
      unfold insertWord
      split_ifs with h1 h2
      · simp [listedWord]
      · simp [listedWord]
      · simp [listedWord, Ne.symm h2, ih]
    · rw [if_neg hab] at ih ⊢
      unfold insertWord
      split_ifs with h1 h2
      · simp [listedWord, hab]
      · subst h2; simp [listedWord, hab]
      · simp [listedWord, ih]

theorem listedWord_removeWord (a b : Nat) (ws : List (Nat × FlashWord)) :
    listedWord (removeWord a ws) b = if a = b then none else listedWord ws b := by
  induction ws with
  | nil => simp [removeWord, listedWord]
  | cons y t ih =>
    obtain ⟨c, y⟩ := y
    unfold removeWord at ih ⊢
    by_cases hc : c = a
    · subst hc
      simp only [List.filter_cons, ne_eq, not_true_eq_false, decide_false, Bool.false_eq_true, if_false, ih, listedWord]
      split_ifs <;> rfl
    · simp only [List.filter_cons, ne_eq, hc, not_false_eq_true, decide_true, if_true, listedWord, ih]
      split_ifs with h1 h2
      · exact absurd (h1.trans h2.symm) hc
      · rfl
      · rfl
      · rfl

theorem mem_insertWord {a : Nat} {x : FlashWord} {ws : List (Nat × FlashWord)} {p : Nat × FlashWord}
    (h : p ∈ insertWord a x ws) : p = (a, x) ∨ p ∈ ws := by
  induction ws with
  | nil => exact .inl (by simpa [insertWord] using h)
  | cons y t ih =>
    obtain ⟨b, y⟩ := y
    unfold insertWord at h
    split_ifs at h with h1 h2
    · rcases List.mem_cons.mp h with h | h
      · exact .inl h
      · exact .inr h
    · rcases List.mem_cons.mp h with h | h
      · exact .inl h
      · exact .inr (List.mem_cons_of_mem _ h)
    · rcases List.mem_cons.mp h with h | h
      · exact .inr (h ▸ List.mem_cons_self)
      · exact (ih h).imp id (List.mem_cons_of_mem _)

theorem insertWord_rising {a : Nat} {x : FlashWord} {ws : List (Nat × FlashWord)}
    (h : (ws.map (·.1)).Pairwise (· < ·)) : ((insertWord a x ws).map (·.1)).Pairwise (· < ·) := by
  induction ws with
  | nil => simp [insertWord]
  | cons y t ih =>
    obtain ⟨b, y⟩ := y
    rw [List.map_cons, List.pairwise_cons] at h
    unfold insertWord
    split_ifs with h1 h2
    · simp only [List.map_cons, List.pairwise_cons]
      refine ⟨fun c hc => ?_, h.1, h.2⟩
      rcases List.mem_cons.mp hc with rfl | hc
      · exact h1
      · exact lt_trans h1 (h.1 c hc)
    · subst h2
      simpa only [List.map_cons, List.pairwise_cons] using h
    · simp only [List.map_cons, List.pairwise_cons]
      refine ⟨fun c hc => ?_, ih h.2⟩
      obtain ⟨p, hp, rfl⟩ := List.mem_map.mp hc
      rcases mem_insertWord hp with rfl | hp
      · show b < a; omega
      · exact h.1 _ (List.mem_map_of_mem hp)

theorem filter_rising {q : Nat × FlashWord → Bool} {ws : List (Nat × FlashWord)}
    (h : (ws.map (·.1)).Pairwise (· < ·)) : ((ws.filter q).map (·.1)).Pairwise (· < ·) :=
  h.sublist (List.filter_sublist.map _)

theorem insertSector_rising {p : Nat} {l : List Nat} (h : l.Pairwise (· < ·)) :
    (insertSector p l).Pairwise (· < ·) ∧ ∀ q, q ∈ insertSector p l ↔ q = p ∨ q ∈ l := by
  induction l with
  | nil => simp [insertSector]
  | cons b t ih =>
    rw [List.pairwise_cons] at h
    obtain ⟨ih1, ih2⟩ := ih h.2
    unfold insertSector
    split_ifs with h1 h2
    · refine ⟨List.pairwise_cons.mpr ⟨fun c hc => ?_, List.pairwise_cons.mpr h⟩, fun q => by simp⟩
      rcases List.mem_cons.mp hc with rfl | hc
      · exact h1
      · exact lt_trans h1 (h.1 c hc)
    · subst h2
      exact ⟨List.pairwise_cons.mpr h, fun q => by simp⟩
    · refine ⟨List.pairwise_cons.mpr ⟨fun c hc => ?_, ih1⟩, fun q => ?_⟩
      · rcases (ih2 c).mp hc with rfl | hc
        · omega
        · exact h.1 c hc
      · simp only [List.mem_cons, ih2]; tauto

/-! ### Words after an operation -/

theorem FlashBank.read_write (m : FlashBank) (a b : Nat) (x : FlashWord) :
    (m.write a x).read b = if a = b then x else m.read b := by
  unfold FlashBank.write FlashBank.read
  split_ifs with hx hab hab
  · subst hab
    rw [hx]
    show (listedWord (removeWord a m.words) a).getD (m.unlisted a) = m.unlisted a
    rw [listedWord_removeWord, if_pos rfl]; rfl
  · show (listedWord (removeWord a m.words) b).getD (m.unlisted b) = _
    rw [listedWord_removeWord, if_neg hab]
  · subst hab
    show (listedWord (insertWord a x m.words) a).getD (m.unlisted a) = x
    rw [listedWord_insertWord, if_pos rfl]; rfl
  · show (listedWord (insertWord a x m.words) b).getD (m.unlisted b) = _
    rw [listedWord_insertWord, if_neg hab]

theorem listedWord_outsideSector (p b : Nat) (ws : List (Nat × FlashWord)) :
    listedWord (outsideSector p ws) b = if b / sectorWords = p then none else listedWord ws b := by
  induction ws with
  | nil => simp [outsideSector, listedWord]
  | cons y t ih =>
    obtain ⟨c, y⟩ := y
    unfold outsideSector at ih ⊢
    by_cases hc : c / sectorWords = p
    · simp only [List.filter_cons, ne_eq, hc, not_true_eq_false, decide_false, Bool.false_eq_true, if_false, ih,
        listedWord]
      split_ifs with h1 h2
      · rfl
      · exact absurd (h2 ▸ hc) h1
      · rfl
    · simp only [List.filter_cons, ne_eq, hc, not_false_eq_true, decide_true, if_true, listedWord, ih]
      split_ifs with h1 h2
      · exact absurd (h1 ▸ h2) hc
      · rfl
      · rfl
      · rfl

theorem FlashBank.read_loseSector (m : FlashBank) (p b : Nat) :
    (m.loseSector p).read b = if b / sectorWords = p then .unknown else m.read b := by
  unfold FlashBank.read FlashBank.loseSector FlashBank.unlisted
  simp only [listedWord_outsideSector]
  split_ifs with h1 h2 h3 h3
  · simp [h1] at h2
  · rfl
  · rfl
  · simp_all
  · simp_all
  · rfl

theorem FlashBank.read_eraseSector {m : FlashBank} (h : m.wf) (p b : Nat) :
    (m.eraseSector p).read b = if b / sectorWords = p then .erased else m.read b := by
  have hm := (insertSector_rising (p := p) h.1).2
  unfold FlashBank.read FlashBank.eraseSector FlashBank.unlisted
  simp only [listedWord_outsideSector, List.contains_iff_mem, hm]
  split_ifs with h1 h2 h3 h3 <;> first | rfl | simp_all

/-! ### The canonical form -/

theorem FlashBank.write_wf {m : FlashBank} (h : m.wf) (a : Nat) (x : FlashWord) : (m.write a x).wf := by
  obtain ⟨h1, h2, h3⟩ := h
  unfold FlashBank.write
  split_ifs with hx
  · exact ⟨h1, filter_rising h2, fun p hp => h3 p (List.mem_of_mem_filter hp)⟩
  · refine ⟨h1, insertWord_rising h2, fun p hp => ?_⟩
    rcases mem_insertWord hp with rfl | hp
    · exact hx
    · exact h3 p hp

theorem FlashBank.loseSector_wf {m : FlashBank} (h : m.wf) (p : Nat) : (m.loseSector p).wf := by
  obtain ⟨h1, h2, h3⟩ := h
  refine ⟨h1.filter _, filter_rising h2, fun y hy => ?_⟩
  obtain ⟨hy1, hy2⟩ := List.mem_filter.mp hy
  have hne : y.1 / sectorWords ≠ p := by simpa using hy2
  have : (m.loseSector p).unlisted y.1 = m.unlisted y.1 := by
    unfold FlashBank.unlisted FlashBank.loseSector
    simp [hne]
  rw [this]; exact h3 y hy1

theorem FlashBank.eraseSector_wf {m : FlashBank} (h : m.wf) (p : Nat) : (m.eraseSector p).wf := by
  obtain ⟨h1, h2, h3⟩ := h
  obtain ⟨hr, hm⟩ := insertSector_rising (p := p) h1
  refine ⟨hr, filter_rising h2, fun y hy => ?_⟩
  obtain ⟨hy1, hy2⟩ := List.mem_filter.mp hy
  have hne : y.1 / sectorWords ≠ p := by simpa using hy2
  have : (m.eraseSector p).unlisted y.1 = m.unlisted y.1 := by
    unfold FlashBank.unlisted FlashBank.eraseSector
    simp [hm, hne]
  rw [this]; exact h3 y hy1

/-- The end of an operation keeps the canonical form. -/
theorem FlashBank.ended_wf {m : FlashBank} (h : m.wf) (o : ArrayOp) (pass : Bool) (w : Word) : (m.ended o pass w).wf := by
  unfold FlashBank.ended; split
  · exact m.write_wf h _ _
  · exact m.write_wf h _ _
  · exact m.write_wf h _ _
  · exact m.eraseSector_wf h _
  · exact m.loseSector_wf h _

/-- An abandoned operation keeps the canonical form. -/
theorem FlashBank.abandoned_wf {m : FlashBank} (h : m.wf) (r : Option RunningOp) : (m.abandoned r).wf := by
  unfold FlashBank.abandoned; split
  · split_ifs
    · split
      · exact h
      · exact m.ended_wf h _ _ _
      · exact m.ended_wf h _ _ _
    · exact h
  · exact h

/-- An operation that ends leaves the words outside its word and its sector. -/
theorem FlashBank.read_ended_other {m : FlashBank} (h : m.wf) (o : ArrayOp) (pass : Bool) (w : Word) {a : Nat}
    (h1 : a ≠ o.word) (h2 : a / sectorWords ≠ o.psec) : (m.ended o pass w).read a = m.read a := by
  unfold FlashBank.ended
  split
  · rw [FlashBank.read_write, if_neg (Ne.symm h1)]
  · rw [FlashBank.read_write, if_neg (Ne.symm h1)]
  · rw [FlashBank.read_write, if_neg (Ne.symm h1)]
  · rw [FlashBank.read_eraseSector h, if_neg h2]
  · rw [FlashBank.read_loseSector, if_neg h2]

end Sys2Proof.Machine
end

