-- ==== Sys2Proof/Laws/Closed.lean ====
section
/-! SUPPORT. What a block can do to the state, said once. `Closed P` lists the moves of which the host path, the queues,
the engine and the array port are made, and `Work P` those of the end of an event; a property that every move keeps is
kept by every operation built of them. A frame ("this component is as it was") and an invariant are both such
properties. -/

namespace Sys2Proof.Machine

/-! ### Claims and grants -/

/-- `P` is kept by the moves of the array port's claims and grants. -/
structure Claims (P : State → Prop) : Prop where
  engine  : ∀ s x, P s → P (s.setEngine x)
  reading : ∀ s, P s → P (s.setReader { s.reader with state := .reading })
  port    : ∀ s x, (x.state = .stopped ↔ s.port.state = .stopped) → x.consecutive ≤ s.port.consecutive →
    x.direct.isNone = s.port.direct.isNone → (s.port.Lawful → x.Lawful) → P s → P (s.setPort x)

/-- The host claim goes. -/
theorem ArrayPort.Lawful.hostDropped {p : ArrayPort} {d : Option DirectWrite} (hl : p.Lawful) :
    ArrayPort.Lawful { p with direct := d, hostClaim := none } := ⟨by simp, hl.2⟩

/-- The engine-side claim goes. -/
theorem ArrayPort.Lawful.engDropped {p : ArrayPort} (hl : p.Lawful) : ArrayPort.Lawful { p with engClaim := none } :=
  ⟨hl.1, by simp, hl.2.2⟩

/-- The issue of an attempt leaves the port state. -/
theorem countAttempt_state (o : ArrayOp) (s : State) : (countAttempt o s).port.state = s.port.state := by
  unfold countAttempt; split <;> rfl

namespace Claims

variable {P : State → Prop} (h : Claims P) {s : State} (hs : P s)
include h hs

/-- A move of the port that leaves its state, its timeout count and the direct write. -/
theorem portSame (x : ArrayPort) (h1 : x.state = s.port.state) (h2 : x.consecutive = s.port.consecutive)
    (h3 : x.direct = s.port.direct) (h4 : s.port.Lawful → x.Lawful) : P (s.setPort x) :=
  h.port _ _ (by rw [h1]) (le_of_eq h2) (by rw [h3]) h4 hs

theorem countAttempt (o : ArrayOp) : P (countAttempt o s) := by
  unfold Machine.countAttempt
  split
  · exact h.engine _ _ hs
  · exact h.engine _ _ hs
  · exact h.port _ _ Iff.rfl le_rfl (by simp) id hs
  · exact hs

theorem readIssued (x : RunningOp) : P (readIssued x s) := by
  unfold Machine.readIssued; split_ifs
  · exact h.reading _ hs
  · exact hs

theorem issueOp (o : ArrayOp) (hfree : s.port.state = .free) : P (issueOp o s) := by
  have hf : s.port.state ≠ .stopped := by simp [hfree]
  refine h.readIssued (h.port _ _ ?_ ?_ ?_ ?_ (h.countAttempt hs o)) _
  · simp [countAttempt_state, hf]
  · exact le_rfl
  · rfl
  · exact fun hl => ⟨hl.1, hl.2.1, by simp, fun _ => hl.2.2.2 (by rw [countAttempt_state, hfree]; simp)⟩

theorem grant : P (grant s) := by
  unfold Machine.grant
  split_ifs with hf
  · split
    · exact h.issueOp hs _ hf
    · split
      · exact h.issueOp hs _ hf
      · exact hs
  · exact hs

theorem considerSuspend : P (considerSuspend s) := by
  unfold Machine.considerSuspend
  split_ifs with hc
  · have hr : s.port.state = .running := by
      simp only [State.eraseRunning, Bool.and_eq_true, beq_iff_eq] at hc; exact hc.1.1.1
    refine h.port _ _ (by simp [hr]) le_rfl rfl ?_ hs
    exact fun hl => ⟨hl.1, hl.2.1, by simp, fun _ => hl.2.2.2 (by simp [hr])⟩
  · exact hs

theorem raiseHostClaim (o : ArrayOp) (ho : o.issuer.ofHost = true) : P (raiseHostClaim o s) :=
  h.considerSuspend (h.grant (h.portSame hs { s.port with hostClaim := some o } rfl rfl rfl
    fun hl => ⟨fun _ hx => Option.some.inj hx ▸ ho, hl.2⟩))

theorem raiseEngineClaim (o : ArrayOp) (ho : o.issuer.ofHost = false) : P (raiseEngineClaim o s) :=
  h.portSame hs { s.port with engClaim := some o } rfl rfl rfl
    fun hl => ⟨hl.1, fun _ hx => Option.some.inj hx ▸ ho, hl.2.2⟩

theorem engineRead (o : Nat) : P (engineRead o s) := h.raiseEngineClaim hs _ rfl
theorem engineProgram (o : Nat) (v : Word) : P (engineProgram o v s) := h.raiseEngineClaim (h.engine _ _ hs) _ rfl
theorem engineErase (f : Phase) (p : Nat) : P (engineErase f p s) := h.raiseEngineClaim (h.engine _ _ hs) _ rfl
theorem endCommit : P (endCommit s) := h.engine _ _ hs
theorem endEmptyCommit : P (endEmptyCommit s) := h.engine _ _ hs
theorem enterLoad : P (enterLoad s) := h.engineRead (h.engine _ _ hs) _
theorem startTry : P (startTry s) := h.engineErase (h.engine _ _ hs) _ _

theorem resumeErase (hne : s.port.state ≠ .stopped) : P (resumeErase s) :=
  h.port _ _ (by simp [hne]) le_rfl rfl (fun hl => ⟨hl.1, hl.2.1, by simp, fun _ => rfl⟩) hs

theorem issueInner (hne : s.port.state ≠ .stopped) : P (issueInner s) := by
  unfold Machine.issueInner; split
  · refine h.readIssued (h.port _ _ ?_ ?_ ?_ ?_ (h.countAttempt hs _)) _
    · simp [countAttempt_state, hne]
    · exact le_rfl
    · rfl
    · exact fun hl => ⟨hl.1, hl.2.1, by simp, by simp⟩
  · exact hs

theorem clearConsecutive : P (clearConsecutive s) := h.port _ _ Iff.rfl (Nat.zero_le _) rfl id hs

theorem freePort (hne : s.port.state ≠ .stopped) : P (freePort s) :=
  h.port _ _ (by simp [hne]) le_rfl rfl (fun hl => ⟨hl.1, hl.2.1, fun _ => rfl, fun _ => rfl⟩) hs

theorem endPulse : P (endPulse s) := by
  unfold Machine.endPulse; split_ifs
  · have hp := h.portSame hs { s.port with arst := .inactive, arstTimer := 0 } rfl rfl rfl id
    dsimp only; split
    · rename_i x hx
      split_ifs
      · exact hp
      · refine h.considerSuspend (h.readIssued (h.portSame hp _ ?_ ?_ ?_ ?_) _)
        iterate 3 rfl
        exact fun hl => ⟨hl.1, hl.2.1, fun hf => absurd (hl.2.2.1 hf) (by rw [hx]; simp), hl.2.2.2⟩
    · exact hp
  · exact hs

end Claims

/-! ### The end of an event -/

/-- `P` is kept by the moves that the end of an event is made of: selections, the drain and grants. -/
structure Work (P : State → Prop) : Prop extends Claims P where
  failed  : ∀ p x s, generationLimit ≤ s.cru.generation → P s → P (controlFailure p x s)
  gather  : ∀ r x s, P s → P (gatherEntries r x s)
  map     : ∀ s x, P s → P (s.setMap x)
  cru     : ∀ s x, x.generation = s.cru.generation → P s → P (s.setCru x)
  control : ∀ s x, x.mode = s.mc.mode → P s → P (s.setMc x)
  held    : ∀ s, P s → P (s.setMc { s.mc with mode := .held })
  holds   : ∀ x s, P s → P (releaseHolds x s)

namespace Work

variable {P : State → Prop} (h : Work P) {s : State} (hs : P s)
include h hs

theorem setUpdatePending : P (setUpdatePending s) := h.cru _ { s.cru with updatePending := true } rfl hs
theorem endJob (r : JobResult) : P (endJob r s) := h.holds _ _ (h.engine _ _ hs)
theorem completeClear : P (completeClear s) := h.setUpdatePending (h.held _ (h.map _ _ hs))

theorem endClearStep : P (endClearStep s) := by
  unfold Machine.endClearStep; dsimp only
  have hr := h.holds s.engine.sector _ (h.control (s.setEngine s.engine.toIdle)
    { s.mc with clearIndex := s.engine.sector + 1 } rfl (h.engine s s.engine.toIdle hs))
  split_ifs
  · exact h.completeClear hr
  · exact hr

theorem startCommit (r : Nat) : P (startCommit r s) := by
  unfold Machine.startCommit; dsimp only
  split
  · exact h.endEmptyCommit (h.engine _ _ hs)
  · split_ifs
    · exact h.engineRead (h.engine _ _ (h.gather _ _ _ (h.engine _ _ hs))) _
    · exact h.enterLoad (h.engine _ _ (h.gather _ _ _ (h.engine _ _ hs)))

theorem startJob : P (startJob s) := by
  unfold Machine.startJob; dsimp only; split_ifs
  · exact h.engineErase (h.engine _ _ hs) _ _
  · exact h.endJob hs _

theorem startClearStep : P (startClearStep s) := by
  have hc := h.control s { s.mc with clearIndex := s.nextToClear } rfl hs
  unfold Machine.startClearStep; dsimp only; split_ifs
  · exact h.completeClear hc
  · exact h.engineErase (h.engine _ _ hc) _ _

theorem startUpdate : P (startUpdate s) := by
  have hc := h.cru s { s.cru with updatePending := false } rfl hs
  unfold Machine.startUpdate; dsimp only; split_ifs with hg
  · exact h.failed _ _ _ hg hc
  · exact h.startTry (h.engine _ _ hc)

theorem drain : P (drain s) := by
  unfold Machine.drain; split_ifs
  · exact h.held _ hs
  · exact hs

/-- What a selection starts keeps `P`. -/
theorem selectOnce {t : State} (ht : selectOnce s = some t) : P t := by
  unfold Machine.selectOnce at ht
  split_ifs at ht
  · cases ht; exact h.startUpdate hs
  · cases ht; exact h.startJob hs
  · cases ht; exact h.startClearStep hs
  · obtain ⟨r, -, rfl⟩ := Option.map_eq_some_iff.mp ht
    exact h.startCommit hs r

theorem selectItems (n : Nat) : P (selectItems n s) := by
  induction n generalizing s with
  | zero => exact hs
  | succ n ih =>
    unfold Machine.selectItems; split
    · exact ih (h.selectOnce hs ‹_›)
    · exact hs

theorem settle : P (settle s) := h.grant (h.selectItems (h.drain hs) _)

end Work

/-! ### Host path, queues, engine and array port -/

/-- `P` is kept by every move of the host port, the queue manager, the read assembler, the commit engine, the array port
controller, the sector map, the control record unit, and the fault log's reports. Time, the flash bank, the setup port,
the status stream, the image and the entry into OFFLINE are not among these moves. -/
structure Closed (P : State → Prop) : Prop extends Claims P where
  host     : ∀ s x, P s → P (s.setHost x)
  reader   : ∀ s x, P s → P (s.setReader x)
  direct   : ∀ s x, P s → P (s.setPort { s.port with direct := x })
  stall    : ∀ s x, P s → P (s.setStall x)
  report   : ∀ f s, P s → P (report f s)
  coalesce : ∀ r a m d s, P s → P (coalesce r a m d s)
  append   : ∀ r a m d s, s.count r < s.capacity r → P s → P (appendEntry r a m d s)
  keep     : ∀ r k s, P s → P (keepEntries r k s)
  mark     : ∀ r s, P s → P (markRegion r s)
  gather   : ∀ r x s, P s → P (gatherEntries r x s)
  map      : ∀ s x, P s → P (s.setMap x)
  cru      : ∀ s x, P s → P (s.setCru x)
  control  : ∀ s x, x.mode = s.mc.mode → P s → P (s.setMc x)
  held     : ∀ s, P s → P (s.setMc { s.mc with mode := .held })

namespace Closed

variable {P : State → Prop} (h : Closed P) {s : State} (hs : P s)
include h hs

theorem completeAccess (e : Bool) (d : Option Word) : P (completeAccess e d s) := by
  unfold Machine.completeAccess; split_ifs
  · exact h.host _ _ hs
  · exact h.host _ _ hs
  · exact hs

theorem failRead : P (failRead s) := h.completeAccess hs _ _

theorem claimRead (x : ReadAccess) : P (claimRead x s) := h.raiseHostClaim (h.reader _ _ hs) _ rfl

theorem endRead (e : Bool) (w : Word) : P (endRead e w s) := h.completeAccess (h.reader _ _ hs) _ _

theorem takeRead (x : ReadAccess) : P (takeRead x s) := by
  unfold Machine.takeRead; split_ifs
  · exact h.reader _ _ hs
  · exact h.endRead hs _ _
  · exact h.claimRead hs _

theorem stagedWrite (r : Nat) (a : HostAddr) (m : LaneMask) (d : Word) : P (stagedWrite r a m d s) := by
  unfold Machine.stagedWrite; split_ifs with _ hc
  · exact h.completeAccess (h.coalesce _ _ _ _ _ hs) _ _
  · exact h.completeAccess (h.append _ _ _ _ _ hc hs) _ _
  · exact h.stall _ _ hs

theorem claimDirect (d : DirectWrite) : P (claimDirect d s) :=
  h.raiseHostClaim (h.direct _ _ hs) _ rfl

theorem directWrite (r : Nat) (a : HostAddr) (p : Nat) (m : LaneMask) (d : Word) : P (directWrite r a p m d s) := by
  unfold Machine.directWrite; dsimp only; split_ifs
  · exact h.direct _ _ hs
  · exact h.claimDirect hs _

theorem endDirect (e : Bool) : P (endDirect e s) :=
  h.completeAccess (h.portSame (h.direct s none hs) { s.port with direct := none, hostClaim := none } rfl rfl rfl
    ArrayPort.Lawful.hostDropped) _ _

theorem countRefused : P (countRefused s) := h.control _ _ rfl hs

theorem refuseWrite (x : FaultReason) (r : Option Nat) (a : HostAddr) : P (refuseWrite x r a s) :=
  h.completeAccess (h.report _ _ hs) _ _

theorem refuseSilently (p : HostPins) : P (refuseSilently p s) := by
  unfold Machine.refuseSilently; split_ifs
  · exact h.completeAccess hs _ _
  · exact h.failRead hs

theorem classifyWrite (p : HostPins) (r psec : Nat) : P (classifyWrite p r psec s) := by
  unfold Machine.classifyWrite
  split_ifs
  · exact h.refuseWrite hs _ _ _
  · exact h.refuseWrite hs _ _ _
  · split
    · exact h.completeAccess hs _ _
    · exact h.directWrite hs _ _ _ _ _
  · split
    · exact h.completeAccess hs _ _
    · exact h.stagedWrite hs _ _ _ _

theorem classifyInRegion (p : HostPins) (r : Nat) (g : RegionRec) : P (classifyInRegion p r g s) := by
  unfold Machine.classifyInRegion
  split
  · split_ifs
    · exact h.refuseWrite hs _ _ _
    · exact h.failRead hs
  · split_ifs
    · exact h.classifyWrite hs _ _ _
    · exact h.takeRead hs _

theorem classifyInside (p : HostPins) : P (classifyInside p s) := by
  unfold Machine.classifyInside
  split_ifs
  · exact h.refuseSilently hs _
  · exact h.completeAccess (h.countRefused hs) _ _
  · split
    · exact h.refuseSilently hs _
    · split
      · exact h.refuseSilently hs _
      · exact h.classifyInRegion hs _ _ _

theorem classify (p : HostPins) : P (classify p s) := by
  unfold Machine.classify
  split_ifs
  · exact h.refuseWrite hs _ _ _
  · exact h.failRead hs
  · exact h.classifyInside hs _

theorem arrive (p : HostPins) : P (arrive p s) := by
  unfold Machine.arrive; dsimp only; split_ifs
  · exact h.host _ _ hs
  · exact h.classify (h.host _ _ hs) _

theorem takeReselect : P (takeReselect s) := by
  unfold Machine.takeReselect; split_ifs
  · exact h.arrive hs _
  · exact hs

/-! ### Queue operations -/

theorem stalledMayAppend (r : Nat) : P (stalledMayAppend r s) := by
  unfold Machine.stalledMayAppend
  split
  · split_ifs with hc
    · exact h.completeAccess (h.stall _ _ (h.append _ _ _ _ _ hc.2 hs)) _ _
    · exact hs
  · exact hs

theorem removeEntries (r : Nat) (g : Entry → Bool) : P (removeEntries r g s) := h.stalledMayAppend (h.keep _ _ _ hs) _

theorem releaseOne (r : Nat) (a : HostAddr) : P (releaseOne r a s) := h.removeEntries hs _ _
theorem releaseAll (r : Nat) : P (releaseAll r s) := h.removeEntries hs _ _
theorem purgeRegion (r : Nat) : P (purgeRegion r s) := h.removeEntries hs _ _

theorem markAll : P (markAll s) := by
  unfold Machine.markAll
  generalize List.range s.queues.length = l
  induction l generalizing s with
  | nil => exact hs
  | cons r t ih => exact ih (h.mark r s hs)

/-! ### Commit engine -/

theorem releaseHeldRead (x : Nat) : P (releaseHeldRead x s) := by
  unfold Machine.releaseHeldRead
  split
  · split_ifs
    · split
      · exact h.claimRead hs _
      · exact h.endRead hs _ _
    · exact hs
  · exact hs

theorem releaseHeldWrite (x : Nat) : P (releaseHeldWrite x s) := by
  unfold Machine.releaseHeldWrite
  split
  · split_ifs
    · split
      · exact h.claimDirect hs _
      · exact h.endDirect (h.report _ _ hs) _
    · exact hs
  · exact hs

theorem releaseHolds (x : Nat) : P (releaseHolds x s) := h.releaseHeldWrite (h.releaseHeldRead hs _) _

theorem endUpdateGood : P (endUpdateGood s) := h.engine _ _ (h.cru _ _ hs)
theorem controlFailure (p : Nat) (x : FaultReason) : P (controlFailure p x s) := h.cru _ _ (h.report _ _ hs)
theorem endUpdateBad (x : FaultReason) : P (endUpdateBad x s) := h.engine _ _ (h.controlFailure hs _ _)

omit hs in
/-- The end of an event is made of moves. -/
theorem toWork : Work P :=
  { h.toClaims with
    failed := fun _ _ _ _ hs => h.controlFailure hs _ _, gather := h.gather, map := h.map
    cru := fun s x _ => h.cru s x, control := h.control, held := h.held
    holds := fun x _ hs => h.releaseHolds hs x }

theorem setUpdatePending : P (setUpdatePending s) := h.cru _ _ hs
theorem settle : P (settle s) := h.toWork.settle hs
theorem endRelocated (r : JobResult) : P (endRelocated r s) := by
  unfold Machine.endRelocated
  split
  · exact h.endCommit hs
  · exact h.toWork.endJob hs _
  · exact h.toWork.endClearStep hs
  · exact hs

theorem markSpareBad (i : Nat) : P (markSpareBad i s) := h.setUpdatePending (h.report _ _ (h.map _ _ hs))

theorem markOldSpare (o : Option RemapEntry) : P (markOldSpare o s) := by
  unfold Machine.markOldSpare; split
  · exact h.markSpareBad hs _
  · exact hs

theorem remapTo (i : Nat) : P (remapTo i s) :=
  h.endRelocated (h.setUpdatePending (h.markOldSpare (h.report _ _ (h.map _ _ hs)) _)) _

theorem discardSector (r x : Nat) : P (discardSector r x s) := h.keep _ _ _ hs

theorem stalledAfterRetirement (r x : Nat) : P (stalledAfterRetirement r x s) := by
  unfold Machine.stalledAfterRetirement
  split
  · split_ifs
    · exact h.refuseWrite (h.stall _ _ hs) _ _ _
    · exact h.stalledMayAppend hs _
  · exact hs

theorem retireSector : P (retireSector s) :=
  h.endRelocated (h.stalledAfterRetirement (h.setUpdatePending (h.markOldSpare
    (h.report _ _ (h.discardSector (h.map _ _ hs) _ _)) _)) _ _) _

theorem loseData : P (loseData s) := h.endRelocated (h.report _ _ hs) _

theorem trySpare : P (trySpare s) := by
  unfold Machine.trySpare; split
  · exact h.engineErase (h.engine _ _ hs) _ _
  · exact h.retireSector hs

theorem enterRelocate : P (enterRelocate s) := by
  unfold Machine.enterRelocate; dsimp only; split_ifs
  · exact h.trySpare (h.engine _ _ hs)
  · exact h.loseData (h.engine _ _ hs)

theorem spareFails : P (spareFails s) := h.trySpare (h.markSpareBad hs _)
theorem spareSucceeds : P (spareSucceeds s) := h.remapTo hs _
theorem writeImage (o : Nat) : P (writeImage o s) := by
  unfold Machine.writeImage; split
  · exact h.engineProgram hs _ _
  · split_ifs
    · exact h.spareSucceeds hs
    · exact h.endCommit hs

theorem programChanged (o : Nat) : P (programChanged o s) := by
  unfold Machine.programChanged; split
  · exact h.engineProgram hs _ _
  · exact h.endCommit hs

theorem releaseGathered (g : GatheredEntry) : P (releaseGathered g s) := h.releaseOne (h.engine _ _ hs) _ _

theorem programGathered (gs : List GatheredEntry) : P (programGathered gs s) := by
  induction gs generalizing s with
  | nil => exact h.endCommit hs
  | cons g t ih =>
    unfold Machine.programGathered
    split_ifs
    · exact ih hs
    · exact ih (h.releaseGathered hs _)
    · exact h.engineProgram hs _ _

theorem gatherRead (w : Word) : P (gatherRead w s) := by
  unfold Machine.gatherRead
  split
  · exact hs
  · dsimp only
    split_ifs
    · exact h.enterLoad (h.engine _ _ hs)
    · split
      · exact h.engineRead (h.engine _ _ hs) _
      · exact h.programGathered (h.engine _ _ (h.engine _ _ hs)) _

theorem endOfLoad : P (endOfLoad s) := by
  unfold Machine.endOfLoad; dsimp only
  have hr := h.releaseAll (h.engine s { applyGathered s.engine with
    gathered := (applyGathered s.engine).gathered.map fun g => { g with released := true } } hs)
    ((applyGathered s.engine).itemRegion.getD 0)
  split_ifs
  · exact h.enterRelocate hr
  · exact h.engineErase hr _ _
  · exact h.programChanged (h.engine _ _ hr) _
  · exact h.endCommit hr

theorem lastWordLoaded : P (lastWordLoaded s) := by
  unfold Machine.lastWordLoaded; split_ifs
  · exact hs
  · exact h.endOfLoad hs

theorem endWaitingLoad : P (endWaitingLoad s) := by
  unfold Machine.endWaitingLoad; split_ifs
  · exact h.endOfLoad hs
  · exact hs

theorem loadRead (w : Word) : P (loadRead w s) := by
  unfold Machine.loadRead; dsimp only; split_ifs
  · exact h.engineRead (h.engine _ _ hs) _
  · exact h.lastWordLoaded (h.engine _ _ hs)

theorem tryFails (x : FaultReason) : P (tryFails x s) := by
  unfold Machine.tryFails; split_ifs
  · exact h.endUpdateBad hs _
  · exact h.startTry (h.engine _ _ hs)

theorem writeRecordFrom (k : Nat) : P (writeRecordFrom k s) := by
  unfold Machine.writeRecordFrom; split
  · exact h.engineProgram (h.engine _ _ hs) _ _
  · exact h.engineRead (h.engine _ _ hs) _

theorem verifyRead (w : Word) : P (verifyRead w s) := by
  unfold Machine.verifyRead; dsimp only; split_ifs
  · exact h.engineRead (h.engine _ _ hs) _
  · exact h.endUpdateGood hs
  · exact h.tryFails hs _

theorem engineReadEnd (w : Word) : P (engineReadEnd w s) := by
  unfold Machine.engineReadEnd; split
  · exact h.gatherRead hs _
  · exact h.loadRead hs _
  · exact h.verifyRead hs _
  · exact hs

theorem engineReadTimeout (o : ArrayOp) (ho : o.issuer.ofHost = false) : P (engineReadTimeout o s) := by
  unfold Machine.engineReadTimeout; split
  · exact h.tryFails hs _
  · exact h.raiseEngineClaim hs _ ho

theorem engineProgramPass (o : ArrayOp) : P (engineProgramPass o s) := by
  unfold Machine.engineProgramPass; split
  · split_ifs
    · split
      · exact h.programGathered (h.releaseGathered hs _) _
      · exact h.endCommit hs
    · exact h.programChanged hs _
  · exact h.writeImage hs _
  · exact h.writeImage hs _
  · exact h.writeRecordFrom hs _
  · exact hs

theorem programExhausted : P (programExhausted s) := by
  unfold Machine.programExhausted; split
  · split_ifs
    · exact h.enterLoad (h.engine _ _ hs)
    · exact h.enterRelocate hs
  · exact h.enterRelocate hs
  · exact h.spareFails hs
  · exact hs

theorem engineProgramFail (o : ArrayOp) (ho : o.issuer.ofHost = false) : P (engineProgramFail o s) := by
  unfold Machine.engineProgramFail; split_ifs
  · exact h.tryFails hs _
  · exact h.raiseEngineClaim hs _ ho
  · exact h.programExhausted hs

theorem engineErasePass : P (engineErasePass s) := by
  unfold Machine.engineErasePass; split
  · exact h.writeImage (h.engine _ _ hs) _
  · split_ifs
    · exact h.writeImage hs _
    · exact h.spareSucceeds hs
  · exact h.toWork.endJob hs _
  · exact h.toWork.endClearStep hs
  · exact h.writeRecordFrom hs _
  · exact hs

theorem engineEraseFail (o : ArrayOp) (ho : o.issuer.ofHost = false) : P (engineEraseFail o s) := by
  unfold Machine.engineEraseFail; split
  · exact h.tryFails hs _
  · split_ifs
    · exact h.raiseEngineClaim hs _ ho
    · exact h.spareFails hs
  all_goals first
    | exact hs
    | split_ifs
      · exact h.raiseEngineClaim hs _ ho
      · exact h.enterRelocate hs

theorem engineOpEnd (o : ArrayOp) (ho : o.issuer.ofHost = false) (pass : Bool) (w : Word) : P (engineOpEnd o pass w s) := by
  unfold Machine.engineOpEnd; split
  · exact h.engineReadEnd hs _
  · exact h.engineProgramPass hs _
  · exact h.engineProgramFail hs _ ho
  · exact h.engineErasePass hs
  · exact h.engineEraseFail hs _ ho

theorem engineOpTimeout (o : ArrayOp) (ho : o.issuer.ofHost = false) : P (engineOpTimeout o s) := by
  unfold Machine.engineOpTimeout; split
  · exact h.engineReadTimeout hs _ ho
  · exact h.engineProgramFail hs _ ho
  · exact h.engineEraseFail hs _ ho

/-! ### Ends of events -/

theorem finish : P (finish s) := by
  unfold Machine.finish; dsimp only; split_ifs
  · exact h.settle (h.takeReselect (h.settle hs))
  · exact h.settle hs

/-! ### Ends of operations -/

theorem hostReadEnd (w : Word) : P (hostReadEnd w s) := by
  have hp := h.portSame hs { s.port with hostClaim := none } rfl rfl rfl ArrayPort.Lawful.hostDropped
  unfold Machine.hostReadEnd; dsimp only; split
  · exact h.endWaitingLoad (h.endRead hp _ _)
  · exact h.endWaitingLoad hp

theorem hostReadTimeout : P (hostReadTimeout s) :=
  h.endWaitingLoad
    (h.endRead (h.portSame hs { s.port with hostClaim := none } rfl rfl rfl ArrayPort.Lawful.hostDropped) _ _)

theorem directAttemptEnd (pass : Bool) : P (directAttemptEnd pass s) := by
  unfold Machine.directAttemptEnd; split
  · split_ifs
    · exact h.endDirect hs _
    · exact hs
    · exact h.endDirect (h.report _ _ hs) _
  · exact hs

theorem stallExpiryTaken : P (stallExpiryTaken s) := by
  unfold Machine.stallExpiryTaken; split
  · exact h.completeAccess (h.report _ _ (h.stall _ _ hs)) _ _
  · exact hs

theorem refuseStalled : P (refuseStalled s) := by
  unfold Machine.refuseStalled; split
  · exact h.completeAccess (h.countRefused (h.stall _ _ hs)) _ _
  · exact hs

end Closed

/-! ### The array's reports and the timeouts -/

/-- `P` is kept by every move of the array's reports as well: what the flash bank holds, and the reading of the copies
during start-up with the installation that ends it. -/
structure Ends (P : State → Prop) : Prop extends Closed P where
  flash   : ∀ s x, (s.flash.wf → x.wf) → P s → P (s.setFlash x)
  startup : ∀ s x, P s → P (s.setStartup x)
  install : ∀ a b s, P s → P (install a b s)

namespace Ends

variable {P : State → Prop} (h : Ends P) {s : State} (hs : P s)
include h hs

theorem claimCopyRead (u : StartUp) : P (claimCopyRead u s) := h.raiseEngineClaim (h.startup _ _ hs) _ rfl

theorem classifyHeld : P (classifyHeld s) := by
  unfold Machine.classifyHeld; split
  · exact h.classify hs _
  · exact hs

theorem endStartUp (a b : Option ControlRecord) : P (endStartUp a b s) := by
  unfold Machine.endStartUp; dsimp only
  refine h.classifyHeld (h.install _ _ _ ?_)
  generalize startUpReports s.straps.cfgIgnore a b = l
  induction l generalizing s with
  | nil => exact hs
  | cons f t ih => exact ih (h.report _ _ hs)

theorem copyJudged (u : StartUp) (r : Option ControlRecord) : P (copyJudged u r s) := by
  unfold Machine.copyJudged; split
  · exact h.claimCopyRead hs _
  · exact h.endStartUp hs _ _

theorem startUpRead (w : Word) : P (startUpRead w s) := by
  unfold Machine.startUpRead; split
  · exact hs
  · dsimp only; split
    · exact h.claimCopyRead hs _
    · exact h.copyJudged hs _ _
    · exact h.copyJudged hs _ _

theorem issuerEnd (o : ArrayOp) (pass : Bool) (w : Word) : P (issuerEnd o pass w s) := by
  have hp := h.portSame hs { s.port with engClaim := none } rfl rfl rfl ArrayPort.Lawful.engDropped
  unfold Machine.issuerEnd; split
  · exact h.hostReadEnd hs _
  · exact h.directAttemptEnd hs _
  · exact h.engineOpEnd hp _ (by simp [*, Issuer.ofHost]) _ _
  · exact h.startUpRead hp _

theorem issuerTimeout (o : ArrayOp) : P (issuerTimeout o s) := by
  have hp := h.portSame hs { s.port with engClaim := none } rfl rfl rfl ArrayPort.Lawful.engDropped
  unfold Machine.issuerTimeout; split
  · exact h.hostReadTimeout hs
  · exact h.directAttemptEnd hs _
  · exact h.engineOpTimeout hp _ (by simp [*, Issuer.ofHost])
  · exact h.raiseEngineClaim hs _ (by simp [*, Issuer.ofHost])

theorem operationEnd (x : RunningOp) (pass : Bool) (w : Word) (hne : s.port.state ≠ .stopped) :
    P (operationEnd x pass w s) :=
  h.issuerEnd (h.clearConsecutive (h.freePort
    (h.flash s (s.flash.ended x.op pass w) (fun hw => FlashBank.ended_wf hw _ _ _) hs) hne)) _ _ _

theorem abandonOps : P (abandonOps s) :=
  h.flash _ _ (fun hw => FlashBank.abandoned_wf (FlashBank.abandoned_wf hw _) _) hs

end Ends

/-- The hand-over of an operation's end to its issuer leaves a port that is not STOPPED so. -/
theorem issuerEnd_not_stopped (o : ArrayOp) (pass : Bool) (w : Word) (s : State) (hne : s.port.state ≠ .stopped) :
    (issuerEnd o pass w s).port.state ≠ .stopped := by
  have h : Ends fun t => t.port.state ≠ .stopped :=
    { engine := fun _ _ h => h, reading := fun _ h => h, port := fun s x hx _ _ _ h => by simpa [hx] using h
      host := fun _ _ h => h, reader := fun _ _ h => h, direct := fun _ _ h => h, stall := fun _ _ h => h
      report := fun _ _ h => h, coalesce := fun _ _ _ _ _ h => h, append := fun _ _ _ _ _ _ h => h
      keep := fun _ _ _ h => h, mark := fun _ s h => by unfold markRegion; split_ifs <;> exact h
      gather := fun _ _ _ h => h, map := fun _ _ h => h, cru := fun _ _ h => h, control := fun _ _ _ h => h
      held := fun _ h => h, flash := fun _ _ _ h => h, startup := fun _ _ h => h, install := fun _ _ _ h => h }
  exact h.issuerEnd hne o pass w

namespace Ends

variable {P : State → Prop} (h : Ends P) {s : State} (hs : P s)
include h hs

theorem innerEnd (x : RunningOp) (pass : Bool) (w : Word) (hne : s.port.state ≠ .stopped) :
    P (innerEnd x pass w s) := by
  unfold Machine.innerEnd; dsimp only
  have hf := h.issuerEnd (h.clearConsecutive
    (h.flash s (s.flash.ended x.op pass w) (fun hw => FlashBank.ended_wf hw _ _ _) hs)) x.op pass w
  have hn := issuerEnd_not_stopped x.op pass w (Machine.clearConsecutive (s.setFlash (s.flash.ended x.op pass w))) hne
  split_ifs
  · exact h.issueInner hf hn
  · exact h.resumeErase hf hn

theorem reportEnd (k : OpKind) (pass : Bool) (w : Word) : P (reportEnd k pass w s) := by
  unfold Machine.reportEnd; split
  · split
    · exact h.operationEnd hs _ _ _ (by simp [*])
    · exact hs
  · split
    · exact h.innerEnd hs _ _ _ (by simp [*])
    · exact hs
  · exact hs

theorem reportEraseEnd (pass : Bool) : P (reportEraseEnd pass s) := by
  unfold Machine.reportEraseEnd; split_ifs with hc
  · split
    · exact h.operationEnd hs _ _ _ (by rcases hc with hc | hc <;> simp [hc])
    · exact hs
  · exact hs

theorem reportAcknowledgement : P (reportAcknowledgement s) := by
  unfold Machine.reportAcknowledgement; split_ifs with hc
  · exact h.issueInner (h.clearConsecutive hs) (by simp [Machine.clearConsecutive, hc])
  · exact hs

end Ends

end Sys2Proof.Machine
end

