-- ==== Sys2Proof/Laws/Frames.lean ====
section
/-! SUPPORT. Frames of the shared operations: which components each leaves as they were, read off the moves of
Laws/Closed.lean; and what the end of an event does where nothing waits for it. -/

namespace Sys2Proof.Machine

/-! ### What no block's work changes -/

/-- The components that no work of the host path, the queues, the engine or the array port changes. -/
structure Outer where
  pending : List Instr
  inReset : Bool
  straps  : Straps
  time    : Nat
  image   : Option SetupImage
  startup : Option StartUp
  setup   : SetupPort
  stream  : StatusStream
  flash   : FlashBank

/-- Those components of a state. -/
def State.outer (s : State) : Outer :=
  { pending := s.pending, inReset := s.inReset, straps := s.straps, time := s.time, image := s.image
    startup := s.startup, setup := s.setup, stream := s.stream, flash := s.flash }

/-- Marking a region changes its queue at most. -/
theorem markRegion_queues (r : Nat) (s : State) : ∃ q, markRegion r s = s.setQueues q := by
  unfold markRegion; split_ifs
  · exact ⟨_, rfl⟩
  · exact ⟨s.queues, rfl⟩

/-- No work of the blocks changes the outer components. -/
theorem closed_outer (v : Outer) : Closed fun t => t.outer = v :=
  { engine := fun _ _ h => h, reading := fun _ h => h, port := fun _ _ _ _ _ _ h => h
    host := fun _ _ h => h, reader := fun _ _ h => h, direct := fun _ _ h => h, stall := fun _ _ h => h
    report := fun _ _ h => h, coalesce := fun _ _ _ _ _ h => h, append := fun _ _ _ _ _ _ h => h
    keep := fun _ _ _ h => h
    mark := fun r s h => by obtain ⟨q, hq⟩ := markRegion_queues r s; rw [hq]; exact h
    gather := fun _ _ _ h => h, map := fun _ _ h => h, cru := fun _ _ h => h, control := fun _ _ _ h => h
    held := fun _ h => h }

theorem finish_outer (s : State) : (finish s).outer = s.outer := (closed_outer _).finish rfl
theorem settle_outer (s : State) : (settle s).outer = s.outer := (closed_outer _).settle rfl
theorem arrive_outer (p : HostPins) (s : State) : (arrive p s).outer = s.outer := (closed_outer _).arrive rfl p
theorem purgeRegion_outer (r : Nat) (s : State) : (purgeRegion r s).outer = s.outer := (closed_outer _).purgeRegion rfl r
theorem markAll_outer (s : State) : (markAll s).outer = s.outer := (closed_outer _).markAll rfl
theorem markRegion_outer (r : Nat) (s : State) : (markRegion r s).outer = s.outer := (closed_outer s.outer).mark r s rfl
theorem refuseStalled_outer (s : State) : (refuseStalled s).outer = s.outer := (closed_outer _).refuseStalled rfl
theorem stallExpiryTaken_outer (s : State) : (stallExpiryTaken s).outer = s.outer := (closed_outer _).stallExpiryTaken rfl

@[simp] theorem finish_pending (s : State) : (finish s).pending = s.pending := congrArg Outer.pending (finish_outer s)
@[simp] theorem finish_inReset (s : State) : (finish s).inReset = s.inReset := congrArg Outer.inReset (finish_outer s)
@[simp] theorem finish_straps (s : State) : (finish s).straps = s.straps := congrArg Outer.straps (finish_outer s)
@[simp] theorem finish_time (s : State) : (finish s).time = s.time := congrArg Outer.time (finish_outer s)
@[simp] theorem finish_image (s : State) : (finish s).image = s.image := congrArg Outer.image (finish_outer s)
@[simp] theorem finish_startup (s : State) : (finish s).startup = s.startup := congrArg Outer.startup (finish_outer s)
@[simp] theorem finish_setup (s : State) : (finish s).setup = s.setup := congrArg Outer.setup (finish_outer s)
@[simp] theorem finish_stream (s : State) : (finish s).stream = s.stream := congrArg Outer.stream (finish_outer s)
@[simp] theorem finish_flash (s : State) : (finish s).flash = s.flash := congrArg Outer.flash (finish_outer s)

/-! ### The outputs -/

@[simp] theorem refresh_pending (s : State) : (refresh s).pending = s.pending := rfl
@[simp] theorem refresh_inReset (s : State) : (refresh s).inReset = s.inReset := rfl
@[simp] theorem refresh_straps (s : State) : (refresh s).straps = s.straps := rfl
@[simp] theorem refresh_time (s : State) : (refresh s).time = s.time := rfl
@[simp] theorem refresh_host (s : State) : (refresh s).host = s.host := rfl
@[simp] theorem refresh_image (s : State) : (refresh s).image = s.image := rfl
@[simp] theorem refresh_queues (s : State) : (refresh s).queues = s.queues := rfl
@[simp] theorem refresh_stall (s : State) : (refresh s).stall = s.stall := rfl
@[simp] theorem refresh_reader (s : State) : (refresh s).reader = s.reader := rfl
@[simp] theorem refresh_engine (s : State) : (refresh s).engine = s.engine := rfl
@[simp] theorem refresh_port (s : State) : (refresh s).port = s.port := rfl
@[simp] theorem refresh_map (s : State) : (refresh s).map = s.map := rfl
@[simp] theorem refresh_cru (s : State) : (refresh s).cru = s.cru := rfl
@[simp] theorem refresh_startup (s : State) : (refresh s).startup = s.startup := rfl
@[simp] theorem refresh_setup (s : State) : (refresh s).setup = s.setup := rfl
@[simp] theorem refresh_stream (s : State) : (refresh s).stream = s.stream := rfl
@[simp] theorem refresh_flash (s : State) : (refresh s).flash = s.flash := rfl
@[simp] theorem refresh_records (s : State) : (refresh s).log.records = s.log.records := rfl
@[simp] theorem refresh_unstored (s : State) : (refresh s).log.unstored = s.log.unstored := rfl
@[simp] theorem refresh_nextSeq (s : State) : (refresh s).log.nextSeq = s.log.nextSeq := rfl
@[simp] theorem refresh_mode (s : State) : (refresh s).mc.mode = s.mc.mode := rfl
@[simp] theorem refresh_refused (s : State) : (refresh s).mc.refused = s.mc.refused := rfl
@[simp] theorem refresh_clearIndex (s : State) : (refresh s).mc.clearIndex = s.mc.clearIndex := rfl
@[simp] theorem refresh_flushHigh (s : State) : (refresh s).mc.flushHigh = s.mc.flushHigh := rfl

/-- After its event's end an output stands as its facts say. -/
theorem refresh_tracks (s : State) : (refresh s).OutputsTrack := ⟨rfl, rfl⟩

/-- Where the outputs stand as their facts say, the end of an event leaves them. -/
theorem refresh_of_tracks {s : State} (h : s.OutputsTrack) : refresh s = s := by
  obtain ⟨h1, h2⟩ := h
  unfold refresh; rw [← h1, ← h2]

/-! ### An event's end where nothing waits for it -/

/-- A selection finds nothing just when no work is available. -/
theorem selectOnce_eq_none {s : State} (h : s.hasWork = false) : selectOnce s = none := by
  unfold State.hasWork at h
  unfold selectOnce
  cases hm : s.maySelect
  · simp
  · simp only [hm, Bool.true_and, Bool.or_eq_false_iff] at h
    obtain ⟨⟨⟨h1, h2⟩, h3⟩, h4⟩ := h
    simp only [beq_eq_false_iff_ne, ne_eq] at h3
    simp only [Option.isSome_eq_false_iff, Option.isNone_iff_eq_none] at h4
    simp [h1, h2, h3, h4]

theorem selectItems_of_none {s : State} (h : selectOnce s = none) (n : Nat) : selectItems n s = s := by
  cases n with
  | zero => rfl
  | succ n => unfold selectItems; rw [h]

/-- Where nothing waits for the end of an event, the end of the event changes nothing. -/
theorem settle_of_rests {s : State} (h : s.Rests) : settle s = s := by
  obtain ⟨hw, hd, hg, -⟩ := h
  unfold settle
  have hdr : drain s = s := by unfold drain; rw [if_neg hd]
  rw [hdr, selectItems_of_none (selectOnce_eq_none hw)]
  unfold grant
  split_ifs with hf
  · obtain ⟨h1, h2⟩ := hg hf
    rw [h1, h2]
  · rfl

theorem finish_of_rests {s : State} (h : s.Rests) : finish s = s := by
  unfold finish
  rw [settle_of_rests h]
  exact if_neg h.2.2.2

/-! ### What the end of an event leaves of the queues and of the host access -/

/-- Reading a changed queue: the change shows in region r alone. -/
theorem updateQueue_queue (r r' : Nat) (f : RegionQueue → RegionQueue) (s : State) :
    (updateQueue r f s).queue r' =
      if r' = r then ((s.queues[r]?).map (fun q => (f q).entries)).getD [] else s.queue r' := by
  unfold updateQueue State.queue State.setQueues
  simp only [List.getElem?_modify]
  split_ifs with h1 h2 h2
  · subst h1; cases s.queues[r]? <;> simp
  · exact absurd h1.symm h2
  · exact absurd h2.symm h1
  · cases s.queues[r']? <;> simp

theorem updateQueue_marked (r r' : Nat) (f : RegionQueue → RegionQueue) (s : State) :
    (updateQueue r f s).marked r' =
      if r' = r then ((s.queues[r]?).map (fun q => (f q).flushMark)).getD false else s.marked r' := by
  unfold updateQueue State.marked State.setQueues
  simp only [List.getElem?_modify]
  split_ifs with h1 h2 h2
  · subst h1; cases s.queues[r]? <;> simp
  · exact absurd h1.symm h2
  · exact absurd h2.symm h1
  · cases s.queues[r']? <;> simp

/-- A gather changes entry states alone. -/
theorem gatherEntries_contents (r x r' : Nat) (s : State) : (gatherEntries r x s).contents r' = s.contents r' := by
  unfold State.contents gatherEntries
  rw [updateQueue_queue]
  split_ifs with h
  · subst h
    unfold State.queue
    cases s.queues[r']? with
    | none => rfl
    | some q =>
      simp only [Option.map_some, Option.getD_some, List.map_map]
      refine List.map_congr_left fun e _ => ?_
      simp only [Function.comp_apply]
      split_ifs <;> rfl
  · rfl

theorem gatherEntries_marked (r x r' : Nat) (s : State) : (gatherEntries r x s).marked r' = s.marked r' := by
  unfold gatherEntries
  rw [updateQueue_marked]
  split_ifs with h
  · subst h; unfold State.marked; cases s.queues[r']? <;> rfl
  · rfl

/-- With no read held on an erase and no direct write in progress, no hold is there to release. -/
theorem releaseHolds_none (x : Nat) {s : State} (hr : s.reader.state ≠ .eraseHold) (hd : s.port.direct.isNone = true) :
    releaseHolds x s = s := by
  have h1 : releaseHeldRead x s = s := by
    unfold releaseHeldRead; split
    · rw [if_neg (fun h => hr h.1)]
    · rfl
  unfold releaseHolds
  rw [h1]
  unfold releaseHeldWrite
  rw [Option.isNone_iff_eq_none] at hd
  rw [hd]

/-- What the end of an event leaves in any state: the stalled write, every queue's contents and flush mark, and
whether a select waits. -/
structure Staged where
  stall    : Option StalledWrite
  contents : Nat → List EntryContent
  marked   : Nat → Bool
  reselect : Bool

/-- The staged writes of a state. -/
def State.staged (s : State) : Staged :=
  { stall := s.stall, contents := s.contents, marked := s.marked, reselect := s.host.reselect }

/-- Claims and grants leave the staged writes. -/
theorem claims_staged (v : Staged) : Claims fun t => t.staged = v :=
  { engine := fun _ _ h => h, reading := fun _ h => h, port := fun _ _ _ _ _ _ h => h }

theorem completeAccess_staged (e : Bool) (d : Option Word) (s : State) : (completeAccess e d s).staged = s.staged := by
  unfold completeAccess; split_ifs <;> rfl

theorem raiseHostClaim_staged (o : ArrayOp) (s : State) : (raiseHostClaim o s).staged = s.staged :=
  (claims_staged s.staged).considerSuspend ((claims_staged s.staged).grant rfl)

theorem releaseHolds_staged (x : Nat) (s : State) : (releaseHolds x s).staged = s.staged := by
  have hr : (releaseHeldRead x s).staged = s.staged := by
    unfold releaseHeldRead; split
    · split_ifs
      · split
        · exact raiseHostClaim_staged _ _
        · exact completeAccess_staged _ _ _
      · rfl
    · rfl
  refine Eq.trans ?_ hr
  unfold releaseHolds
  generalize releaseHeldRead x s = u
  unfold releaseHeldWrite; split
  · split_ifs
    · split
      · exact raiseHostClaim_staged _ _
      · exact completeAccess_staged _ _ _
    · rfl
  · rfl

theorem gatherEntries_staged (r x : Nat) (s : State) : (gatherEntries r x s).staged = s.staged := by
  have h1 : (gatherEntries r x s).contents = s.contents := funext fun r' => gatherEntries_contents r x r' s
  have h2 : (gatherEntries r x s).marked = s.marked := funext fun r' => gatherEntries_marked r x r' s
  unfold State.staged
  rw [h1, h2]; rfl

/-- The end of an event leaves the staged writes. -/
theorem work_staged (v : Staged) : Work fun t => t.staged = v :=
  { claims_staged v with
    failed := fun _ _ _ _ h => h, map := fun _ _ h => h, cru := fun _ _ _ h => h, control := fun _ _ _ h => h
    held := fun _ h => h
    gather := fun r x s h => (gatherEntries_staged r x s).trans h
    holds := fun x s h => (releaseHolds_staged x s).trans h }

theorem settle_staged (s : State) : (settle s).staged = s.staged := (work_staged _).settle rfl

/-- With no select waiting, the end of an event takes none. -/
theorem finish_eq_settle {s : State} (h : s.host.reselect = false) : finish s = settle s := by
  have hr : (settle s).host.reselect = false := by
    have := congrArg Staged.reselect (settle_staged s)
    exact this.trans h
  unfold finish
  simp [hr]

/-- With no select waiting, no erase hold and no direct write, the end of an event leaves the host port as well. -/
theorem work_host (p : HostPort) :
    Work fun t => t.host = p ∧ t.reader.state ≠ .eraseHold ∧ t.port.direct.isNone = true :=
  { engine := fun _ _ h => h
    reading := fun _ h => ⟨h.1, by simp, h.2.2⟩
    port := fun _ _ _ _ hd _ h => ⟨h.1, h.2.1, by rw [State.setPort_port, hd]; exact h.2.2⟩
    failed := fun _ _ _ _ h => h, gather := fun _ _ _ h => h, map := fun _ _ h => h, cru := fun _ _ _ h => h
    control := fun _ _ _ h => h, held := fun _ h => h
    holds := fun x s h => by rw [releaseHolds_none x h.2.1 h.2.2]; exact h }

theorem settle_host {s : State} (hr : s.reader.state ≠ .eraseHold) (hd : s.port.direct.isNone = true) :
    (settle s).host = s.host := ((work_host s.host).settle ⟨rfl, hr, hd⟩).1

/-- Below the generation limit, with no erase hold and no direct write, the end of an event reports no fault. -/
theorem work_log (l : FaultLog) :
    Work fun t => t.log = l ∧ t.cru.generation < generationLimit ∧ t.reader.state ≠ .eraseHold
      ∧ t.port.direct.isNone = true :=
  { engine := fun _ _ h => h
    reading := fun _ h => ⟨h.1, h.2.1, by simp, h.2.2.2⟩
    port := fun _ _ _ _ hd _ h => ⟨h.1, h.2.1, h.2.2.1, by rw [State.setPort_port, hd]; exact h.2.2.2⟩
    failed := fun _ _ s hg h => absurd h.2.1 (Nat.not_lt.mpr hg)
    gather := fun _ _ _ h => h, map := fun _ _ h => h
    cru := fun s x hx h => ⟨h.1, by rw [State.setCru_cru, hx]; exact h.2.1, h.2.2⟩
    control := fun _ _ _ h => h, held := fun _ h => h
    holds := fun x s h => by rw [releaseHolds_none x h.2.2.1 h.2.2.2]; exact h }

theorem settle_log {s : State} (hg : s.cru.generation < generationLimit) (hr : s.reader.state ≠ .eraseHold)
    (hd : s.port.direct.isNone = true) : (settle s).log = s.log := ((work_log s.log).settle ⟨rfl, hg, hr, hd⟩).1

end Sys2Proof.Machine
end

