-- ==== Sys2Proof/Laws/Exec.lean ====
section
/-! SUPPORT. What `exec` and `step` can do, said once: outside reset a command's effect, with the outputs following;
in reset the few levels that stand at the edges. -/

namespace Sys2Proof.Machine

/-- A command's effect outside reset, before ATTN and DRAINED follow. RESET and RESET_RELEASE have their own laws. -/
def effect : Instr → State → State
  | .hostAccessArrival p, s => finish (selectActive p s)
  | .hostSelectRelease, s => finish (selectInactive s)
  | .reset, s => s
  | .resetRelease _, s => s
  | .flushLevelChange high, s => finish (takeFlushLevel high s)
  | .stsclkRisingEdge, s => takeEdge s
  | .addressCharacter v, s => takeAddress v s
  | .framingError, s => takeFramingError s
  | .breakDetected, s => takeBreak s
  | .gapTimeout, s => finish (gapTimeoutTaken (elapse s.ticksToGapLimit s))
  | .frameBuffered f, s => completeFrame f s
  | .replyStart, s => startReply s
  | .replyEnd, s => endReply s
  | .ident p, s => completeFrame (goodFrame SetupCommand.ident.code p) s
  | .status p, s => completeFrame (goodFrame SetupCommand.status.code p) s
  | .faultRead p, s => completeFrame (goodFrame SetupCommand.faultRead.code p) s
  | .setupRead p, s => completeFrame (goodFrame SetupCommand.setupRead.code p) s
  | .remapRead p, s => completeFrame (goodFrame SetupCommand.remapRead.code p) s
  | .flush p, s => completeFrame (goodFrame SetupCommand.flush.code p) s
  | .purge p, s => completeFrame (goodFrame SetupCommand.purge.code p) s
  | .hold p, s => completeFrame (goodFrame SetupCommand.hold.code p) s
  | .release p, s => completeFrame (goodFrame SetupCommand.release.code p) s
  | .setupLoad p, s => completeFrame (goodFrame SetupCommand.setupLoad.code p) s
  | .setupStore p, s => completeFrame (goodFrame SetupCommand.setupStore.code p) s
  | .protect p, s => completeFrame (goodFrame SetupCommand.protect.code p) s
  | .sectorErase p, s => completeFrame (goodFrame SetupCommand.sectorErase.code p) s
  | .arrayClear p, s => completeFrame (goodFrame SetupCommand.arrayClear.code p) s
  | .unknownCommand code p, s => completeFrame (goodFrame code p) s
  | .stallLimitExpiry, s => finish (stallExpiryTaken (elapse s.ticksToStallLimit s))
  | .regionAgeLimit r, s => finish (elapse (s.ticksToAge r.toNat) s)
  | .arrayReadEnd w, s => finish (reportEnd .read true w s)
  | .arrayProgramEnd pass, s => finish (reportEnd .program pass 0 s)
  | .arrayEraseEnd pass, s => finish (reportEraseEnd pass s)
  | .suspendAcknowledgement, s => finish (reportAcknowledgement s)
  | .operationTimeout, s => finish (operationTimeoutTaken (elapse s.ticksToOpLimit s))
  | .suspendTimeout l, s => finish (suspendTimeoutTaken l (elapse (s.ticksToSuspendLimit l) s))
  | .innerOperationTimeout, s => finish (innerTimeoutTaken (elapse s.ticksToInnerLimit s))
  | .arstPulseEnd, s => finish (endPulse (elapse s.ticksToPulseEnd s))
  | .frameCharacter v, s => takeFrameCharacter v s
  | .checkErrorFrame code p, s => completeFrame (badCheckFrame code p) s
  | .frameLength code l p, s => completeFrame (overlongFrame code l p) s
  | .hostSelectWhileBusy p, s => finish (selectActive p s)

/-- A command's effect while RST# is active: the levels that stand at the edges (R211, R215). -/
def effectInReset : Instr → State → State
  | .hostAccessArrival p, s => selectInReset p s
  | .hostSelectWhileBusy p, s => selectInReset p s
  | .hostSelectRelease, s => s.setHost { s.host with select := false, reselect := false }
  | .flushLevelChange high, s => s.setMc { s.mc with flushHigh := high }
  | _, s => s

/-- Outside reset, a command other than RESET and RESET_RELEASE has its effect, and the outputs follow. -/
theorem exec_awake {c : Instr} {s : State} (hs : s.inReset = false) (hc : c ≠ .reset)
    (hr : ∀ pins, c ≠ .resetRelease pins) : exec c s = .next (refresh (effect c s)) := by
  have he : ∀ f, event f s = .next (refresh (f s)) := fun f => if_neg (by simp [hs])
  have hn : ∀ x y : Result, (if s.inReset = true then x else y) = y := fun x y => if_neg (by simp [hs])
  have key : exec c s = event (effect c) s := by
    cases c with
    | reset => exact absurd rfl hc
    | resetRelease st => exact absurd rfl (hr st)
    | hostAccessArrival p => exact hn _ _
    | hostSelectWhileBusy p => exact hn _ _
    | hostSelectRelease => exact hn _ _
    | flushLevelChange b => exact hn _ _
    | _ => rfl
  rw [key, he]

/-- In reset, a command other than RESET and RESET_RELEASE changes the levels at the edges at most. -/
theorem exec_asleep {c : Instr} {s : State} (hs : s.inReset = true) (hc : c ≠ .reset)
    (hr : ∀ pins, c ≠ .resetRelease pins) : exec c s = .next (effectInReset c s) := by
  have hp : ∀ x y : Result, (if s.inReset = true then x else y) = x := fun x y => if_pos hs
  cases c with
  | reset => exact absurd rfl hc
  | resetRelease st => exact absurd rfl (hr st)
  | hostAccessArrival p => exact hp _ _
  | hostSelectWhileBusy p => exact hp _ _
  | hostSelectRelease => exact hp _ _
  | flushLevelChange b => exact hp _ _
  | _ => exact hp _ _

/-- Every outcome of `exec`, with the four shapes it can have. -/
theorem exec_cases (c : Instr) (s : State) : ∃ t, exec c s = .next t ∧
    ((s.inReset = false ∧ c ≠ .reset ∧ (t = s ∨ t = refresh (effect c s)))
      ∨ (s.inReset = true ∧ t = effectInReset c s) ∨ t = resetPart s
      ∨ (s.inReset = true ∧ ∃ pins, t = refresh (finish (beginStartUp pins s)))) := by
  by_cases hc : c = .reset
  · subst hc; exact ⟨_, rfl, .inr (.inr (.inl rfl))⟩
  by_cases hr : ∃ st, c = .resetRelease st
  · obtain ⟨st, rfl⟩ := hr
    cases hs : s.inReset
    · exact ⟨s, if_neg (by simp [hs]), .inl ⟨rfl, hc, .inl rfl⟩⟩
    · exact ⟨_, if_pos hs, .inr (.inr (.inr ⟨rfl, st, rfl⟩))⟩
  · have hr' : ∀ st, c ≠ .resetRelease st := fun st h => hr ⟨st, h⟩
    cases hs : s.inReset
    · exact ⟨_, exec_awake hs hc hr', .inl ⟨rfl, hc, .inr rfl⟩⟩
    · exact ⟨_, exec_asleep hs hc hr', .inr (.inl ⟨rfl, rfl⟩)⟩

/-- A step is a command, or the tick of an empty queue. -/
theorem step_cases {s t : State} (h : step s = .next t) :
    (s.pending = [] ∧ t = tick s) ∨ ∃ c rest, s.pending = c :: rest ∧ exec c (s.setPending rest) = .next t := by
  unfold step at h
  split at h
  · exact .inl ⟨‹_›, by cases h; rfl⟩
  · exact .inr ⟨_, _, ‹_›, h⟩

end Sys2Proof.Machine
end

