-- ==== Sys2Proof/Laws/Events.lean ====
section
/-! SUPPORT. The walk of Laws/Closed.lean over whole commands: a property that every move of the part keeps is kept by
every command other than RESET and RESET_RELEASE, and by the tick. -/

namespace Sys2Proof.Machine

/-- `P` is kept by every move of the part outside reset: the blocks' moves, and those of time, the setup port, the status
stream, the mode controller, the active image and array loss. -/
structure Events (P : State → Prop) : Prop extends Ends P where
  elapse : ∀ d s, P s → P (elapse d s)
  setup  : ∀ s x, P s → P (s.setSetup x)
  stream : ∀ s x, P s → P (s.setStream x)
  mc     : ∀ s x, P s → P (s.setMc x)
  image  : ∀ im s, P s → P (applyImage im s)
  rise   : ∀ s, P s → P (s.setPort { s.port with consecutive := s.port.consecutive + 1 })
  lost   : ∀ s x, (s.port.Lawful → x.Lawful) → P s → P (s.setPort x)

namespace Events

variable {P : State → Prop} (h : Events P) {s : State} (hs : P s)
include h hs

theorem failHeldAccess : P (failHeldAccess s) := by
  unfold Machine.failHeldAccess; split
  · split_ifs
    · exact h.completeAccess hs _ _
    · exact h.failRead hs
  · exact hs

theorem enterOffline : P (enterOffline s) := by
  have hp := h.lost _ { (Machine.abandonOps s).port with
    state := PortState.stopped, op := none, inner := none, hostClaim := none, engClaim := none
    direct := none, arst := .held, ackTimer := 0, arstTimer := 0, suspCount := 0 }
    (fun _ => ⟨by simp, by simp, by simp, fun _ => rfl⟩) (h.abandonOps hs)
  have hq := h.startup _ none (h.reader _ { state := .idle, access := none } (h.stall _ none
    (h.engine _ { (Machine.abandonOps s).engine with stopped := true } hp)))
  unfold Machine.enterOffline; dsimp only
  refine h.failHeldAccess (h.mc _ _ ?_)
  split_ifs
  · exact hq
  · exact h.stream _ _ hq

theorem timeout (x : FaultReason) (p : Nat) (f : State → State) (hf : ∀ t, P t → P (f t))
    (hne : s.port.state ≠ .stopped) : P (timeout x p f s) := by
  have hr := h.rise _ (h.report { kind := .arrayTimeout, psec := some p, reason := some x } s hs)
  unfold Machine.timeout; dsimp only
  split_ifs
  · exact h.enterOffline (h.report _ _ hr)
  · refine hf _ (h.portSame (h.freePort (h.abandonOps hr) hne) _ rfl rfl rfl id)

theorem operationTimeoutTaken : P (operationTimeoutTaken s) := by
  unfold Machine.operationTimeoutTaken; split_ifs with hc
  · split
    · exact h.timeout hs _ _ _ (fun t ht => h.issuerTimeout ht _) (by simp [hc])
    · exact hs
  · exact hs

theorem suspendTimeoutTaken (l : SuspendLimit) : P (suspendTimeoutTaken l s) := by
  unfold Machine.suspendTimeoutTaken; split_ifs with hc
  · split
    · exact h.timeout hs _ _ _ (fun t ht => h.issuerTimeout ht _) (by simp [hc])
    · exact hs
  · exact hs

theorem innerTimeoutTaken : P (innerTimeoutTaken s) := by
  unfold Machine.innerTimeoutTaken; split_ifs with hc
  · split
    · exact h.timeout hs _ _ _ (fun t ht => h.issuerTimeout (h.issuerTimeout ht _) _) (by simp [hc])
    · exact hs
  · exact hs

theorem gapTimeoutTaken : P (gapTimeoutTaken s) := by
  unfold Machine.gapTimeoutTaken; split_ifs
  · exact h.setup _ _ hs
  · exact hs

theorem takeLimits : P (takeLimits s) := by
  unfold Machine.takeLimits; dsimp only
  have hp : P (if s.port.state = .running ∧ s.port.op.isSome ∧ s.ticksToOpLimit = 0 then
      Machine.operationTimeoutTaken s
    else if s.port.state = .suspending ∧ s.ticksToSuspendLimit .acknowledgement = 0 then
      Machine.suspendTimeoutTaken .acknowledgement s
    else if s.port.state = .suspending ∧ s.ticksToSuspendLimit .eraseTime = 0 then
      Machine.suspendTimeoutTaken .eraseTime s
    else if s.port.state = .suspended ∧ s.port.inner.isSome ∧ s.ticksToInnerLimit = 0 then
      Machine.innerTimeoutTaken s
    else s) := by
    split_ifs
    · exact h.operationTimeoutTaken hs
    · exact h.suspendTimeoutTaken hs _
    · exact h.suspendTimeoutTaken hs _
    · exact h.innerTimeoutTaken hs
    · exact hs
  revert hp
  generalize (if s.port.state = .running ∧ s.port.op.isSome ∧ s.ticksToOpLimit = 0 then
      Machine.operationTimeoutTaken s
    else if s.port.state = .suspending ∧ s.ticksToSuspendLimit .acknowledgement = 0 then
      Machine.suspendTimeoutTaken .acknowledgement s
    else if s.port.state = .suspending ∧ s.ticksToSuspendLimit .eraseTime = 0 then
      Machine.suspendTimeoutTaken .eraseTime s
    else if s.port.state = .suspended ∧ s.port.inner.isSome ∧ s.ticksToInnerLimit = 0 then
      Machine.innerTimeoutTaken s
    else s) = u
  intro hu
  have hv : P (if u.stall.isSome ∧ u.ticksToStallLimit = 0 then Machine.stallExpiryTaken u else u) := by
    split_ifs
    · exact h.stallExpiryTaken hu
    · exact hu
  split_ifs
  · exact h.gapTimeoutTaken (h.stallExpiryTaken hu)
  · exact h.stallExpiryTaken hu
  · exact h.gapTimeoutTaken hu
  · exact hu

/-! ### Setup frames -/

theorem answer (sel : Selection) (r : Reply) : P (answer sel r s) := by
  unfold Machine.answer; split_ifs
  · exact h.setup _ _ hs
  · exact hs

theorem runCommand (c : SetupCommand) (p : List Byte) (hl : P (s.setLog s.log.removeOldest)) :
    P (runCommand c p s).2 := by
  cases c <;> simp only [Machine.runCommand, runIdent, runStatus, runFaultRead, runSetupRead, runRemapRead, runFlush,
    runPurge, runHold, runRelease, runSetupLoad, runSetupStore, runProtect, runSectorErase, runArrayClear]
  · exact hs
  · exact hs
  · split
    · exact hs
    · exact hl
  · exact hs
  · exact hs
  · split_ifs
    · exact h.finish (h.markAll hs)
    · exact h.finish (h.mark _ _ hs)
    · exact hs
  · split_ifs
    · exact h.finish (h.purgeRegion hs _)
    · exact hs
  · exact h.finish (h.refuseStalled (h.markAll (h.mc _ _ hs)))
  · exact h.finish (h.mc _ _ hs)
  · split
    · exact hs
    · exact h.finish (h.image _ _ hs)
  · exact h.finish (h.setUpdatePending hs)
  · split_ifs
    · exact hs
    · exact hs
    · exact hs
    · exact h.finish (h.setUpdatePending (h.map _ _ hs))
  · split_ifs
    · exact hs
    · exact hs
    · exact hs
    · exact hs
    · exact hs
    · exact h.finish (h.engine _ _ hs)
  · split_ifs
    · exact hs
    · exact h.finish (h.mc _ _ hs)

theorem executeFrame (f : SetupFrame) (sel : Selection) (hl : P (s.setLog s.log.removeOldest)) :
    P (executeFrame f sel s) := by
  unfold Machine.executeFrame; split_ifs
  · exact h.answer hs _ _
  · exact h.answer hs _ _
  · split
    · exact h.answer hs _ _
    · unfold executeCommand; split_ifs
      · exact hs
      · exact h.answer hs _ _
      · exact h.answer hs _ _
      · exact h.answer (h.runCommand hs _ _ hl) _ _

theorem completeFrame (f : SetupFrame) (hl : P (s.setLog s.log.removeOldest)) : P (completeFrame f s) := by
  have hd := h.setup _ s.setup.dropPart hs
  unfold Machine.completeFrame; split_ifs
  · exact hs
  · dsimp only; split_ifs
    · exact h.executeFrame hd _ _ (h.setup _ s.setup.dropPart hl)
    · exact h.setup _ _ hd
    · exact hd

/-! ### Commands -/

/-- Every command's effect outside reset keeps `P`, given that the removal of the oldest fault record does. -/
theorem effect (c : Instr) (hl : P (s.setLog s.log.removeOldest)) : P (effect c s) := by
  have selActive : ∀ p, P (selectActive p s) := fun p => by
    unfold selectActive; split
    · exact h.arrive hs _
    · exact h.host _ _ hs
  cases c <;> simp only [Machine.effect]
  case hostAccessArrival p => exact h.finish (selActive p)
  case hostSelectWhileBusy p => exact h.finish (selActive p)
  case hostSelectRelease =>
    refine h.finish ?_
    unfold selectInactive; split <;> exact h.host _ _ hs
  case reset => exact hs
  case resetRelease => exact hs
  case flushLevelChange b =>
    refine h.finish ?_
    unfold takeFlushLevel; dsimp only; split_ifs
    · exact h.markAll (h.mc _ _ hs)
    · exact h.mc _ _ hs
  case stsclkRisingEdge =>
    unfold takeEdge; split_ifs
    · exact h.stream _ _ hs
    · exact hs
  case addressCharacter v => exact h.setup _ _ hs
  case framingError =>
    unfold takeFramingError; split_ifs
    · exact hs
    · exact h.setup _ _ hs
  case breakDetected => exact h.setup _ _ hs
  case gapTimeout => exact h.finish (h.gapTimeoutTaken (h.elapse _ _ hs))
  case replyStart =>
    unfold startReply; split_ifs
    · exact h.setup _ _ hs
    · exact hs
  case replyEnd =>
    unfold endReply; split_ifs
    · split
      · exact h.executeFrame (h.setup _ _ hs) _ _ (h.setup _ _ hl)
      · exact h.setup _ _ hs
    · exact hs
  case stallLimitExpiry => exact h.finish (h.stallExpiryTaken (h.elapse _ _ hs))
  case regionAgeLimit r => exact h.finish (h.elapse _ _ hs)
  case arrayReadEnd w => exact h.finish (h.reportEnd hs _ _ _)
  case arrayProgramEnd b => exact h.finish (h.reportEnd hs _ _ _)
  case arrayEraseEnd b => exact h.finish (h.reportEraseEnd hs _)
  case suspendAcknowledgement => exact h.finish (h.reportAcknowledgement hs)
  case operationTimeout => exact h.finish (h.operationTimeoutTaken (h.elapse _ _ hs))
  case suspendTimeout l => exact h.finish (h.suspendTimeoutTaken (h.elapse _ _ hs) _)
  case innerOperationTimeout => exact h.finish (h.innerTimeoutTaken (h.elapse _ _ hs))
  case arstPulseEnd => exact h.finish (h.endPulse (h.elapse _ _ hs))
  case frameCharacter v =>
    unfold takeFrameCharacter; split_ifs
    · exact hs
    · exact h.completeFrame hs _ hl
    · exact h.setup _ _ hs
  all_goals exact h.completeFrame hs _ hl

/-- The tick's effect outside reset keeps `P`. -/
theorem tickEffect : P (finish (Machine.takeLimits (Machine.elapse 1 s))) := h.finish (h.takeLimits (h.elapse _ _ hs))

theorem effectInReset (c : Instr) : P (effectInReset c s) := by
  unfold Machine.effectInReset; split
  · exact h.host _ _ hs
  · exact h.host _ _ hs
  · exact h.host _ _ hs
  · exact h.mc _ _ hs
  · exact hs

omit hs in
theorem beginStartUp (pins : ReleasePins)
    (hw : P { s with inReset := false, straps := pins.straps, time := 0 }) : P (beginStartUp pins s) := by
  have hc := h.claimCopyRead (h.portSame hw (s.port.released pins.aready) rfl rfl rfl id)
    { copy := .a, words := [], judgedA := none }
  unfold Machine.beginStartUp; dsimp only
  split_ifs
  · exact h.arrive hc _
  · exact hc

end Events

/-- A property of the state that every move keeps, that the outputs, the queue of commands, the removal of a fault record and
the release of RST# do not touch, and that reset restores, is kept by every step. -/
theorem Events.step_keeps {P : State → Prop} (h : Events P) (refreshed : ∀ s, P s → P (refresh s))
    (removed : ∀ s, P s → P (s.setLog s.log.removeOldest)) (taken : ∀ s q, P s → P (s.setPending q))
    (woken : ∀ s straps, P s → P { s with inReset := false, straps := straps, time := 0 })
    (reset : ∀ s, P s → P (resetPart s)) {s t : State} (hs : P s) (ht : step s = .next t) : P t := by
  rcases step_cases ht with ⟨-, rfl⟩ | ⟨c, rest, -, he⟩
  · unfold tick; split_ifs
    · exact hs
    · exact refreshed _ (h.tickEffect hs)
  · have hq := taken s rest hs
    generalize s.setPending rest = u at hq he
    obtain ⟨v, hv, hc⟩ := exec_cases c u
    obtain rfl : t = v := by rw [he] at hv; exact Host.Outcome.next.inj hv
    rcases hc with ⟨-, -, hc | hc⟩ | ⟨-, hc⟩ | hc | ⟨-, pins, hc⟩ <;> subst hc
    · exact hq
    · exact refreshed _ (h.effect hq c (removed _ hq))
    · exact h.effectInReset hq c
    · exact reset _ hq
    · exact refreshed _ (h.finish (h.beginStartUp pins (woken _ pins.straps hq)))

end Sys2Proof.Machine
end

