-- ==== Sys2Proof/Laws/Ops.lean ====
section
/-! SUPPORT. One lemma for each shared operation that says what it does, for the statements' proofs to cite in place of its
definition: completion of a host access, reports to the fault log, lanes of a word, region queues, claims, time limits,
setup frames and byte order. -/

namespace Sys2Proof.Machine

/-! ### Host port -/

/-- The access the host is held for completes: the port presents its outcome. -/
theorem completeAccess_held {s : State} {p : HostPins} (h : s.host = HostPort.holds p) (e : Bool) (d : Option Word) :
    completeAccess e d s = s.setHost (HostPort.presents p d e) := by
  unfold completeAccess; rw [h]; rfl

/-- Without an access in hand nothing completes. -/
theorem completeAccess_not_busy {s : State} (h : s.host.state ≠ .busy) (e : Bool) (d : Option Word) :
    completeAccess e d s = s := if_neg h

/-- Completion changes the host port only. -/
theorem completeAccess_eq (e : Bool) (d : Option Word) (s : State) : ∃ x, completeAccess e d s = s.setHost x := by
  unfold completeAccess; split_ifs
  · exact ⟨_, rfl⟩
  · exact ⟨_, rfl⟩
  · exact ⟨s.host, rfl⟩

/-! ### Fault log -/

/-- A report that does not merge is stored in a log with room, and only counted in a full one (R197, R199). -/
theorem FaultLog.take_form {l : FaultLog} {f : FaultReport} (h : f.merges = false) (tick : BitVec 32) :
    l.take f tick = l.form f tick := by
  unfold FaultLog.take; split
  · simp [h]
  · rfl

/-- A report that merges with the newest record changes that record alone (R198). -/
theorem FaultLog.take_merged {l : FaultLog} {f : FaultReport} {x : FaultRecord} (hx : l.records.getLast? = some x)
    (hm : f.merges = true) (hf : x.matches f = true) (tick : BitVec 32) :
    l.take f tick = { l with records := l.records.dropLast ++ [x.merged f tick] } := by
  unfold FaultLog.take; rw [hx]; simp [hm, hf]

/-- The oldest record goes, and the unstored count with the last one (R200). -/
theorem FaultLog.removeOldest_cons {l : FaultLog} {x : FaultRecord} {t : List FaultRecord} (h : l.records = x :: t) :
    l.removeOldest = { l with records := t, unstored := if t = [] then 0 else l.unstored } := by
  unfold FaultLog.removeOldest; rw [h]; cases t <;> simp

/-! ### Lanes -/

/-- A bit of an overlay: the new word's on the mask's lanes, the old word's elsewhere. -/
theorem overlay_getElem (m : LaneMask) (new old : Word) (i : Nat) (hi : i < 16) :
    (overlay m new old)[i] = if m.bits[i] then new[i] else old[i] := by
  unfold overlay
  simp only [BitVec.getElem_or, BitVec.getElem_and, BitVec.getElem_not]
  cases m.bits[i] <;> simp

/-- A bit of a union of masks. -/
theorem LaneMask.union_getElem (m n : LaneMask) (i : Nat) (hi : i < 16) :
    (m.union n).bits[i] = (m.bits[i] || n.bits[i]) := by
  revert i; cases m <;> cases n <;> decide

/-! ### Region queues -/

/-- The queues after a write coalesces (R23). -/
theorem coalesce_queue (r : Nat) (a : HostAddr) (m : LaneMask) (d : Word) (s : State) (r' : Nat) :
    (coalesce r a m d s).queue r' = if r' = r then
        (s.queue r).map fun e => if e.waits && e.addr == a then e.coalesced m d else e
      else s.queue r' := by
  unfold coalesce; rw [updateQueue_queue]
  split_ifs with h
  · subst h; unfold State.queue
    cases s.queues[r']? <;> rfl
  · rfl

/-- The queues after an entry is appended (R24). -/
theorem appendEntry_queue (r : Nat) (a : HostAddr) (m : LaneMask) (d : Word) (s : State) (hr : r < s.queues.length)
    (r' : Nat) :
    (appendEntry r a m d s).queue r' = if r' = r then s.queue r ++ [s.newEntry r a m d] else s.queue r' := by
  unfold appendEntry; rw [updateQueue_queue]
  split_ifs with h
  · subst h; unfold State.queue
    rw [List.getElem?_eq_getElem hr]; rfl
  · rfl

/-- The queues after entries are removed from one (R38, R41 to R44). -/
theorem keepEntries_queue (r : Nat) (keep : Entry → Bool) (s : State) (r' : Nat) :
    (keepEntries r keep s).queue r' = if r' = r then (s.queue r).filter keep else s.queue r' := by
  unfold keepEntries; rw [updateQueue_queue]
  split_ifs with h
  · subst h; unfold State.queue
    cases s.queues[r']? <;> rfl
  · rfl

/-! ### Claims and time limits -/

/-- A host claim in a FREE port is granted at once (R95). -/
theorem raiseHostClaim_free {s : State} (o : ArrayOp) (h : s.port.state = .free) (ho : o.kind ≠ .erase) :
    raiseHostClaim o s = issueOp o (s.setPort { s.port with hostClaim := some o }) := by
  have hg : grant (s.setPort { s.port with hostClaim := some o })
      = issueOp o (s.setPort { s.port with hostClaim := some o }) := by
    unfold grant; simp [h]
  unfold raiseHostClaim; rw [hg]
  have hk : o.kind = .read ∨ o.kind = .program := by cases hk : o.kind <;> simp_all
  have he : (issueOp o (s.setPort { s.port with hostClaim := some o })).eraseRunning = false := by
    unfold issueOp readIssued State.eraseRunning; dsimp only
    split_ifs <;> rcases hk with hk | hk <;> simp [hk]
  unfold considerSuspend; simp [he]

/-- A host claim that meets a port at work, with no ERASE running, waits (R96). -/
theorem raiseHostClaim_waits {s : State} (o : ArrayOp) (h : s.port.state ≠ .free) (he : s.eraseRunning = false) :
    raiseHostClaim o s = s.setPort { s.port with hostClaim := some o } := by
  have hg : grant (s.setPort { s.port with hostClaim := some o }) = s.setPort { s.port with hostClaim := some o } :=
    if_neg h
  unfold raiseHostClaim; rw [hg]
  have he' : (s.setPort { s.port with hostClaim := some o }).eraseRunning = false := he
  unfold considerSuspend; simp [he']

/-- A first timeout (R103 to R106): reported, the operations abandoned, ARST# pulsed, the port FREE for the outcome. -/
theorem timeout_first (reason : FaultReason) (psec : Nat) (f : State → State) {s : State} (h : s.port.consecutive = 0) :
    timeout reason psec f s =
      (let u := report { kind := .arrayTimeout, psec := some psec, reason := some reason } s
       let v := freePort (abandonOps (u.setPort { u.port with consecutive := 1 }))
       f (v.setPort { v.port with arst := .pulse, arstTimer := 0 })) := by
  unfold timeout report; simp [h]

/-- A second timeout in a row: reported, then ARRAY_LOST, and the part is OFFLINE (R106, R107). -/
theorem timeout_second (reason : FaultReason) (psec : Nat) (f : State → State) {s : State} (h : s.port.consecutive = 1) :
    timeout reason psec f s =
      (let u := report { kind := .arrayTimeout, psec := some psec, reason := some reason } s
       enterOffline (report { kind := .arrayLost } (u.setPort { u.port with consecutive := 2 }))) := by
  unfold timeout report; simp [h]

/-! ### Setup frames -/

/-- A frame that completes while the part listens is executed at once (R176). -/
theorem completeFrame_listens {s : State} (h : s.Listens) (f : SetupFrame) :
    completeFrame f s = executeFrame f .selected (s.setSetup s.setup.dropPart) := by
  obtain ⟨-, hsel, htx⟩ := h
  have htx' : (s.setSetup s.setup.dropPart).setup.tx = .quiet := htx
  have hsel' : (s.setSetup s.setup.dropPart).setup.selection = .selected := hsel
  unfold completeFrame; rw [if_neg (by simp [hsel])]; dsimp only
  rw [if_pos htx', hsel']

/-- The code of a setup command names it (R178). -/
theorem commandOf_code (c : SetupCommand) : commandOf c.code = some c := by cases c <;> rfl

/-- A setup command's frame passes the tests before the command's own when its mode and length suit (R178). -/
theorem executeFrame_command (c : SetupCommand) {p : List Byte} (sel : Selection) {s : State} (hp : p.length ≤ 250)
    (hb : sel = .broadcast → c.broadcastActs = true) (hm : c.allowedIn s.mc.mode = true)
    (hl : c.lengthSuits p.length = true) :
    executeFrame (goodFrame c.code p) sel s = answer sel (runCommand c p s).1 (runCommand c p s).2 := by
  have h1 : ¬(payloadLimit < p.length) := by unfold payloadLimit; omega
  have h2 : p.take payloadLimit = p := List.take_of_length_le (by unfold payloadLimit; omega)
  have h3 : ¬(sel = .broadcast ∧ (!c.broadcastActs) = true) := by rintro ⟨a, b⟩; simp [hb a] at b
  unfold executeFrame goodFrame; simp only [Bool.not_true, Bool.false_eq_true, if_false, h1, commandOf_code, h2]
  unfold executeCommand; simp only [if_neg h3, hm, hl, Bool.not_true, Bool.false_eq_true, if_false]

/-! ### Byte order -/

/-- n bytes of a value are n. -/
@[simp] theorem leBytes_length (n x : Nat) : (leBytes n x).length = n := by
  induction n generalizing x with
  | zero => rfl
  | succ n ih => simp [leBytes, ih]

/-- A value that fits its bytes is read back from them (R216). -/
theorem leNat_leBytes (n x : Nat) (h : x < 256 ^ n) : leNat (leBytes n x) = x := by
  induction n generalizing x with
  | zero => simp [leBytes, leNat] at *; omega
  | succ n ih =>
    have hx : x / 256 < 256 ^ n := by
      rw [Nat.div_lt_iff_lt_mul (by omega)]; rwa [Nat.pow_succ] at h
    simp [leBytes, leNat, ih _ hx]; omega

end Sys2Proof.Machine
end

