-- ==== Sys2Proof/Laws/PerInstr.lean ====
section
/-! SUPPORT. A family of statements over the commands, one lemma for each: the frame that a well-formed command completes
is one that the receiver can complete (R173). -/

namespace Sys2Proof.Laws

open Machine

/-- The frame whose completion a command is (log entry 7); `none` for a command that is no frame. -/
def frameOf : Instr → Option SetupFrame
  | .ident p => some (goodFrame 0x01 p)
  | .status p => some (goodFrame 0x02 p)
  | .faultRead p => some (goodFrame 0x03 p)
  | .setupRead p => some (goodFrame 0x04 p)
  | .remapRead p => some (goodFrame 0x05 p)
  | .flush p => some (goodFrame 0x10 p)
  | .purge p => some (goodFrame 0x11 p)
  | .hold p => some (goodFrame 0x12 p)
  | .release p => some (goodFrame 0x13 p)
  | .setupLoad p => some (goodFrame 0x20 p)
  | .setupStore p => some (goodFrame 0x21 p)
  | .protect p => some (goodFrame 0x22 p)
  | .sectorErase p => some (goodFrame 0x23 p)
  | .arrayClear p => some (goodFrame 0x24 p)
  | .unknownCommand code p => some (goodFrame code p)
  | .frameBuffered f => some f
  | .checkErrorFrame code p => some (badCheckFrame code p)
  | .frameLength code length p => some (overlongFrame code length p)
  | .hostAccessArrival _ | .hostSelectRelease | .reset | .resetRelease _ | .flushLevelChange _ | .stsclkRisingEdge
  | .addressCharacter _ | .framingError | .breakDetected | .gapTimeout | .replyStart | .replyEnd | .stallLimitExpiry
  | .regionAgeLimit _ | .arrayReadEnd _ | .arrayProgramEnd _ | .arrayEraseEnd _ | .suspendAcknowledgement
  | .operationTimeout | .suspendTimeout _ | .innerOperationTimeout | .arstPulseEnd | .frameCharacter _
  | .hostSelectWhileBusy _ => none

/-- The frame of a well-formed command is well-formed. -/
def FrameFits.Statement (i : Instr) : Prop := i.wellFormed = true → ∀ f, frameOf i = some f → f.wellFormed = true

/-- A frame with a payload that the receiver holds whole. -/
theorem goodFrame_fits {code : Byte} {p : List Byte} {c : Bool} (h : payloadFits p = true) :
    SetupFrame.wellFormed { goodFrame code p with sumZero := c } = true := by
  have h250 : p.length ≤ 250 := of_decide_eq_true h
  refine decide_eq_true ⟨?_, ?_⟩
  · show p.length ≤ 255; omega
  · show (p.take 250).length = min p.length 250; rw [List.length_take]; omega

namespace FrameFits

/-- A command that is no frame. -/
theorem of_none {i : Instr} (h : frameOf i = none) : Statement i := fun _ f hf => by rw [h] at hf; cases hf

/-- A command whose frame is a good one, or one with a bad check. -/
theorem of_good {i : Instr} {code : Byte} {p : List Byte} {c : Bool}
    (h : frameOf i = some { goodFrame code p with sumZero := c }) (hw : i.wellFormed = true → payloadFits p = true) :
    Statement i := fun hi f hf => by
  rw [h] at hf; cases hf; exact goodFrame_fits (hw hi)

theorem hostAccessArrival (p : HostPins) : Statement (.hostAccessArrival p) := of_none rfl
theorem hostSelectRelease : Statement .hostSelectRelease := of_none rfl
theorem reset : Statement .reset := of_none rfl
theorem resetRelease (x : ReleasePins) : Statement (.resetRelease x) := of_none rfl
theorem flushLevelChange (b : Bool) : Statement (.flushLevelChange b) := of_none rfl
theorem stsclkRisingEdge : Statement .stsclkRisingEdge := of_none rfl
theorem addressCharacter (v : Byte) : Statement (.addressCharacter v) := of_none rfl
theorem framingError : Statement .framingError := of_none rfl
theorem breakDetected : Statement .breakDetected := of_none rfl
theorem gapTimeout : Statement .gapTimeout := of_none rfl
theorem replyStart : Statement .replyStart := of_none rfl
theorem replyEnd : Statement .replyEnd := of_none rfl
theorem stallLimitExpiry : Statement .stallLimitExpiry := of_none rfl
theorem regionAgeLimit (r : BitVec 4) : Statement (.regionAgeLimit r) := of_none rfl
theorem arrayReadEnd (w : Word) : Statement (.arrayReadEnd w) := of_none rfl
theorem arrayProgramEnd (b : Bool) : Statement (.arrayProgramEnd b) := of_none rfl
theorem arrayEraseEnd (b : Bool) : Statement (.arrayEraseEnd b) := of_none rfl
theorem suspendAcknowledgement : Statement .suspendAcknowledgement := of_none rfl
theorem operationTimeout : Statement .operationTimeout := of_none rfl
theorem suspendTimeout (l : SuspendLimit) : Statement (.suspendTimeout l) := of_none rfl
theorem innerOperationTimeout : Statement .innerOperationTimeout := of_none rfl
theorem arstPulseEnd : Statement .arstPulseEnd := of_none rfl
theorem frameCharacter (v : Byte) : Statement (.frameCharacter v) := of_none rfl
theorem hostSelectWhileBusy (p : HostPins) : Statement (.hostSelectWhileBusy p) := of_none rfl
theorem ident (p : List Byte) : Statement (.ident p) := of_good (p := p) (c := true) rfl id
theorem status (p : List Byte) : Statement (.status p) := of_good (p := p) (c := true) rfl id
theorem faultRead (p : List Byte) : Statement (.faultRead p) := of_good (p := p) (c := true) rfl id
theorem setupRead (p : List Byte) : Statement (.setupRead p) := of_good (p := p) (c := true) rfl id
theorem remapRead (p : List Byte) : Statement (.remapRead p) := of_good (p := p) (c := true) rfl id
theorem flush (p : List Byte) : Statement (.flush p) := of_good (p := p) (c := true) rfl id
theorem purge (p : List Byte) : Statement (.purge p) := of_good (p := p) (c := true) rfl id
theorem hold (p : List Byte) : Statement (.hold p) := of_good (p := p) (c := true) rfl id
theorem release (p : List Byte) : Statement (.release p) := of_good (p := p) (c := true) rfl id
theorem setupLoad (p : List Byte) : Statement (.setupLoad p) := of_good (p := p) (c := true) rfl id
theorem setupStore (p : List Byte) : Statement (.setupStore p) := of_good (p := p) (c := true) rfl id
theorem protect (p : List Byte) : Statement (.protect p) := of_good (p := p) (c := true) rfl id
theorem sectorErase (p : List Byte) : Statement (.sectorErase p) := of_good (p := p) (c := true) rfl id
theorem arrayClear (p : List Byte) : Statement (.arrayClear p) := of_good (p := p) (c := true) rfl id
theorem unknownCommand (code : Byte) (p : List Byte) : Statement (.unknownCommand code p) :=
  of_good (p := p) (c := true) rfl fun h => (Bool.and_eq_true _ _ ▸ h).2
theorem checkErrorFrame (code : Byte) (p : List Byte) : Statement (.checkErrorFrame code p) :=
  of_good (p := p) (c := false) rfl id
theorem frameBuffered (f : SetupFrame) : Statement (.frameBuffered f) := fun hi _ hf => by cases hf; exact hi
theorem frameLength (code length : Byte) (p : List Byte) : Statement (.frameLength code length p) := fun hi f hf => by
  cases hf
  have hb := length.isLt
  obtain ⟨h1, h2⟩ := (Bool.and_eq_true _ _ ▸ hi : _ ∧ _)
  have hl : 250 < length.toNat := of_decide_eq_true h1
  have hp : p.length = 250 := of_decide_eq_true h2
  refine decide_eq_true ⟨?_, ?_⟩
  · show length.toNat ≤ 255; omega
  · show (p.take 250).length = min length.toNat 250; rw [List.length_take]; omega

end FrameFits

end Sys2Proof.Laws
end

