-- ==== Sys2Proof/Tests/Slice0.lean ====
section
/-! SUPPORT. The model's own tests: well-formedness refuses what it should, each statement's hypotheses are met by a concrete
state, and single steps give what the data sheet's tables and worked examples say. -/

namespace Sys2Proof.Tests

open Machine

-- One theorem after another: each is small, and together their threads would pass the memory limit.
set_option Elab.async false

/-! ### Small states -/

/-- Three regions over W = 1020 sectors: STAGED with one block, DIRECT, READONLY. -/
def image : SetupImage :=
  { version := 1, spares := 2, suspendLimit := 1
    regions := [
      { first := 0, count := 500, policy := .staged, blocks := 1, af := 16, ageCode := 1, stallLimit := 5 },
      { first := 500, count := 100, policy := .direct, blocks := 0, af := 0, ageCode := 0, stallLimit := 1 },
      { first := 600, count := 420, policy := .readonly, blocks := 0, af := 0, ageCode := 0, stallLimit := 1 }] }

/-- The part in RUN under `image`, every block at rest. -/
def running : State :=
  { State.reset with
    inReset := false, image := some image, queues := emptyQueues image
    port := { ArrayPort.reset with arst := .inactive }
    stream := { running := true, position := none, sts := 0, stsync := false }
    mc := { State.reset.mc with mode := .run, drained := true } }

/-- The part in a device mode. -/
def inMode (m : Mode) (s : State) : State := s.setMc { s.mc with mode := m }

/-- The part SELECTED. -/
def selected (s : State) : State := s.setSetup { s.setup with selection := .selected }

/-- The part in RUN and listening to the setup line. -/
def listening : State := selected running

/-- Host pins of a read. -/
def readPins (a : HostAddr) : HostPins := { addr := a, write := false, lane0 := true, lane1 := true, data := 0 }

/-- Host pins of a write. -/
def writePins (a : HostAddr) (l0 l1 : Bool) (d : Word) : HostPins :=
  { addr := a, write := true, lane0 := l0, lane1 := l1, data := d }

/-- A WAITING entry of region 0, stamped 0. -/
def entry (a : HostAddr) (d : Word) (m : LaneMask) : Entry :=
  { addr := a, data := d, mask := m, state := .waiting, stamp := 0, region := 0 }

/-- The entry as a gather leaves it. -/
def gathered (e : Entry) : Entry := { e with state := .committing }

/-- Region 0 holds these entries. -/
def holding (es : List Entry) (s : State) : State := updateQueue 0 (fun q => { q with entries := es }) s

/-- Sixty-four WAITING entries: region 0's capacity. -/
def full : List Entry := (List.range 64).map fun k => entry (BitVec.ofNat 21 k) 0 .both

/-- The host is held for an access. -/
def held (p : HostPins) (s : State) : State := s.setHost (HostPort.holds p)

/-- A write stalled on region 0's full queue. -/
def stalled : State :=
  (held (writePins 0x64 true true 0x1234) (holding full running)).setStall
    (some { region := 0, addr := 0x64, mask := .both, data := 0x1234, timer := 0 })

/-- An operation issued to the array. -/
def issued (o : ArrayOp) (timer : Nat) : RunningOp := { op := o, timer := timer, issued := true }

/-- The erase of physical sector 5 for a commit. -/
def eraseOp : ArrayOp := { kind := .erase, psec := 5, offset := 0, value := 0, issuer := .engine }

/-- A commit's erase of sector 5 running, its merge buffer valid with one word to write back. -/
def erasing (attempts : Nat) : State :=
  (running.setEngine { running.engine with
    phase := .erase, item := .regionCommit, itemRegion := some 0, itemSector := some 5, itemPhys := some 5
    path := some .load, mergeSector := some 5, mergeValid := true, eraseAttempts := attempts
    merge := (Vector.replicate 2048 0xFFFF#16).set 0 0x1234 }).setPort
  { running.port with state := .running, op := some (issued eraseOp 0), engClaim := some eraseOp }

/-- A read of a word of sector 6. -/
def read6 : ReadAccess := { addr := 0x3000, region := 0, policy := .staged, psec := 6 }

/-- That read in READING. -/
def reading (s : State) : State :=
  (held (readPins 0x3000) s).setReader { state := .reading, access := some read6 }

/-- The READ of a host read running. -/
def readRunning (timer consecutive : Nat) : State :=
  (reading running).setPort { running.port with
    state := .running, op := some (issued read6.op timer), hostClaim := some read6.op, consecutive := consecutive }

/-- The erase suspended for the read. -/
def suspended : State :=
  (reading (erasing 1)).setPort { (erasing 1).port with
    state := .suspended, hostClaim := some read6.op, inner := some (issued read6.op 0) }

/-- The erase under SUSPEND for the read. -/
def suspending : State :=
  ((held (readPins 0x3000) (erasing 1)).setReader { state := .portWait, access := some read6 }).setPort
    { (erasing 1).port with state := .suspending, hostClaim := some read6.op }

/-- A direct write to sector 500 with its attempts. -/
def direct (attempts : Nat) : DirectWrite :=
  { region := 1, addr := 0xFA000, psec := 500, value := 0x00FF, attempts := attempts, held := false }

/-- The PROGRAM of that write running. -/
def programming (attempts : Nat) : State :=
  (held (writePins 0xFA000 true true 0x00FF) running).setPort { running.port with
    state := .running, op := some (issued (direct attempts).op 0), hostClaim := some (direct attempts).op
    direct := some (direct attempts) }

/-- An ERASE_JOB of sector 500 running. -/
def jobRunning : State :=
  (running.setEngine { running.engine with
    phase := .jobErase, item := .eraseJob, itemSector := some 500, itemPhys := some 500, jobPending := true
    jobSector := some 500, eraseAttempts := 1 }).setPort
  { running.port with state := .running, op := some (issued { eraseOp with psec := 500 } 0)
                      engClaim := some { eraseOp with psec := 500 } }

/-- The engine runs an operation for an item. -/
def working (e : Engine) (o : ArrayOp) (s : State) : State :=
  (s.setEngine e).setPort { s.port with state := .running, op := some (issued o 0), engClaim := some o }

/-- The engine in a phase of an item on logical sector x in physical sector q. -/
def onSector (phase : Phase) (item : WorkItem) (x q : Nat) : Engine :=
  { Engine.reset with phase := phase, item := item, itemSector := some x, itemPhys := some q, eraseAttempts := 1 }

/-- A CLEAR_STEP's ERASE of sector x running. -/
def clearing (x : Nat) : State :=
  working (onSector .clearErase .clearStep x x) (engineOp .erase x 0 0) (inMode .clearing running)

/-- A CONTROL_UPDATE of copy B with a record of two words, at its word k. -/
def updating (phase : Phase) (k : Nat) (o : ArrayOp) (try2 : Bool) : State :=
  working { onSector phase .controlUpdate 0 1023 with
    itemSector := none, record := [0x47DA, 0x0001], recordGen := 1, cursor := k, try2 := try2 } o running

/-- The READ of offset 2047 that ends the LOAD of sector 5, with these gathered entries. -/
def loading (bound : Bool) (es : List GatheredEntry) : State :=
  working { onSector .load .regionCommit 5 5 with
    itemRegion := some 0, path := some .load, mergeSector := some 5, cursor := 2047, gathered := es
    boundReloc := bound, entryCount := 33 } (engineOp .read 5 2047 0) running

/-- A gathered entry of the last word of sector 5. -/
def lastWord (d : Word) : GatheredEntry :=
  { addr := 0x2FFF, data := d, mask := .both, old := none, differs := false, released := false }

/-- An item with a spare on trial in RELOCATE. -/
def trying (item : WorkItem) (x i : Nat) (o : ArrayOp) (s : State) : State :=
  working { onSector .relocate item x (1021 - i) with
    spareOnTrial := some i, itemRegion := some 0, eraseAttempts := 3, programAttempts := 2 } o s

/-- The entries of the example of section 4.11, in sector 250, WAITING in region 0. -/
def example411 : List Entry := [entry 0x7D004 0x0F0F .both, entry 0x7D005 0xFF00 .low, entry 0x7D006 0xA5A5 .both]

/-- Those entries in a gathered set: with these old words, and which of them are released. -/
def gathered411 (olds : List (Option Word)) (released : List Bool) : List GatheredEntry :=
  List.zipWith (fun (e : Entry) (x : Option Word × Bool) =>
    { addr := e.addr, data := e.data, mask := e.mask, old := x.1
      differs := x.1.any fun w => overlay e.mask e.data w != w, released := x.2 }) example411 (olds.zip released)

/-- That commit on the GATHER path in a phase, with its entries in the queue that are not released yet. -/
def commit411 (phase : Phase) (attempts : Nat) (gs : List GatheredEntry) (o : ArrayOp) : State :=
  working { onSector phase .regionCommit 250 250 with
    itemRegion := some 0, path := some .gather, gathered := gs, programAttempts := attempts, entryCount := 3 } o
  (holding ((example411.filter fun e => gs.any fun g => g.addr == e.addr && !g.released).map gathered) running)

/-- The READ of the last entry's old word, the first two being read. -/
def gathering411 (c : Option Word) : State :=
  commit411 .gather 0 (gathered411 [some 0x0F3F, some 0x12FF, c] [false, false, false]) (engineOp .read 250 6 0)

/-- The PROGRAM of b, entry a being released. -/
def programming411 (attempts : Nat) : State :=
  commit411 .program attempts (gathered411 [some 0x0F3F, some 0x12FF, some 0xA5A5] [true, false, false])
    (engineOp .program 250 5 0x1200)

/-- PROGRAM on the LOAD path at an offset, two words being changed: offsets 3 and 2047 of sector 5. -/
def loaded (o : Nat) : State :=
  working { onSector .program .regionCommit 5 5 with
    itemRegion := some 0, path := some .load, mergeSector := some 5, mergeValid := true, programAttempts := 1
    gathered := [{ lastWord 0 with addr := 0x2803, differs := true }, { lastWord 0 with differs := true }] }
  (engineOp .program 5 o 0) running

/-- The port's operation has run for `timer` ticks, `consecutive` timeouts before it. -/
def timed (o : ArrayOp) (timer consecutive : Nat) (s : State) : State :=
  s.setPort { s.port with op := some (issued o timer), consecutive := consecutive }

/-- The part under BROADCAST. -/
def broadcasting (s : State) : State := s.setSetup { s.setup with selection := .broadcast }

/-- A complete frame but its check character. -/
def checking (code : Byte) (length : Nat) (payload : List Byte) (sum : Byte) : State :=
  running.setSetup { running.setup with
    selection := .selected, rx := .waitCheck, gapTimer := some 0
    part := { command := code, length := length, payload := payload, taken := length, sum := sum } }

/-- Start-up reads the next word of a copy. -/
def readingCopy (u : StartUp) : State :=
  { running with
    image := none, queues := [], startup := some u, mc := State.reset.mc, stream := State.reset.stream
    port := { running.port with
      state := .running
      op := some (issued
        { kind := .read, psec := copySector u.copy, offset := u.words.length, value := 0, issuer := .startUp } 0) } }

/-- The state that a command leads to. -/
def after (c : Instr) (s : State) : State :=
  match exec c s with
  | .next t => t
  | _ => s

/-! ### Well-formedness refuses -/

theorem test_wf_buffered_length : (Instr.frameBuffered ⟨0x01, 256, List.replicate 250 0, true⟩).wellFormed = false := by
  decide +kernel
theorem test_wf_buffered_payload : (Instr.frameBuffered ⟨0x01, 2, [0], true⟩).wellFormed = false := by decide +kernel
theorem test_wf_payload : ∀ p ∈ [List.replicate 251 (0 : Byte)],
    ((Instr.ident p).wellFormed || (Instr.status p).wellFormed || (Instr.faultRead p).wellFormed
      || (Instr.setupRead p).wellFormed || (Instr.remapRead p).wellFormed || (Instr.flush p).wellFormed
      || (Instr.purge p).wellFormed || (Instr.hold p).wellFormed || (Instr.release p).wellFormed
      || (Instr.setupLoad p).wellFormed || (Instr.setupStore p).wellFormed || (Instr.protect p).wellFormed
      || (Instr.sectorErase p).wellFormed || (Instr.arrayClear p).wellFormed
      || (Instr.checkErrorFrame 0x01 p).wellFormed) = false := by decide +kernel
theorem test_wf_unknown_code : (Instr.unknownCommand 0x24 []).wellFormed = false := by decide +kernel
theorem test_wf_unknown_payload : (Instr.unknownCommand 0x25 (List.replicate 251 0)).wellFormed = false := by decide +kernel
theorem test_wf_frame_length : (Instr.frameLength 0x01 250 (List.replicate 250 0)).wellFormed = false := by decide +kernel
theorem test_wf_frame_held : (Instr.frameLength 0x01 251 (List.replicate 249 0)).wellFormed = false := by decide +kernel
theorem test_wf_accepts : (Instr.frameLength 0x01 251 (List.replicate 250 0)).wellFormed = true
    ∧ (Instr.setupLoad (List.replicate 250 0)).wellFormed = true
    ∧ (Instr.unknownCommand 0x25 []).wellFormed = true := by decide +kernel

/-! ### Witnesses of the statements' hypotheses -/

theorem witness_StepRunsFrontCommand : (running.setPending [.reset, .ident []]).pending = .reset :: [.ident []] := rfl

theorem witness_IdleStepIsOneTick : (State.reset.pending = [] ∧ State.reset.inReset = true)
    ∧ running.pending = [] ∧ running.inReset = false := by decide

/-- A sector of a phase that loses it, a sector not worked on, the PROGRAM of a record abandoned in CONTROL_WRITE, the ERASE of
a job and of a control copy abandoned, and a PROGRAM abandoned inside a suspension. -/
theorem witness_ResetReturnsToResetValues :
    ((erasing 1).engine.itemPhys = some (10240 / 2048) ∧ (erasing 1).engine.phase = .erase
      ∧ (erasing 1).port.op = some (issued eraseOp 0) ∧ (erasing 1).port.inner = none ∧ 12288 / 2048 ≠ 5)
    ∧ (let s := updating .controlWrite 1 (engineOp .program 1023 1 0x0001) false
       s.engine.phase ∉ [Phase.erase, .writeback, .relocate, .jobErase, .clearErase, .controlErase]
         ∧ s.port.op = some (issued (engineOp .program 1023 1 0x0001) 0) ∧ s.port.inner = none)
    ∧ (jobRunning.engine.itemPhys = some 500 ∧ jobRunning.port.op = some (issued (engineOp .erase 500 0 0) 0))
    ∧ (let s := (erasing 1).setPort { (erasing 1).port with
         state := .suspended, hostClaim := some (direct 1).op, inner := some (issued (direct 1).op 0) }
       s.port.op = some (issued eraseOp 0) ∧ s.port.inner = some (issued (direct 1).op 0)
         ∧ (direct 1).op.kind = .program ∧ (direct 1).op.word / 2048 = 500) :=
  ⟨by decide, by decide, by decide, by decide⟩

theorem witness_NothingElseActsInReset : State.reset.inReset = true ∧ Instr.ident [] ≠ .reset
    ∧ ∀ pins, Instr.ident [] ≠ .resetRelease pins := ⟨rfl, by decide, fun _ h => by cases h⟩

theorem witness_StepKeepsResetHolds : running.heldInReset.ResetHolds ∧ running.heldInReset.inReset = true
    ∧ ∃ t, step running.heldInReset = .next t := ⟨fun _ => rfl, rfl, _, rfl⟩

theorem witness_StepKeepsOutputsTrack : running.OutputsTrack ∧ ∃ t, step running = .next t :=
  ⟨⟨by decide, by decide⟩, _, rfl⟩

/-- The log at its limits: 32 records, 255 unstored. -/
def fullLog : FaultLog :=
  { records := List.replicate 32 { seq := 0, first := 0, last := 0, report := { kind := .arrayLost } }
    unstored := 255, nextSeq := 7, attn := true }

theorem witness_StepKeepsFaultLogLawful : (running.setLog fullLog).log.Lawful
    ∧ ∃ t, step (running.setLog fullLog) = .next t :=
  ⟨⟨by decide, by decide, fun _ => by decide⟩, _, rfl⟩

theorem witness_StepKeepsStoreLawful : (holding [entry 0x20 0xFF56 .low] running).StoreLawful
    ∧ ∃ t, step (holding [entry 0x20 0xFF56 .low] running) = .next t := by
  refine ⟨fun r => ?_, _, rfl⟩
  rcases r with _ | _ | _ | r
  · exact ⟨by decide, fun e he => by cases he with
      | head => exact ⟨rfl, by decide⟩
      | tail _ h => cases h⟩
  · exact ⟨by decide, fun e he => by cases he⟩
  · exact ⟨by decide, fun e he => by cases he⟩
  · exact ⟨Nat.zero_le _, fun e he => by cases he⟩

/-- A partial frame in hand, a reply being sent and a frame buffered. -/
def receiving : State := running.setSetup
  { selection := .selected, rx := .payload, part := { PartialFrame.empty with command := 0x11, length := 1, sum := 0x12 }
    gapTimer := some 4, buffer := some { frame := goodFrame 0x01 [], selection := .broadcast }
    tx := .sending, reply := some (plainReply codeOk) }

theorem witness_StepKeepsSetupPortLawful : receiving.setup.Lawful ∧ ∃ t, step receiving = .next t :=
  ⟨⟨by decide, by decide, by decide, by decide, fun b hb => by cases hb; exact ⟨by decide, by decide⟩⟩, _, rfl⟩

theorem suspended_lawful : suspended.port.Lawful :=
  ⟨fun o ho => by cases ho; rfl, fun o ho => by cases ho; rfl, by decide, by decide⟩

theorem witness_StepKeepsPortLawful : suspended.PortLawful ∧ suspended.ReaderLawful ∧ ∃ t, step suspended = .next t :=
  ⟨⟨suspended_lawful, by decide, by decide, by decide⟩, by unfold State.ReaderLawful; decide, _, rfl⟩

theorem witness_StepKeepsFlashCanonical :
    (running.setFlash { erased := [3, 5], words := [(6144, { known := 0xFFFF, value := 0 })] }).flash.wf
    ∧ ∃ t, step (running.setFlash { erased := [3, 5], words := [(6144, { known := 0xFFFF, value := 0 })] }) = .next t :=
  ⟨by decide, _, rfl⟩

/-- The part listens: the hypothesis of IdentReplies and of RefusedFramesChangeNothing. -/
theorem witness_IdentReplies : listening.Listens := ⟨rfl, rfl, rfl⟩

theorem witness_SetupReadAndRemapReadReply : listening.Listens ∧ listening.image.isSome = true := ⟨⟨rfl, rfl, rfl⟩, rfl⟩

theorem witness_StatusReplies : listening.Listens ∧ 0 < listening.regions.length ∧ 2 < listening.regions.length :=
  ⟨⟨rfl, rfl, rfl⟩, by decide⟩

theorem witness_FaultReadRemovesOldest : (listening.Listens ∧ listening.log.records = [])
    ∧ (listening.setLog fullLog).Listens
    ∧ (listening.setLog fullLog).log.records = { seq := 0, first := 0, last := 0, report := { kind := .arrayLost } }
        :: List.replicate 31 { seq := 0, first := 0, last := 0, report := { kind := .arrayLost } } :=
  ⟨⟨⟨rfl, rfl, rfl⟩, rfl⟩, ⟨rfl, rfl, rfl⟩, rfl⟩

/-- Region 2 is the last of three, and region 3 is none, under SELECTED and under BROADCAST. -/
theorem witness_FlushMarksRegions : ∀ s ∈ [listening, broadcasting running], s.Hears ∧ s.host.reselect = false
    ∧ s.mc.mode = .run ∧ (0xFF#8).toNat = 255 ∧ (2#8).toNat < s.regions.length
    ∧ ¬((3#8).toNat = 255 ∨ (3#8).toNat < s.regions.length) ∧ s.inReset = false := by
  unfold State.Hears; decide

theorem witness_PurgeDiscardsWaitingEntries :
    ((selected stalled).Listens ∧ (selected stalled).host.reselect = false ∧ (selected stalled).mc.mode = .run
      ∧ (0#8).toNat < (selected stalled).regions.length ∧ (0#8).toNat < (selected stalled).queues.length
      ∧ (selected stalled).stall = some { region := 0, addr := 0x64, mask := .both, data := 0x1234, timer := 0 }
      ∧ (((selected stalled).queue 0).filter fun e => !e.waits).length < (selected stalled).capacity 0
      ∧ (selected stalled).host = HostPort.holds (writePins 0x64 true true 0x1234))
    ∧ listening.Listens ∧ listening.host.reselect = false ∧ listening.mc.mode = .run ∧ listening.stall = none
    ∧ (2#8).toNat < listening.regions.length ∧ ¬(3#8).toNat < listening.regions.length :=
  ⟨⟨⟨rfl, rfl, rfl⟩, by decide⟩, ⟨rfl, rfl, rfl⟩, by decide⟩

theorem witness_HoldOpensHolding : ∀ s ∈ [selected stalled, broadcasting stalled, broadcasting running],
    s.Hears ∧ s.mc.mode = .run ∧ s.host.reselect = false ∧ s.reader.state ≠ .eraseHold ∧ s.port.direct = none := by
  unfold State.Hears; decide +kernel

theorem witness_ReleaseReturnsToRun : ∀ m ∈ [Mode.held, .holding], ∀ s ∈ [inMode m listening, inMode m (broadcasting running)],
    s.Hears ∧ (s.mc.mode = .holding ∨ s.mc.mode = .held) ∧ s.host.reselect = false := by
  unfold State.Hears; decide

theorem witness_SetupLoadAppliesValidImages : (inMode .held listening).Listens
    ∧ (inMode .held listening).host.reselect = false ∧ (encodeImage image).length ≤ 250
    ∧ validateImage (inMode .held listening).sparesRefused (encodeImage image) = .valid image
    ∧ validateImage (inMode .held listening).sparesRefused [] = .invalid .imageLength none :=
  ⟨⟨rfl, rfl, rfl⟩, rfl, by decide, by decide, by decide⟩

theorem witness_SetupStoreAsksForControlUpdate : listening.Listens ∧ listening.mc.mode = .run
    ∧ listening.host.reselect = false ∧ listening.engine.phase = .idle ∧ listening.engine.stopped = false
    ∧ listening.cru.generation < 0xFFFFFFFE ∧ listening.image = some image
    ∧ (let s := listening.setCru { listening.cru with generation := 0xFFFFFFFE }
       0xFFFFFFFE ≤ s.cru.generation ∧ s.Listens ∧ s.engine.phase = .idle ∧ s.port.direct = none)
    ∧ (selected (erasing 1)).Listens ∧ (selected (erasing 1)).maySelect = false := by
  refine ⟨⟨rfl, rfl, rfl⟩, by decide, by decide, by decide, by decide, by decide, rfl,
    ⟨by decide, ⟨rfl, rfl, rfl⟩, by decide, rfl⟩, ⟨rfl, rfl, rfl⟩, by decide⟩

theorem witness_ProtectAddsRange : listening.Listens ∧ listening.mc.mode = .run ∧ listening.host.reselect = false
    ∧ (¬ listening.window ≤ 1019 + 1 - 1 ∧ listening.window ≤ 1020 + 1 - 1)
    ∧ 7 ≤ (List.replicate 7 ({ first := 0, count := 1 } : ProtRange)).length
    ∧ ¬ 8 ≤ listening.map.protection.length := ⟨⟨rfl, rfl, rfl⟩, by decide⟩

theorem witness_SectorEraseAcceptsJob : listening.Listens ∧ listening.mc.mode = .run ∧ listening.host.reselect = false
    ∧ listening.engine.jobPending = false ∧ ¬ listening.window ≤ 500 ∧ listening.inDirect 500 = true
    ∧ listening.map.protects 500 = false ∧ listening.map.translate 500 ≠ none ∧ listening.maySelect = true
    ∧ listening.cru.updatePending = false ∧ listening.window ≤ 1020 ∧ listening.inDirect 499 = false :=
  ⟨⟨rfl, rfl, rfl⟩, by decide⟩

theorem witness_ArrayClearEntersClearing : (inMode .held listening).Listens ∧ (inMode .held listening).mc.mode = .held
    ∧ (inMode .held listening).host.reselect = false ∧ (inMode .held listening).engine.jobPending = false
    ∧ (inMode .held listening).maySelect = true ∧ (inMode .held listening).cru.updatePending = false
    ∧ 0 < (inMode .held listening).window ∧ ((inMode .held listening).map.translate 0).isSome = true :=
  ⟨⟨rfl, rfl, rfl⟩, by decide⟩

theorem witness_RefusedFramesChangeNothing : listening.Listens ∧ 250 < (251#8).toNat
    ∧ 0x25 ∉ [0x01, 0x02, 0x03, 0x04, 0x05, 0x10, 0x11, 0x12, 0x13, 0x20, 0x21, 0x22, 0x23, 0x24#8]
    ∧ SetupCommand.setupLoad.allowedIn listening.mc.mode = false
    ∧ SetupCommand.purge.allowedIn listening.mc.mode = true ∧ SetupCommand.purge.lengthSuits 0 = false :=
  ⟨⟨rfl, rfl, rfl⟩, by decide⟩

theorem witness_BroadcastIsNeverAnswered :
    let s := running.setSetup { running.setup with selection := .broadcast }
    s.inReset = false ∧ s.setup.selection = .broadcast ∧ s.setup.tx = .quiet ∧ ([] : List Byte).length ≤ 250
      ∧ SetupCommand.purge ≠ .flush ∧ SetupCommand.purge ≠ .hold ∧ SetupCommand.purge ≠ .release := by decide

theorem witness_BroadcastIsNeverAnswered_check :
    let s := running.setSetup { receiving.setup with
      selection := .broadcast, rx := .waitCheck, tx := .quiet, reply := none, buffer := none }
    (s.inReset = false ∧ s.setup.selection = .broadcast ∧ s.setup.tx = .quiet ∧ s.setup.rx = .waitCheck)
      ∧ receiving.inReset = false ∧ receiving.setup.tx = .sending
      ∧ receiving.setup.buffer = some { frame := goodFrame 0x01 [], selection := .broadcast } := by decide

theorem witness_FramesQueueBehindReplies : receiving.inReset = false ∧ receiving.setup.selection ≠ .none
    ∧ receiving.setup.tx = .sending
    ∧ receiving.setup.buffer = some { frame := goodFrame 0x01 [], selection := .broadcast }
    ∧ (running.setSetup { running.setup with tx := .replyDue }).setup.tx = .replyDue
    ∧ (running.setSetup { running.setup with tx := .sending }).setup.buffer = none
    ∧ (running.setSetup { running.setup with tx := .replyDue, reply := some (plainReply codeOk) }).setup.reply
      = some (plainReply codeOk) ∧ running.setup.tx ≠ .sending := by decide

theorem witness_AddressCharacterSelects : running.inReset = false ∧ running.straps.saddr.toNat = (0#8).toNat := by decide

theorem witness_FramingErrorAndBreak : receiving.inReset = false ∧ receiving.setup.rx ≠ .waitCommand
    ∧ receiving.setup.selection ≠ .none ∧ running.setup.rx = .waitCommand := by decide

theorem witness_GapTimeoutDiscardsPartialFrame : receiving.inReset = false ∧ receiving.setup.gapTimer = some 4 ∧ 4 < 5
    ∧ (after (.frameCharacter 1) listening).setup.gapTimer = some 0 := by decide

theorem witness_FrameCharacterIsAssembled : running.inReset = false ∧ running.setup.selection = .none
    ∧ listening.setup.selection ≠ .none ∧ listening.setup.rx = .waitCommand
    ∧ (after (.frameCharacter 1) listening).setup.rx = .waitLength ∧ receiving.setup.rx = .payload := by decide

/-- The check character ECh of PURGE 2, and what it ends else: a bad sum, a code of no command, and lengths 251 and 255. -/
theorem witness_FrameCharacterIsAssembled_check :
    (∀ s ∈ [checking 0x11 1 [2] 0x14, checking 0x25 0 [] 0x25, checking 0x01 251 (List.replicate 250 0) 0,
        checking 0x01 255 (List.replicate 250 0) 0],
      s.inReset = false ∧ s.setup.selection ≠ .none ∧ s.setup.rx = .waitCheck)
    ∧ 0x14 + 0xEC = 0#8 ∧ 0x14 + 0xED ≠ 0#8
    ∧ 0x25 ∉ [0x01, 0x02, 0x03, 0x04, 0x05, 0x10, 0x11, 0x12, 0x13, 0x20, 0x21, 0x22, 0x23, 0x24#8] :=
  ⟨by decide +kernel, by decide, by decide, by decide⟩

theorem witness_CharactersMakeTheFrame : listening.setup.selection ≠ .none ∧ listening.setup.rx = .waitCommand
    ∧ ([] : List Byte).length ≤ 255 ∧ (List.replicate 255 (0 : Byte)).length ≤ 255 := by
  decide +kernel

theorem witness_StatusStreamEdge : State.reset.stream.running = false ∧ running.inReset = false
    ∧ running.stream.running = true ∧ running.stream.position = none ∧ 0 < running.regions.length := by decide

/-- `running` leaves nothing to do at an event's end. -/
theorem running_rests : running.Rests := by unfold State.Rests; decide

/-- `running` holds no host access. -/
theorem running_free : running.HostFree := by unfold State.HostFree; decide

theorem witness_OutsideAccessIsRefused : running.HostFree ∧ running.Rests ∧ running.mc.mode ≠ .startup
    ∧ running.window ≤ sectorOf (readPins 0x1FE000).addr ∧ ¬ running.window ≤ sectorOf 0x1FDFFF :=
  ⟨running_free, running_rests, by decide⟩

theorem witness_ModeDecidesAccess :
    ((inMode .startup running).HostFree ∧ (inMode .startup running).Rests)
    ∧ ((inMode .offline running).HostFree ∧ (inMode .offline running).Rests)
    ∧ ((inMode .held running).HostFree ∧ (inMode .held running).Rests)
    ∧ sectorOf (writePins 0x1FDFFF true true 0).addr < running.window := by
  unfold State.HostFree State.Rests; decide

theorem witness_SectorAndRegionRefusals : running.HostFree ∧ running.Rests ∧ running.mc.mode = .run
    ∧ sectorOf 0x12C000 < running.window ∧ running.regionOf (sectorOf 0x12C000) = some 2
    ∧ running.hasPolicy 2 .readonly = true ∧ running.map.translate (sectorOf 0x12C000) ≠ none
    ∧ running.map.protects (sectorOf 0x12C000) = false :=
  ⟨running_free, running_rests, by decide⟩

theorem witness_StagedWriteCoalescesAppendsOrStalls :
    (running.HostFree ∧ running.Stages 0x20 0 ∧ writesLanes (writePins 0x20 true false 0x56) .low
      ∧ 0 < running.queues.length ∧ running.count 0 < running.capacity 0)
    ∧ ((holding [entry 0x20 0xFF56 .low] running).HostFree ∧ (holding [entry 0x20 0xFF56 .low] running).Stages 0x20 0
      ∧ ∃ e ∈ (holding [entry 0x20 0xFF56 .low] running).queue 0, e.state = .waiting ∧ e.addr = 0x20)
    ∧ (holding full running).HostFree ∧ (holding full running).Stages 0x64 0
    ∧ (∀ e ∈ (holding full running).queue 0, ¬(e.state = .waiting ∧ e.addr = 0x64))
    ∧ ¬ (holding full running).count 0 < (holding full running).capacity 0 := by
  unfold State.HostFree State.Stages writesLanes; decide +kernel

/-- A COMMITTING entry on lane 1 and a WAITING one on lane 0 of one word. -/
def covered : State := holding [gathered (entry 0x20 0x12FF .high), entry 0x20 0xFF34 .low] running

/-- What ReadIsFastOrClaimsThePort asks of every read. -/
abbrev Takes (s : State) (a : HostAddr) (r psec : Nat) (policy : Policy) : Prop :=
  s.HostFree ∧ s.reader.access = none ∧ s.Rests
    ∧ (s.mc.mode = .run ∨ s.mc.mode = .holding ∨ s.mc.mode = .held ∨ s.mc.mode = .clearing)
    ∧ (readPins a).write = false ∧ sectorOf a < s.window ∧ s.regionOf (sectorOf a) = some r
    ∧ (s.region? r).map (·.policy) = some policy ∧ s.map.translate (sectorOf a) = some psec

theorem witness_ReadIsFastOrClaimsThePort_held : Takes jobRunning 0xFA000 1 500 .direct
    ∧ jobRunning.eraseHeld (sectorOf 0xFA000) = true
    ∧ Takes (clearing 5) 0x2800 0 5 .staged ∧ (clearing 5).eraseHeld (sectorOf 0x2800) = true := by
  unfold Takes State.HostFree State.Rests; decide

theorem witness_ReadIsFastOrClaimsThePort_merge : Takes (erasing 1) 0x2800 0 5 .staged
    ∧ (erasing 1).eraseHeld (sectorOf 0x2800) = false ∧ (erasing 1).mergeHit (sectorOf 0x2800) = true
    ∧ Takes (inMode .holding (erasing 1)) 0x2800 0 5 .staged := by
  unfold Takes State.HostFree State.Rests; decide

theorem witness_ReadIsFastOrClaimsThePort_masks : Takes covered 0x20 0 0 .staged
    ∧ covered.eraseHeld (sectorOf 0x20) = false ∧ covered.mergeHit (sectorOf 0x20) = false
    ∧ entryBits (covered.committingAt 0 0x20) ||| entryBits (covered.waitingAt 0 0x20) = 0xFFFF := by
  unfold Takes State.HostFree State.Rests; decide

theorem witness_ReadIsFastOrClaimsThePort : Takes running 0x3000 0 6 .staged ∧ Takes running 0xFA000 1 500 .direct
    ∧ Takes (inMode .held running) 0x12C000 2 600 .readonly ∧ running.eraseHeld (sectorOf 0x3000) = false
    ∧ running.mergeHit (sectorOf 0x3000) = false
    ∧ entryBits (running.committingAt 0 0x3000) ||| entryBits (running.waitingAt 0 0x3000) ≠ 0xFFFF
    ∧ running.port.state = .free ∧ running.port.arst = .inactive := by
  unfold Takes State.HostFree State.Rests
  exact ⟨by decide, by decide, by decide, by decide⟩

theorem witness_ReadIsFastOrClaimsThePort_waits :
    (let s := running.setPort { running.port with arst := .pulse }
     Takes s 0x3000 0 6 .staged ∧ s.port.state = .free ∧ s.port.arst ≠ .inactive)
    ∧ (Takes (erasing 1) 0x3000 0 6 .staged ∧ (erasing 1).mergeHit (sectorOf 0x3000) = false
      ∧ (erasing 1).port.state ≠ .free ∧ (erasing 1).eraseRunning = true
      ∧ (erasing 1).port.suspCount < (erasing 1).suspendLimit)
    ∧ (let s := (erasing 1).setPort { (erasing 1).port with suspCount := 1 }
       Takes s 0x3000 0 6 .staged ∧ s.eraseHeld (sectorOf 0x3000) = false ∧ s.port.state ≠ .free
         ∧ ¬ s.port.suspCount < s.suspendLimit) := by
  unfold Takes State.HostFree State.Rests
  exact ⟨by decide, by decide, by decide⟩

theorem witness_DirectWriteIsProgrammedOrHeld :
    (running.HostFree ∧ running.Rests ∧ running.mc.mode = .run ∧ sectorOf 0xFA000 < running.window
      ∧ running.regionOf (sectorOf 0xFA000) = some 1 ∧ running.hasPolicy 1 .direct = true
      ∧ running.map.protects (sectorOf 0xFA000) = false ∧ running.map.translate (sectorOf 0xFA000) = some 500
      ∧ writesLanes (writePins 0xFA000 true true 0x00FF) .both ∧ running.jobHeld (sectorOf 0xFA000) = false
      ∧ running.port.state = .free ∧ running.port.arst = .inactive)
    ∧ jobRunning.HostFree ∧ jobRunning.Rests ∧ jobRunning.jobHeld (sectorOf 0xFA000) = true
    ∧ jobRunning.regionOf (sectorOf 0xFA000) = some 1 ∧ jobRunning.mc.mode = .run := by
  unfold State.HostFree State.Rests writesLanes; decide +kernel

theorem witness_SelectIsReleasedOrWaits :
    let s := running.setHost (HostPort.presents (readPins 0) (some 0) false)
    (s.inReset = false ∧ s.Rests ∧ s.host.reselect = false ∧ s.host.state = .done)
      ∧ stalled.host.state = .busy ∧ stalled.host.reselect = false ∧ stalled.inReset = false
      ∧ (held (readPins 0x3000) running).Rests ∧ (held (readPins 0x3000) running).host.state ≠ .idle := by
  unfold State.Rests; decide +kernel

/-- A select waits on a DONE port, and on a BUSY one whose stalled write the stall limit ends. -/
theorem witness_SelectIsReleasedOrWaits_reselect :
    (let s := running.setHost { HostPort.presents (readPins 0) (some 0) false with reselect := true }
     s.inReset = false ∧ s.Rests ∧ s.host.state = .done ∧ s.host.reselect = true)
    ∧ (let s := stalled.setHost { stalled.host with reselect := true, pins := readPins 0x3000 }
       s.inReset = false ∧ s.host.state = .busy ∧ s.host.reselect = true
         ∧ (after .stallLimitExpiry (s.setHost { s.host with select := false, reselect := false })).host.state = .idle) := by
  unfold State.Rests; decide +kernel

theorem reading_running : (readRunning 10 0).Reads (readPins 0x3000) read6 := ⟨rfl, rfl, rfl, rfl, rfl⟩
theorem reading_suspended : suspended.Reads (readPins 0x3000) read6 := ⟨rfl, rfl, rfl, rfl, rfl⟩

theorem readRunning_lawful (t c : Nat) : (readRunning t c).port.Lawful :=
  ⟨fun o ho => by cases ho; rfl, fun _ => nofun, nofun, fun _ => rfl⟩

theorem readRunning_rests (t c : Nat) : (readRunning t c).Rests :=
  ⟨by show running.hasWork = false; decide, fun h => (nomatch h.1), nofun, fun h => (nomatch h.1)⟩

theorem witness_HostReadReturnsAssembledWord :
    ((readRunning 10 0).Reads (readPins 0x3000) read6 ∧ (issued read6.op 10).issued = true
      ∧ (readRunning 10 0).inReset = false ∧ (readRunning 10 0).Rests ∧ (readRunning 10 0).port.Lawful
      ∧ (readRunning 10 0).port.state = .running ∧ (readRunning 10 0).port.op = some (issued read6.op 10))
    ∧ suspended.Reads (readPins 0x3000) read6 ∧ suspended.inReset = false ∧ suspended.Rests ∧ suspended.port.Lawful
    ∧ suspended.port.state = .suspended ∧ suspended.port.inner = some (issued read6.op 0) :=
  ⟨⟨reading_running, rfl, rfl, readRunning_rests 10 0, readRunning_lawful 10 0, rfl, rfl⟩,
    reading_suspended, rfl, by unfold State.Rests; decide, suspended_lawful, rfl, rfl⟩

theorem witness_DirectWriteEndsOrRetries : ∀ n ∈ [1, 2],
    (programming n).Runs (issued (direct n).op 0)
      ∧ (programming n).WritesDirect (writePins 0xFA000 true true 0x00FF) (direct n)
      ∧ (issued (direct n).op 0).op = (direct n).op ∧ (programming n).Rests ∧ (programming n).port.arst = .inactive := by
  unfold State.Runs State.WritesDirect State.Rests; decide

/-- The hypotheses of CommitEraseEnds hold with a word to write back, below the third attempt and at it, where a spare is
FREE and the remap table has room. -/
theorem witness_CommitEraseEnds : ∀ n ∈ [2, 3],
    (erasing n).Runs (issued eraseOp 0) ∧ (erasing n).ErasesForCommit 5 ∧ (erasing n).flash.wf
      ∧ (erasing n).port.hostClaim = none ∧ (erasing n).host.reselect = false ∧ (erasing n).port.arst = .inactive
      ∧ (erasing n).engine.eraseAttempts = n ∧ (erasing n).engine.mergeWord 0 ≠ 0xFFFF
      ∧ (erasing n).lowestFree = some 0 ∧ (erasing n).map.remap.length < 64 := by
  unfold State.Runs State.ErasesForCommit; decide +kernel

theorem witness_SuspendServesHostClaim : ((erasing 1).eraseRunning = true ∧ (erasing 1).port.hostClaim = none
      ∧ (erasing 1).port.suspCount < (erasing 1).suspendLimit ∧ ¬ 1 < (erasing 1).suspendLimit)
    ∧ suspending.inReset = false ∧ suspending.Rests ∧ suspending.port.state = .suspending
    ∧ suspending.port.hostClaim = some read6.op := by
  unfold State.Rests; decide

/-- A host read at a timer of 0 and at its limit. -/
theorem witness_ReadTimeoutsLoseTheArray : ∀ c ∈ [0, 1], ∀ t ∈ [0, 50],
    (readRunning t c).Runs (issued read6.op t) ∧ (readRunning t c).Reads (readPins 0x3000) read6
      ∧ (readRunning t c).port.Lawful ∧ t ≤ 50 ∧ (readRunning t c).port.consecutive = c
      ∧ (readRunning t c).cru.generation < 0xFFFFFFFE ∧ (readRunning t c).stall = none
      ∧ (readRunning t c).host.reselect = false ∧ (readRunning t c).host = HostPort.holds (readPins 0x3000) := by
  intro c hc t ht
  exact ⟨⟨rfl, rfl, rfl, rfl⟩, ⟨rfl, rfl, rfl, rfl, rfl⟩, readRunning_lawful t c, by revert t; decide, rfl,
    by show 0 < _; decide, rfl, rfl, rfl⟩

/-- What ReadTimeoutsLoseTheArray asks of every state: its operation at a timer up to its limit, after c timeouts. -/
abbrev TimesOut (s : State) (o : ArrayOp) (t limit c : Nat) : Prop :=
  s.Runs (issued o t) ∧ s.port.Lawful ∧ s.host.reselect = false ∧ t ≤ limit ∧ s.port.consecutive = c

/-- The PROGRAM of a direct write, and the engine's PROGRAM and ERASE, at a timer of 0 and at their limits. -/
theorem witness_ReadTimeoutsLoseTheArray_attempts : ∀ c ∈ [0, 1],
    (∀ t ∈ [0, 1000], let s := timed (direct 1).op t c (programming 1)
      TimesOut s (direct 1).op t 1000 c ∧ (direct 1).op.kind = .program ∧ (direct 1).op.issuer = .directWrite
        ∧ s.host = HostPort.holds (writePins 0xFA000 true true 0x00FF))
    ∧ (∀ t ∈ [0, 1000], TimesOut (timed (engineOp .program 250 5 0x1200) t c (programming411 1))
        (engineOp .program 250 5 0x1200) t 1000 c)
    ∧ ∀ t ∈ [0, 200000], TimesOut (timed eraseOp t c (erasing 3)) eraseOp t 200000 c := by
  intro c _
  exact ⟨fun t _ => ⟨⟨⟨rfl, rfl, rfl, rfl⟩, ⟨fun o ho => by cases ho; rfl, nofun, nofun, fun _ => rfl⟩, rfl,
      by revert t; decide, rfl⟩, rfl, rfl, rfl⟩,
    fun t _ => ⟨⟨rfl, rfl, rfl, rfl⟩, ⟨nofun, fun o ho => by cases ho; rfl, nofun, fun _ => rfl⟩, rfl,
      by revert t; decide, rfl⟩,
    fun t _ => ⟨⟨rfl, rfl, rfl, rfl⟩, ⟨nofun, fun o ho => by cases ho; rfl, nofun, fun _ => rfl⟩, rfl,
      by revert t; decide, rfl⟩⟩

/-- The engine's READs in GATHER, LOAD and CONTROL_VERIFY, and a READ of start-up. -/
theorem witness_ReadTimeoutsLoseTheArray_reads : ∀ c ∈ [0, 1], ∀ t ∈ [0, 50],
    (let s := timed (engineOp .read 250 6 0) t c (gathering411 none)
     TimesOut s (engineOp .read 250 6 0) t 50 c ∧ s.port.hostClaim = none ∧ s.engine.phase = .gather)
    ∧ (let s := timed (engineOp .read 5 2047 0) t c (loading false [lastWord 0])
       TimesOut s (engineOp .read 5 2047 0) t 50 c ∧ s.port.hostClaim = none ∧ s.engine.phase = .load)
    ∧ (let s := timed (engineOp .read 1023 0 0) t c (updating .controlVerify 0 (engineOp .read 1023 0 0) true)
       TimesOut s (engineOp .read 1023 0 0) t 50 c ∧ s.port.hostClaim = none ∧ s.engine.phase = .controlVerify
         ∧ s.engine.record[s.engine.cursor]? ≠ some 0)
    ∧ (let o : ArrayOp := { kind := .read, psec := 1022, offset := 0, value := 0, issuer := .startUp }
       let s := timed o t c (readingCopy { copy := .a, words := [], judgedA := none })
       TimesOut s o t 50 c ∧ s.port.hostClaim = none ∧ s.mc.mode = .startup) := by
  intro c _ t ht
  have h : t ≤ 50 := by revert t; decide
  exact ⟨⟨⟨⟨rfl, rfl, rfl, rfl⟩, ⟨nofun, fun o ho => by cases ho; rfl, nofun, fun _ => rfl⟩, rfl, h, rfl⟩, rfl, rfl⟩,
    ⟨⟨⟨rfl, rfl, rfl, rfl⟩, ⟨nofun, fun o ho => by cases ho; rfl, nofun, fun _ => rfl⟩, rfl, h, rfl⟩, rfl, rfl⟩,
    ⟨⟨⟨rfl, rfl, rfl, rfl⟩, ⟨nofun, fun o ho => by cases ho; rfl, nofun, fun _ => rfl⟩, rfl, h, rfl⟩, rfl, rfl,
      by show some _ ≠ some _; decide⟩,
    ⟨⟨rfl, rfl, rfl, rfl⟩, ⟨nofun, nofun, nofun, fun _ => rfl⟩, rfl, h, rfl⟩, rfl, rfl⟩

theorem witness_SuspensionTimeoutsFailTheErase :
    (suspending.inReset = false ∧ suspending.port.Lawful ∧ suspending.ErasesForCommit 5
      ∧ suspending.port.op = some (issued eraseOp 0) ∧ suspending.engine.eraseAttempts < 3
      ∧ suspending.port.consecutive = 0 ∧ suspending.stall = none ∧ suspending.host.reselect = false
      ∧ suspending.port.state = .suspending ∧ suspending.port.hostClaim = some read6.op)
    ∧ suspended.Reads (readPins 0x3000) read6 ∧ suspended.port.Lawful ∧ suspended.ErasesForCommit 5
    ∧ suspended.port.op = some (issued eraseOp 0) ∧ suspended.port.state = .suspended
    ∧ suspended.port.inner = some (issued read6.op 0) :=
  ⟨⟨rfl, ⟨fun o ho => by cases ho; rfl, fun o ho => by cases ho; rfl, by decide, by decide⟩, ⟨rfl, rfl, rfl, rfl⟩,
    by decide⟩, reading_suspended, suspended_lawful, ⟨rfl, rfl, rfl, rfl⟩, by decide⟩

/-- An operation waits for an ARST# pulse that has lasted `timer` ticks. -/
def pulsing (o : ArrayOp) (claim : Option ArrayOp) (timer : Nat) : State :=
  running.setPort { running.port with
    state := .running, op := some { op := o, timer := 0, issued := false }, hostClaim := claim
    arst := .pulse, arstTimer := timer }

theorem witness_PulseEndIssuesWaitingOperation :
    (running.inReset = false ∧ running.Rests ∧ running.port.arst ≠ .pulse)
    ∧ (∀ k ∈ [0, 9, 10], let s := pulsing read6.op (some read6.op) k
        s.inReset = false ∧ s.Rests ∧ s.port.arst = .pulse ∧ s.port.arstTimer = k
          ∧ s.port.op = some { op := read6.op, timer := 0, issued := false } ∧ read6.op.kind ≠ .erase)
    ∧ (∀ claim ∈ [none, some read6.op], let s := pulsing eraseOp claim 10
        s.Rests ∧ s.port.hostClaim = claim ∧ eraseOp.kind = .erase ∧ eraseOp.issuer = .engine
          ∧ s.port.state = .running ∧ s.port.suspCount < s.suspendLimit)
    ∧ (running.setPort { running.port with arst := .pulse, arstTimer := 10 }).Rests
    ∧ (running.setPort { running.port with arst := .pulse, arstTimer := 10 }).port.op = none := by
  unfold State.Rests
  exact ⟨by decide, by decide, by decide, by decide⟩

theorem witness_StallExpiryDropsTheWrite : stalled.inReset = false ∧ stalled.stall.isSome = true
    ∧ stalled.host = HostPort.holds (writePins 0x64 true true 0x1234) ∧ stalled.reader.state = .idle
    ∧ stalled.port.direct = none ∧ (stalled.region? 0).map (·.stallLimit) = some 5 ∧ 500 ≤ 5 * 100
    ∧ stalled.cru.generation < 0xFFFFFFFE := by decide

/-- One WAITING entry of region 0, stamped 0. -/
def waiting : State := holding [entry 0x20 0xFF56 .low] running

theorem witness_AgeLimitMakesRegionDue : waiting.inReset = false ∧ (waiting.region? 0).map (·.policy) = some .staged
    ∧ ageLimit 1 = some 2 ∧ waiting.headStamp 0 = some 0 ∧ (waiting.msTick - 0).toNat < 2
    ∧ waiting.host.reselect = false ∧ waiting.maySelect = true ∧ waiting.cru.updatePending = false
    ∧ waiting.engine.jobPending = false ∧ waiting.mc.mode = .run
    ∧ (∀ e ∈ waiting.queue 0, e.state = .waiting) ∧ waiting.queue 1 = [] ∧ waiting.queue 2 = []
    ∧ (erasing 1).maySelect = false := by decide

theorem witness_RegionSelectionOrder :
    (∀ l, (running.setEngine { running.engine with lastServed := some 2 }).engine.lastServed = some l →
      l < running.regions.length) ∧ (holding full running).dueRegion = some 0 :=
  ⟨fun l hl => by cases hl; decide, by decide +kernel⟩

theorem witness_CommitStartsWithGather :
    (waiting.queue 0).find? Entry.waits = some (entry 0x20 0xFF56 .low)
    ∧ ((holding full running).queue 0).find? Entry.waits = some (entry 0 0 .both)
    ∧ 32 < ((holding full running).queue 0).countP fun e => e.waits && sectorOf e.addr == sectorOf 0 := by
  decide +kernel

theorem witness_FeasibleTargets : feasible .low 0xFF00 0x12FF = true ∧ (0xFF00 ||| LaneMask.low.bits) = 0xFFFF := by
  decide

theorem witness_ValidImagesTileTheWindow : (∀ n, 32 < n → sparesTooMany n = true)
    ∧ validateImage sparesTooMany (encodeImage image) = .valid image :=
  ⟨fun n h => decide_eq_true h, by decide⟩

/-- A record of `image` with one protection range and a retired sector. -/
def record : ControlRecord :=
  { generation := 0xFFFFFFFE, image := image, protection := [{ first := 0, count := 1022 }]
    remap := [{ sector := 1019, target := some 1 }, { sector := 3, target := none }], bad := 1 }

theorem witness_ControlRecordReadsBack : record.generation ≤ 0xFFFFFFFE ∧ record.protection.length ≤ 8
    ∧ record.remap.length ≤ 64 ∧ validateImage sparesTooMany (encodeImage record.image) = .valid record.image
    ∧ tablesValid record = true := by decide

/-- A job of sector 500 tries spare 1 while spare 0 is BAD and sector 300 retired. -/
def trialJob : State :=
  trying .eraseJob 500 1 (engineOp .erase 1020 0 0)
    (running.setMap { remap := [{ sector := 300, target := none }], bad := 1, protection := [] })

theorem witness_TranslationIsInjective :
    trialJob.PortLawful ∧ trialJob.WorkLawful ∧ (∃ t, step trialJob = .next t)
    ∧ ({ remap := record.remap, bad := 1, protection := [] } : SectorMap).Lawful 2 ∧ 1019 < 1022 - 2
    ∧ ({ remap := record.remap, bad := 1, protection := [] } : SectorMap).translate 1019 = some 1020 := by
  refine ⟨⟨⟨nofun, fun o ho => by cases ho; rfl, by decide, by decide⟩, by decide, by decide, by decide⟩,
    ⟨⟨⟨by decide, by decide, by decide⟩, by decide⟩, ⟨by decide, by decide, fun i hi => ?_⟩,
      ⟨by decide, by decide, by decide, by decide, by decide⟩, nofun⟩, ⟨_, rfl⟩,
    ⟨by decide, by decide, fun e he i hi => ?_⟩, by decide⟩
  · cases hi
    exact ⟨by decide, by decide, by decide⟩
  · have : ∀ e ∈ record.remap, ∀ i ∈ e.target, i < 2 := by decide
    exact this e he i hi

/-! ### Further clauses of those statements, each met at a boundary -/

/-- Sector 300 retired, sector 301 protected. -/
def marred : State :=
  running.setMap { remap := [{ sector := 300, target := none }], bad := 0, protection := [{ first := 301, count := 1 }] }

theorem witness_SectorAndRegionRefusals_retired : marred.HostFree ∧ marred.Rests ∧ marred.mc.mode = .run
    ∧ sectorOf 0x96000 < marred.window ∧ marred.regionOf (sectorOf 0x96000) = some 0
    ∧ marred.map.translate (sectorOf 0x96000) = none := by
  unfold State.HostFree State.Rests; decide

theorem witness_SectorAndRegionRefusals_protected : marred.map.translate (sectorOf 0x96FFF) ≠ none
    ∧ marred.map.protects (sectorOf 0x96FFF) = true ∧ marred.regionOf (sectorOf 0x96FFF) = some 0
    ∧ marred.map.protects (sectorOf 0x97000) = false ∧ marred.hasPolicy 0 .readonly = false
    ∧ (writePins 0x97000 false false 0).lane0 = false ∧ (writePins 0x97000 false false 0).lane1 = false := by decide

theorem witness_FaultReadRemovesOldest_last :
    let x : FaultRecord := { seq := 0, first := 0, last := 0, report := { kind := .arrayLost } }
    (listening.setLog { records := [x], unstored := 1, nextSeq := 2, attn := true }).Listens
      ∧ (listening.setLog { records := [x], unstored := 1, nextSeq := 2, attn := true }).log.records = x :: [] :=
  ⟨⟨rfl, rfl, rfl⟩, rfl⟩

theorem witness_StatusStreamEdge_slots : ∀ k ∈ [0, 2, 3],
    (running.setStream { running.stream with position := some k }).stream.running = true
      ∧ (running.setStream { running.stream with position := some k }).inReset = false
      ∧ k ≤ running.regions.length := by decide

theorem witness_ProtectAddsRange_full :
    let s := listening.setMap { listening.map with protection := List.replicate 8 { first := 0, count := 1 } }
    s.Listens ∧ 8 ≤ s.map.protection.length ∧ ¬ s.window ≤ 0 + 1 - 1 := ⟨⟨rfl, rfl, rfl⟩, by decide⟩

theorem witness_SectorEraseAcceptsJob_refused :
    (selected jobRunning).Listens ∧ (selected jobRunning).engine.jobPending = true
    ∧ (let s := listening.setMap { remap := [{ sector := 500, target := none }], bad := 0
                                   protection := [{ first := 599, count := 1 }] }
       s.Listens ∧ s.inDirect 599 = true ∧ s.map.protects 599 = true ∧ s.inDirect 500 = true
         ∧ s.map.protects 500 = false ∧ s.map.translate 500 = none) :=
  ⟨⟨rfl, rfl, rfl⟩, rfl, ⟨rfl, rfl, rfl⟩, by decide⟩

theorem witness_ArrayClearEntersClearing_busy :
    let s := inMode .held listening
    (s.setEngine { s.engine with jobPending := true }).Listens
      ∧ (s.setEngine { s.engine with jobPending := true }).engine.jobPending = true
      ∧ (s.setEngine { s.engine with phase := .controlErase, item := .controlUpdate }).Listens
      ∧ (s.setEngine { s.engine with phase := .controlErase, item := .controlUpdate }).maySelect = false
      ∧ (s.setEngine { s.engine with phase := .controlErase, item := .controlUpdate }).engine.jobPending = false :=
  ⟨⟨rfl, rfl, rfl⟩, rfl, ⟨rfl, rfl, rfl⟩, by decide⟩

theorem witness_SetupLoadAppliesValidImages_update :
    let s := (inMode .held listening).setEngine { running.engine with phase := .controlErase, item := .controlUpdate }
    s.Listens ∧ s.mc.mode = .held ∧ s.engine.phase ≠ .idle ∧ s.engine.item = .controlUpdate
      ∧ validateImage s.sparesRefused (encodeImage image) = .valid image := ⟨⟨rfl, rfl, rfl⟩, by decide⟩

theorem witness_AgeLimitMakesRegionDue_busy :
    let s := holding [entry 0x20 0xFF56 .low] (erasing 1)
    s.inReset = false ∧ s.headStamp 0 = some 0 ∧ (s.msTick - 0).toNat < 2 ∧ s.maySelect = false
      ∧ s.host.reselect = false := by decide

theorem witness_SuspendServesHostClaim_limit :
    let s := (erasing 1).setPort { (erasing 1).port with suspCount := 1 }
    s.eraseRunning = true ∧ s.port.hostClaim = none ∧ ¬ s.port.suspCount < s.suspendLimit := by decide

theorem witness_ResetReleaseBeginsStartUp_reading :
    let u : StartUp := { copy := .a, words := [], judgedA := none }
    (readingCopy u).ReadsCopy u (issued { kind := .read, psec := 1022, offset := 0, value := 0, issuer := .startUp } 0)
      ∧ judgeCopy (u.words ++ [0x47DA]) = .reading ∧ judgeCopy (u.words ++ [0xFFFF]) = .invalid := by
  unfold State.ReadsCopy State.Runs; decide

/-- A record of one DIRECT region over 1020 sectors, generation 7, and its words (section 13.4). -/
def smallRecord : ControlRecord :=
  { generation := 7, protection := [], remap := [], bad := 0
    image := { version := 1, spares := 2, suspendLimit := 1, regions := [
      { first := 0, count := 1020, policy := .direct, blocks := 0, af := 0, ageCode := 0, stallLimit := 1 }] } }

/-- The words of that record but the last, FFC9h. -/
def smallWords : List Word :=
  [0x47DA, 0x0007, 0x0000, 0x010E, 0x0201, 0x0001, 0xFC00, 0x0103, 0x0000, 0x0000, 0x0001, 0x0000, 0x0000, 0x2A00]

/-- Copy B's last word, its tag or the last of a valid record, after copy A was invalid or valid. -/
theorem witness_ResetReleaseBeginsStartUp_chosen :
    (∀ a ∈ [none, some record], ∀ words ∈ [[], smallWords],
      let u : StartUp := { copy := .b, words := words, judgedA := some a }
      (readingCopy u).ReadsCopy u
        (issued { kind := .read, psec := 1023, offset := words.length, value := 0, issuer := .startUp } 0))
    ∧ judgeCopy [0xFFFF] = .invalid ∧ judgeCopy (smallWords ++ [0xFFC9]) = .valid smallRecord := by
  unfold State.ReadsCopy State.Runs
  exact ⟨by decide, by decide, by decide +kernel⟩

theorem witness_StepKeepsFaultLogLawful_take :
    let x : FaultRecord := { seq := 0, first := 0, last := 0, report := { kind := .writeDropped, count := 65535, region := some 1 } }
    let f : FaultReport := { kind := .writeDropped, region := some 1 }
    fullLog.records.length = 32 ∧ (FaultKind.arrayLost ≠ .writeDropped ∧ FaultKind.arrayLost ≠ .writeRefused)
      ∧ (List.replicate 31 x ++ [x]).length = 32 ∧ f.kind = .writeDropped ∧ x.report.kind = f.kind
      ∧ x.report.reason = f.reason ∧ x.report.region = f.region
      ∧ ¬(x.report.kind = f.kind ∧ x.report.reason = f.reason
        ∧ x.report.region = ({ f with region := some 2 } : FaultReport).region) := by decide

theorem witness_SetupStoreAsksForControlUpdate_words :
    let erase := issued (engineOp .erase 1023 0 0) 0
    let program := fun k v => issued (engineOp .program 1023 k v) 0
    (let s := updating .controlErase 0 erase.op false
     s.EngineRuns erase ∧ s.engine.item = .controlUpdate ∧ s.engine.itemPhys = some 1023 ∧ s.mc.mode = .run
       ∧ s.engine.record[0]? = some 0x47DA)
    ∧ (let s := updating .controlWrite 0 (program 0 0x47DA).op false
       s.EngineRuns (program 0 0x47DA) ∧ s.engine.record[s.engine.cursor + 1]? = some 0x0001)
    ∧ (let s := updating .controlWrite 1 (program 1 0x0001).op false
       s.EngineRuns (program 1 0x0001) ∧ s.engine.record[s.engine.cursor + 1]? = none) := by
  unfold State.EngineRuns State.Runs; decide

theorem witness_SetupStoreAsksForControlUpdate_verify : ∀ k ∈ [0, 1], ∀ try2 ∈ [false, true],
    let x := issued (engineOp .read 1023 k 0) 0
    let s := updating .controlVerify k x.op try2
    s.EngineRuns x ∧ s.engine.item = .controlUpdate ∧ s.engine.itemPhys = some 1023 ∧ s.mc.mode = .run
      ∧ s.engine.record[s.engine.cursor]? = some (if k = 0 then 0x47DA else 0x0001)
      ∧ s.engine.record[s.engine.cursor]? ≠ some 0xFFFF ∧ s.cru.updatePending = false ∧ s.port.direct = none
      ∧ (if k = 0 then s.engine.cursor + 1 < s.engine.record.length else s.engine.cursor + 1 = s.engine.record.length) := by
  unfold State.EngineRuns State.Runs; decide

/-- The job's erase ends with nothing held, with a read held, and with a direct write held; its sector has its home, or is
retired. -/
theorem witness_SectorEraseAcceptsJob_ends : ∀ target ∈ [[], [({ sector := 500, target := none } : RemapEntry)]],
    let s := jobRunning.setMap { remap := target, bad := 0, protection := [] }
    let y : ReadAccess := { addr := 0xFA000, region := 1, policy := .direct, psec := 500 }
    let d : DirectWrite := { direct 0 with held := true }
    let reads := (held (readPins 0xFA000) s).setReader { state := .eraseHold, access := some y }
    let writes := (held (writePins 0xFA000 true true 0x00FF) s).setPort { s.port with direct := some d }
    s.EngineRuns (issued (engineOp .erase 500 0 0) 0) ∧ s.flash.wf ∧ s.engine.phase = .jobErase
      ∧ s.engine.item = .eraseJob ∧ s.engine.itemSector = some 500
      ∧ (reads.EngineRuns (issued (engineOp .erase 500 0 0) 0) ∧ sectorOf y.addr = 500 ∧ reads.port.direct = none)
      ∧ writes.EngineRuns (issued (engineOp .erase 500 0 0) 0) ∧ d.held = true ∧ sectorOf d.addr = 500
      ∧ writes.reader.state = .idle ∧ s.map.translate 500 = (if target = [] then some 500 else none)
      ∧ s.cru.generation < 0xFFFFFFFE := by
  unfold State.EngineRuns State.Runs; decide

/-- A clear step with a next sector above it, and the last one of the window. -/
theorem witness_ArrayClearEntersClearing_steps : ∀ x ∈ [5, 1019],
    (clearing x).EngineRuns (issued (engineOp .erase x 0 0) 0) ∧ (clearing x).mc.mode = .clearing
      ∧ (clearing x).engine.phase = .clearErase ∧ (clearing x).engine.item = .clearStep
      ∧ (clearing x).engine.itemSector = some x ∧ (clearing x).engine.stopped = false
      ∧ (clearing x).cru.updatePending = false ∧ (clearing x).cru.generation < 0xFFFFFFFE ∧ x < (clearing x).window
      ∧ (if x = 5 then x + 1 < (clearing x).window ∧ ((clearing x).map.translate (x + 1)).isSome = true
        else (clearing x).window ≤ x + 1) := by
  unfold State.EngineRuns State.Runs; decide

/-- The word of offset 2047 programmed, after which the image is complete. -/
def lastOp (psec : Nat) : ArrayOp := engineOp .program psec 2047 0x1234

theorem witness_CommitEraseEnds_writes :
    ((erasing 1).EngineRuns (issued eraseOp 0) ∧ (erasing 1).WritesOn (.arrayEraseEnd true) (issued eraseOp 0) 0
      ∧ (erasing 1).engine.mergeWord 0 ≠ 0xFFFF ∧ (erasing 1).engine.itemPhys = some 5)
    ∧ (let s := working (onSector .writeback .regionCommit 5 5) (lastOp 5) running
       s.EngineRuns (issued (lastOp 5) 0) ∧ s.WritesOn (.arrayProgramEnd true) (issued (lastOp 5) 0) 2048
         ∧ s.engine.phase ≠ .relocate) :=
  ⟨⟨by unfold State.EngineRuns State.Runs; decide, ⟨rfl, .inl ⟨rfl, rfl, .inl rfl, rfl⟩⟩, by decide +kernel, rfl⟩,
    by unfold State.EngineRuns State.Runs; decide, ⟨rfl, .inr ⟨rfl, rfl, .inl rfl, rfl⟩⟩, by decide⟩

/-- A word's first attempt in PROGRAM, WRITEBACK and RELOCATE, and an ERASE's second in ERASE, RELOCATE, JOB_ERASE and
CLEAR_ERASE, which another one may follow. -/
theorem witness_CommitEraseEnds_repeats :
    (∀ phase ∈ [Phase.program, .writeback, .relocate],
      let s := working { onSector phase .regionCommit 5 5 with itemRegion := some 0, programAttempts := 1 } (lastOp 5) running
      s.EngineRuns (issued (lastOp 5) 0) ∧ s.engine.phase = phase ∧ s.engine.programAttempts < 2)
    ∧ ∀ y ∈ [(Phase.erase, WorkItem.regionCommit), (.relocate, .eraseJob), (.jobErase, .eraseJob), (.clearErase, .clearStep)],
      let s := working { onSector y.1 y.2 5 5 with eraseAttempts := 2 } eraseOp running
      s.EngineRuns (issued eraseOp 0) ∧ s.engine.phase = y.1 ∧ s.engine.eraseAttempts < 3 := by
  unfold State.EngineRuns State.Runs; exact ⟨by decide, by decide⟩

/-- A third ERASE attempt fails: of a commit, a job and a clear step; with a FREE spare, with none, and with a full table. -/
theorem witness_CommitEraseEnds_fails :
    ((erasing 3).EngineRuns (issued eraseOp 0) ∧ (erasing 3).SectorFails (.arrayEraseEnd false) (issued eraseOp 0)
      ∧ (erasing 3).map.remap.length < 64 ∧ 0 < (erasing 3).spareCount ∧ (erasing 3).map.spareState 0 = .free)
    ∧ (let s := (erasing 3).setMap { remap := [], bad := 3, protection := [] }
       s.SectorFails (.arrayEraseEnd false) (issued eraseOp 0) ∧ (∀ k < s.spareCount, s.map.spareState k ≠ .free)
         ∧ s.stall = none ∧ s.port.direct = none ∧ s.cru.generation < 0xFFFFFFFE ∧ s.engine.itemRegion = some 0)
    ∧ (let w : StalledWrite := { region := 0, addr := 0x2800, mask := .both, data := 0, timer := 0 }
       let s := (held (writePins 0x2800 true true 0) ((erasing 3).setMap { remap := [], bad := 3, protection := [] })).setStall
         (some w)
       s.EngineRuns (issued eraseOp 0) ∧ s.SectorFails (.arrayEraseEnd false) (issued eraseOp 0)
         ∧ sectorOf w.addr = s.engine.sector ∧ s.reader.state = .idle ∧ s.port.direct = none
         ∧ s.host = HostPort.holds (writePins 0x2800 true true 0) ∧ s.cru.generation < 0xFFFFFFFE)
    ∧ (let s := (erasing 3).setMap
         { remap := (List.range 64).map fun k => { sector := 100 + k, target := none }, bad := 0, protection := [] }
       s.SectorFails (.arrayEraseEnd false) (issued eraseOp 0) ∧ s.map.entryOf s.engine.sector = none
         ∧ 64 ≤ s.map.remap.length)
    ∧ (let s := jobRunning.setEngine { jobRunning.engine with eraseAttempts := 3 }
       s.EngineRuns (issued (engineOp .erase 500 0 0) 0)
         ∧ s.SectorFails (.arrayEraseEnd false) (issued (engineOp .erase 500 0 0) 0))
    ∧ (let s := (clearing 5).setEngine { (clearing 5).engine with eraseAttempts := 3 }
       s.EngineRuns (issued eraseOp 0) ∧ s.SectorFails (.arrayEraseEnd false) (issued eraseOp 0)) := by
  unfold State.EngineRuns State.Runs State.SectorFails
  exact ⟨by decide +kernel, by decide +kernel, by decide +kernel, by decide +kernel, by decide +kernel, by decide +kernel⟩

/-- The trial of spare 0 fails with spare 1 FREE and with none; the trial of spare 0 passes for a job, and for a commit whose
last word is programmed. -/
theorem witness_CommitEraseEnds_trial :
    (let s := trying .regionCommit 5 0 (engineOp .erase 1021 0 0) running
     s.EngineRuns (issued (engineOp .erase 1021 0 0) 0)
       ∧ s.SpareFails (.arrayEraseEnd false) (issued (engineOp .erase 1021 0 0) 0) 0
       ∧ ({ s.map with bad := s.map.bad ||| BitVec.ofNat 32 (2 ^ 0) } : SectorMap).spareState 0 ≠ .free
       ∧ ({ s.map with bad := s.map.bad ||| BitVec.ofNat 32 (2 ^ 0) } : SectorMap).spareState 1 = .free)
    ∧ (let s := trying .regionCommit 5 0 (lastOp 1021) (running.setMap { remap := [], bad := 2, protection := [] })
       s.EngineRuns (issued (lastOp 1021) 0) ∧ s.SpareFails (.arrayProgramEnd false) (issued (lastOp 1021) 0) 0
         ∧ (∀ k < s.spareCount,
          ({ s.map with bad := s.map.bad ||| BitVec.ofNat 32 (2 ^ 0) } : SectorMap).spareState k ≠ .free)
         ∧ s.SparePasses (.arrayProgramEnd true) (issued (lastOp 1021) 0) 0)
    ∧ (let s := trying .eraseJob 500 0 (engineOp .erase 1021 0 0) running
       s.EngineRuns (issued (engineOp .erase 1021 0 0) 0)
         ∧ s.SparePasses (.arrayEraseEnd true) (issued (engineOp .erase 1021 0 0) 0) 0) := by
  unfold State.EngineRuns State.Runs State.SpareFails State.SparePasses State.Tries
  refine ⟨by decide +kernel, ⟨by decide +kernel, by decide +kernel, by decide +kernel, by decide +kernel,
    .inr ⟨2048, ⟨by decide, .inr (by decide)⟩, fun _ h h' => absurd h' (Nat.not_lt.2 h)⟩⟩, by decide +kernel, by decide +kernel,
    .inl (by decide +kernel)⟩

/-- LOAD ends bound for RELOCATE or not, with an infeasible entry, with a target that differs, and with none that does. -/
theorem witness_CommitStartsWithGather_load : ∀ (bound : Bool) (d : Word), let s := loading bound [lastWord d]
    s.EngineRuns (issued (engineOp .read 5 2047 0) 0) ∧ s.engine.phase = .load ∧ s.engine.item = .regionCommit
      ∧ s.engine.itemRegion = some 0 ∧ s.engine.itemPhys = some 5 ∧ s.engine.cursor = 2047 ∧ s.stall = none
      ∧ s.engine.boundReloc = bound ∧ s.engine.gathered = [lastWord d] ∧ s.lowestFree = some 0 ∧ s.map.remap.length < 64
      ∧ offsetOf (lastWord d).addr = 2047 :=
  fun _ _ => ⟨⟨⟨rfl, rfl, rfl, rfl⟩, rfl, rfl, rfl, rfl⟩, rfl, rfl, rfl, rfl, rfl, rfl, rfl, rfl,
    by show running.lowestFree = some 0; decide, by show 0 < 64; decide, by show offsetOf 0x2FFF = 2047; decide⟩

theorem witness_CommitStartsWithGather_targets : feasible .both 0x1234 0 = false ∧ feasible .both 0x1234 0xFFFF = true
    ∧ overlay .both 0x1234 0xFFFF ≠ 0xFFFF ∧ overlay .both 0xFFFF 0xFFFF = 0xFFFF := by decide

/-- GATHER reads the entry after the two of section 4.11, feasible or not; PROGRAM has entry b in hand with c after it, and c
alone; each at its first and its second attempt. -/
theorem witness_CommitStartsWithGather_path :
    (let s := gathering411 none
     s.EngineRuns (issued (engineOp .read 250 6 0) 0) ∧ s.engine.item = .regionCommit ∧ s.engine.itemRegion = some 0
       ∧ s.engine.itemPhys = some 250 ∧ s.stall = none ∧ s.engine.phase = .gather
       ∧ s.engine.gathered = (s.engine.gathered.take 2) ++ { lastWord 0xA5A5 with addr := 0x7D006 } :: []
       ∧ feasible .both 0x0F0F 0x0F3F = true ∧ feasible .low 0xFF00 0x12FF = true
       ∧ feasible .both 0xA5A5 0xA5A5 = true ∧ feasible .both 0xA5A5 0x5A5A = false)
    ∧ (let s := commit411 .gather 0 (gathered411 [none, none, none] [false, false, false]) (engineOp .read 250 4 0)
       s.EngineRuns (issued (engineOp .read 250 4 0) 0) ∧ s.engine.phase = .gather ∧ s.engine.gathered.length = 3
         ∧ s.engine.gathered.all (·.old.isNone) = true)
    ∧ (∀ n ∈ [1, 2], let s := programming411 n
       s.EngineRuns (issued (engineOp .program 250 5 0x1200) 0) ∧ s.engine.phase = .program
         ∧ s.engine.path = some .gather ∧ s.engine.gathered.map (·.released) = [true, false, false]
         ∧ s.engine.programAttempts = n ∧ (s.engine.gathered.map (·.addr)).Nodup)
    ∧ (let s := commit411 .program 1 (gathered411 [some 0x0F3F, some 0x12FF, some 0xFFFF] [true, true, false])
         (engineOp .program 250 6 0xA5A5)
       s.EngineRuns (issued (engineOp .program 250 6 0xA5A5) 0)
         ∧ s.engine.gathered.map (·.released) = [true, true, false] ∧ (s.engine.gathered.map (·.addr)).Nodup) := by
  unfold State.EngineRuns State.Runs
  exact ⟨by decide +kernel, by decide +kernel, by decide +kernel, by decide +kernel⟩

/-- PROGRAM on the LOAD path with a word after it that differed, and at the last one. -/
theorem witness_CommitStartsWithGather_loaded : ∀ o ∈ [3, 2047],
    (loaded o).EngineRuns (issued (engineOp .program 5 o 0) 0) ∧ (loaded o).engine.phase = .program
      ∧ (loaded o).engine.path = some .load ∧ (loaded o).engine.item = .regionCommit ∧ (loaded o).stall = none
      ∧ (loaded o).engine.gathered.map (fun g => (offsetOf g.addr, g.differs)) = [(3, true), (2047, true)] := by
  unfold State.EngineRuns State.Runs; decide +kernel

theorem witness_RegionSelectionOrder_region : running.region? 0 = image.regions[0]? ∧ (running.region? 0).isSome = true := by
  decide

/-! ### Reads of a retired sector, direct writes and suspensions, clause by clause -/

/-- The port's laws as a test that can be decided. -/
def lawful (p : ArrayPort) : Bool :=
  p.hostClaim.all (·.issuer.ofHost) && p.engClaim.all (!·.issuer.ofHost) && (p.state != .free || p.op.isNone)
    && (p.state == .suspended || p.inner.isNone)

theorem lawful_iff (p : ArrayPort) : p.Lawful ↔ lawful p = true := by
  unfold ArrayPort.Lawful lawful
  cases p.hostClaim <;> cases p.engClaim <;> cases p.state <;> simp [and_assoc]

/-- Sector 300 is retired in HOLDING and HELD, and in CLEARING while a sector is erased. -/
theorem witness_SectorAndRegionRefusals_modes :
    ∀ s ∈ [inMode .held marred, (clearing 5).setMap marred.map, inMode .holding ((erasing 1).setMap marred.map)],
      s.HostFree ∧ s.Rests ∧ (s.mc.mode = .run ∨ s.mc.mode = .holding ∨ s.mc.mode = .held ∨ s.mc.mode = .clearing)
        ∧ sectorOf 0x96000 < s.window ∧ s.regionOf (sectorOf 0x96000) = some 0
        ∧ s.map.translate (sectorOf 0x96000) = none ∧ (readPins 0x96000).write = false := by
  unfold State.HostFree State.Rests; decide

/-- A direct write meets an ARST# pulse, an ERASE below the suspend limit and at it, and a READ. -/
theorem witness_DirectWriteIsProgrammedOrHeld_waits :
    ∀ y ∈ [(running.setPort { running.port with arst := .pulse }, true, 0), (erasing 1, false, 0),
        ((erasing 1).setPort { (erasing 1).port with suspCount := 1 }, false, 1), (loading false [lastWord 0], false, 0)],
      let s := y.1
      s.HostFree ∧ s.Rests ∧ s.mc.mode = .run ∧ sectorOf 0xFA000 < s.window ∧ s.regionOf (sectorOf 0xFA000) = some 1
        ∧ s.hasPolicy 1 .direct = true ∧ s.map.protects (sectorOf 0xFA000) = false
        ∧ s.map.translate (sectorOf 0xFA000) = some 500 ∧ writesLanes (writePins 0xFA000 true true 0x00FF) .both
        ∧ s.jobHeld (sectorOf 0xFA000) = false ∧ decide (s.port.state = .free) = y.2.1 ∧ s.port.suspCount = y.2.2
        ∧ s.suspendLimit = 1 := by
  unfold State.HostFree State.Rests writesLanes; decide +kernel

/-- An erase suspended for the PROGRAM of a direct write, at its attempts. -/
def suspendedWrite (erases attempts : Nat) : State :=
  (held (writePins 0xFA000 true true 0x00FF) (erasing erases)).setPort { (erasing erases).port with
    state := .suspended, hostClaim := some (direct attempts).op, direct := some (direct attempts)
    inner := some (issued (direct attempts).op 0) }

theorem witness_DirectWriteEndsOrRetries_suspended : ∀ n ∈ [1, 2], let s := suspendedWrite 1 n
    s.inReset = false ∧ s.port.state = .suspended ∧ s.port.inner = some (issued (direct n).op 0)
      ∧ s.WritesDirect (writePins 0xFA000 true true 0x00FF) (direct n) ∧ s.Rests := by
  unfold State.WritesDirect State.Rests; decide

/-- An erase under SUSPEND for a direct write that has had no attempt. -/
def suspendingWrite (erases : Nat) : State :=
  (held (writePins 0xFA000 true true 0x00FF) (erasing erases)).setPort { (erasing erases).port with
    state := .suspending, hostClaim := some (direct 0).op, direct := some (direct 0) }

theorem witness_SuspendServesHostClaim_write : (suspendingWrite 1).inReset = false ∧ (suspendingWrite 1).Rests
    ∧ (suspendingWrite 1).port.state = .suspending ∧ (suspendingWrite 1).port.hostClaim = some (direct 0).op
    ∧ (suspendingWrite 1).port.direct = some (direct 0) := by
  unfold State.Rests; decide

/-- The state with the suspend and erase timers at their values. -/
def timedErase (o : ArrayOp) (ack timer : Nat) (s : State) : State :=
  s.setPort { s.port with op := some (issued o timer), ackTimer := ack }

/-- SUSPEND for a read and for a write: a commit's erase at its first and its last attempt, each timer at 0 and at its limit. -/
theorem witness_SuspensionTimeoutsFailTheErase_suspending : ∀ n ∈ [1, 3], ∀ ack ∈ [0, 100], ∀ timer ∈ [0, 200000],
    ∀ s ∈ [timedErase eraseOp ack timer ((erasing n).setPort { suspending.port with hostClaim := some read6.op }),
      timedErase eraseOp ack timer (suspendingWrite n)],
      s.inReset = false ∧ s.port.op = some (issued eraseOp timer) ∧ s.port.engClaim = some eraseOp
        ∧ s.port.consecutive = 0 ∧ s.host.reselect = false ∧ s.port.state = .suspending ∧ s.port.ackTimer = ack
        ∧ ack ≤ 100 ∧ timer ≤ 200000 ∧ s.engine.eraseAttempts = n ∧ s.port.Lawful := by simp only [lawful_iff]; decide

/-- The erases of a job, a clear step, a control copy and a spare on trial, under SUSPEND for the read. -/
theorem witness_SuspensionTimeoutsFailTheErase_items :
    ∀ y ∈ [(jobRunning, { eraseOp with psec := 500 }), (clearing 5, eraseOp),
        (updating .controlErase 0 (engineOp .erase 1023 0 0) false, engineOp .erase 1023 0 0),
        (trying .regionCommit 5 0 (engineOp .erase 1021 0 0) running, engineOp .erase 1021 0 0)],
      let s := y.1.setPort { y.1.port with state := .suspending, hostClaim := some read6.op }
      s.inReset = false ∧ s.port.op = some (issued y.2 0) ∧ y.2.kind = .erase ∧ y.2.issuer = .engine
        ∧ s.port.engClaim = some y.2 ∧ s.port.consecutive = 0 ∧ s.host.reselect = false
        ∧ s.port.state = .suspending ∧ s.port.ackTimer ≤ 100 ∧ s.port.Lawful := by simp only [lawful_iff]; decide

/-- The inner READ and the inner PROGRAM, at their first ticks and at their limits, in the last attempt of the erase. -/
theorem witness_SuspensionTimeoutsFailTheErase_inner :
    (∀ timer ∈ [0, 50], let s := (reading (erasing 3)).setPort { suspended.port with inner := some (issued read6.op timer) }
      s.port.op = some (issued eraseOp 0) ∧ s.port.engClaim = some eraseOp ∧ s.port.state = .suspended
        ∧ s.port.inner = some (issued read6.op timer) ∧ timer ≤ 50
        ∧ s.Reads (readPins 0x3000) read6 ∧ s.engine.eraseAttempts = 3 ∧ s.port.Lawful ∧ s.inReset = false
        ∧ s.port.consecutive = 0 ∧ s.host.reselect = false)
    ∧ ∀ n ∈ [1, 2], ∀ timer ∈ [0, 1000],
      let s := (suspendedWrite 3 n).setPort { (suspendedWrite 3 n).port with inner := some (issued (direct n).op timer) }
      s.inReset = false ∧ s.port.op = some (issued eraseOp 0) ∧ s.port.engClaim = some eraseOp ∧ s.port.consecutive = 0
        ∧ s.host.reselect = false ∧ s.port.state = .suspended ∧ s.port.inner = some (issued (direct n).op timer)
        ∧ s.WritesDirect (writePins 0xFA000 true true 0x00FF) (direct n) ∧ timer ≤ 1000
        ∧ s.port.Lawful := by
  simp only [lawful_iff]; unfold State.WritesDirect State.Reads; exact ⟨by decide, by decide⟩

/-- Sector 6's commit has read every word of LOAD on the way to RELOCATE, with both spares BAD: the sector is to be retired,
and a read of it waits for the port while the last READ runs. -/
def retiring : State :=
  let o := engineOp .read 6 2047 0
  let s := working { onSector .load .regionCommit 6 6 with
    itemRegion := some 0, path := some .load, mergeSector := some 6, cursor := 2047, boundReloc := true
    entryCount := 33 } o (running.setMap { remap := [], bad := 3, protection := [] })
  ((held (readPins 0x3000) s).setReader { state := .portWait, access := some read6 }).setPort
    { s.port with hostClaim := some read6.op }

theorem witness_CommitStartsWithGather_retiring :
    retiring.Runs (issued (engineOp .read 6 2047 0) 0) ∧ retiring.engine.phase = .load ∧ retiring.engine.cursor = 2047
      ∧ retiring.loadRetires = true ∧ retiring.port.arst = .inactive
      ∧ retiring.host = HostPort.holds (readPins 0x3000)
      ∧ retiring.reader = { state := .portWait, access := some read6 }
      ∧ sectorOf read6.addr = retiring.engine.sector ∧ retiring.port.hostClaim = some read6.op
      ∧ retiring.port.direct = none := by
  unfold State.Runs; decide

/-- Its end of LOAD waits, and the READ of the host read runs, at a timer and after some timeouts. -/
def retirementWaits (timer consecutive : Nat) : State :=
  let s := retiring.setEngine { retiring.engine with cursor := 2048 }
  (reading s).setPort { s.port with op := some (issued read6.op timer), engClaim := none, consecutive := consecutive }

theorem witness_HostReadReturnsAssembledWord_retires :
    let s := retirementWaits 10 0
    s.Reads (readPins 0x3000) read6 ∧ s.inReset = false ∧ s.Rests ∧ s.port.state = .running
      ∧ s.port.op = some (issued read6.op 10) ∧ s.AwaitsRetirement ∧ s.engine.itemRegion = some 0 ∧ s.stall = none
      ∧ s.port.Lawful ∧ (readRunning 10 0).endOfLoadWaits = false := by
  simp only [lawful_iff]; unfold State.Reads State.Rests State.AwaitsRetirement; decide

theorem witness_ReadTimeoutsLoseTheArray_retires : ∀ t ∈ [0, 50],
    let s := retirementWaits t 0
    s.Runs (issued read6.op t) ∧ s.Reads (readPins 0x3000) read6 ∧ s.host.reselect = false ∧ t ≤ 50
      ∧ s.port.consecutive = 0 ∧ s.stall = none ∧ s.cru.generation < 0xFFFFFFFE ∧ s.AwaitsRetirement
      ∧ s.port.Lawful := by
  simp only [lawful_iff]; unfold State.Runs State.Reads State.AwaitsRetirement; decide

/-- A written-back image that is complete, in a lawful mode: the commit's end keeps the whole map. -/
theorem witness_CommitEraseEnds_lawful :
    (working (onSector .writeback .regionCommit 5 5) (lastOp 5) running).ModeLawful := by
  unfold State.ModeLawful; decide

/-- An operation waits for AREADY, or for the pulse before it, at a timer of 0 and at its limit, after no timeout and one: a
host read, the engine's erase, and start-up's READ. -/
theorem witness_PulseEndIssuesWaitingOperation_waits : ∀ c ∈ [0, 1], ∀ pulse ∈ [0, 10],
    (∀ t ∈ [0, 50], let s := pulsing read6.op (some read6.op) pulse
      let u := s.setPort { s.port with op := some { op := read6.op, timer := t, issued := false }, consecutive := c }
      u.inReset = false ∧ u.host.reselect = false ∧ u.port.arst = .pulse ∧ u.port.state = .running
        ∧ u.port.op = some { op := read6.op, timer := t, issued := false } ∧ u.port.consecutive = c ∧ t ≤ 50
        ∧ u.port.Lawful)
    ∧ (∀ t ∈ [0, 200000], let s := pulsing eraseOp none pulse
      let u := s.setPort { s.port with op := some { op := eraseOp, timer := t, issued := false }, consecutive := c }
      u.inReset = false ∧ u.port.arst = .pulse ∧ u.port.op = some { op := eraseOp, timer := t, issued := false }
        ∧ u.port.consecutive = c ∧ t ≤ 200000 ∧ u.port.Lawful)
    ∧ ∀ t ∈ [0, 50], let s := readingCopy { copy := .a, words := [], judgedA := none }
      let o : ArrayOp := { kind := .read, psec := 1022, offset := 0, value := 0, issuer := .startUp }
      let u := s.setPort { s.port with
        op := some { op := o, timer := t, issued := false }, consecutive := c, arst := .pulse, arstTimer := pulse }
      u.inReset = false ∧ u.host.reselect = false ∧ u.port.arst = .pulse ∧ u.port.state = .running
        ∧ u.port.op = some { op := o, timer := t, issued := false } ∧ u.port.consecutive = c ∧ u.mc.mode = .startup
        ∧ u.port.hostClaim = none ∧ t ≤ 50 ∧ u.port.Lawful := by
  simp only [lawful_iff]; decide

/-- The table of R212 is asked of each state of the port. -/
theorem witness_PulseEndIssuesWaitingOperation_reports :
    (running.port.arst ≠ .pulse ∧ running.port.state = .free)
    ∧ (suspending.port.arst ≠ .pulse ∧ suspending.port.state = .suspending)
    ∧ (suspended.port.arst ≠ .pulse ∧ suspended.port.state = .suspended
      ∧ suspended.port.inner = some (issued read6.op 0))
    ∧ (pulsing eraseOp none 9).port.arst = .pulse ∧ (pulsing eraseOp none 10).port.arst = .pulse := by decide

/-! ### Single steps and operations against the data sheet

Each expected value is the data sheet's, at the place the name's comment gives. -/

/-- Section 13.2, note 1: PURGE 2 is 11h, 01h, 02h, ECh. -/
theorem test_frame_purge_2 : frameBytes 0x11 [2] = [0x11, 0x01, 0x02, 0xEC] := by decide

/-- R138: the CRC of the nine characters 1 to 9 is 29B1h. -/
theorem test_crc_check : crc16 [0x31, 0x32, 0x33, 0x34, 0x35, 0x36, 0x37, 0x38, 0x39] = 0x29B1 := by decide +kernel

/-- Section 7.5, note 1: 15 + 164 + 4 bytes are 92 words. -/
theorem test_record_words :
    (recordWords { generation := 1, image := defaultImage 16 false, protection := [{ first := 0, count := 4 }]
                   remap := [], bad := 0 }).length = 92 := by decide +kernel

/-- R8: the default image passes validation. -/
theorem test_default_image : validateImage sparesTooMany (encodeImage (defaultImage 16 false))
    = .valid (defaultImage 16 false) := by decide +kernel

/-- Section 4.11: b's word 12FFh under FF00h on the low lane becomes 1200h, and is feasible. -/
theorem test_target_4_11 : targetWord .low 0xFF00 0x12FF = 0x1200 ∧ feasible .low 0xFF00 0x12FF = true
    ∧ feasible .both 0xC3C3 0x3C3C = false := by decide

/-- Section 8.3, the example's steps 2 to 4: SPARES, then TILING of region 2, then AF of region 2. -/
theorem test_validation_example :
    let im := fun s : Nat => ({ version := 1, spares := s, suspendLimit := 4, regions := [
      { first := 0, count := 500, policy := .staged, blocks := 20, af := 100, ageCode := 2, stallLimit := 40 },
      { first := 500, count := 400, policy := .direct, blocks := 0, af := 0, ageCode := 0, stallLimit := 1 },
      { first := 900, count := 114, policy := .staged, blocks := 12, af := 800, ageCode := 3, stallLimit := 50 }] }
      : SetupImage)
    validateImage (fun n => n != 16) (encodeImage (im 8)) = .invalid .spares none
      ∧ validateImage sparesTooMany (encodeImage (im 16)) = .invalid .tiling (some 2)
      ∧ validateImage sparesTooMany (encodeImage (im 8)) = .invalid .af (some 2) := by decide +kernel

/-- Section 2.12, step 3: the high lane 78h coalesces into FF56h, which becomes 7856h on both lanes, its stamp kept. -/
theorem test_coalesce_2_12 :
    (after (.hostAccessArrival (writePins 0x20 false true 0x78AA)) waiting).contents 0
      = [{ addr := 0x20, data := 0x7856, mask := .both, stamp := 0 }] := by decide

/-- R26: the sixty-fifth distinct write stalls, HWAIT# active. -/
theorem test_stall :
    let t := after (.hostAccessArrival (writePins 0x64 true true 0x1234)) (holding full running)
    t.hwait = true ∧ t.count 0 = 64 ∧ t.stalled 0 = true := by decide +kernel

/-- Section 3.8, step 3: lane 1 of the COMMITTING entry and lane 0 of the WAITING one. -/
theorem test_fast_read_3_8 :
    (after (.hostAccessArrival (readPins 0x20)) covered).hd = some 0x1234 := by decide +kernel

/-- R10: a read outside the window returns FFFFh with HERR# and makes no record. -/
theorem test_outside_read :
    let t := after (.hostAccessArrival (readPins 0x1FE000)) running
    t.hd = some 0xFFFF ∧ t.herrPin = true ∧ t.log.records = [] := by decide +kernel

/-- R209: the release of HCS# ends what a DONE port presents. -/
theorem test_select_release :
    let t := after .hostSelectRelease (running.setHost (HostPort.presents (readPins 0) (some 0x1234) true))
    t.hd = none ∧ t.herrPin = false ∧ t.host.state = .idle := by decide +kernel

/-- R208: a select during a BUSY access waits, and is taken when the release and the access are over. -/
theorem test_reselect :
    let s := after (.hostSelectWhileBusy (readPins 0x1FE000)) (after .hostSelectRelease stalled)
    s.host.reselect = true ∧ (after .stallLimitExpiry s).hd = some 0xFFFF := by decide +kernel

/-- R148: after the release of RST# the READ of word 0 of copy A runs. -/
theorem test_reset_release :
    let t := after (.resetRelease ⟨{ saddr := 5, srate := 2, cfgIgnore := false, defAf := true }, true⟩) State.reset
    t.port.op.map (·.op.word) = some (1022 * 2048) ∧ t.straps.saddr = 5 ∧ t.mc.mode = .startup := by decide +kernel

/-- R139, R150, R153: on erased flash both copies are invalid by tag, and the part runs with the default image. -/
theorem test_startup_erased :
    let t := after (.arrayReadEnd 0xFFFF) (after (.arrayReadEnd 0xFFFF) (after (.resetRelease ⟨Straps.low, true⟩) State.reset))
    t.mc.mode = .run ∧ t.image = some (defaultImage 16 false)
      ∧ t.log.records.map (·.report) = [{ kind := .startupDefaults, reason := some .noValidCopy }] := by decide +kernel

/-- R215: RESET drops a stalled write and leaves the outputs inactive. -/
theorem test_reset : (after .reset stalled).stall = none ∧ (after .reset stalled).hwait = false
    ∧ (after .reset stalled).log.attn = false := by decide +kernel

/-- R168: a rise of FLUSH marks a STAGED region with entries, and its commit starts. -/
theorem test_flush_level : (after (.flushLevelChange true) waiting).marked 0 = true
    ∧ (after (.flushLevelChange true) waiting).engine.item = .regionCommit
    ∧ (after (.flushLevelChange false) waiting).marked 0 = false := by decide +kernel

/-- Section 10.6, the example's edge 4: the device slot shows ATTN, the engine at work and stream mode code 0. -/
theorem test_stream_device_slot :
    let s := ((erasing 1).setStream { running := true, position := some 2, sts := 0, stsync := false }).setLog fullLog
    (after .stsclkRisingEdge s).stream.sts = 0xC ∧ (after .stsclkRisingEdge s).stream.stsync = false
      ∧ (after .stsclkRisingEdge s).stream.position = some 3 := by decide +kernel

/-- R172: FFh selects under BROADCAST, the part's own address under SELECTED, another one deselects. -/
theorem test_address : (after (.addressCharacter 0xFF) running).setup.selection = .broadcast
    ∧ (after (.addressCharacter 0) running).setup.selection = .selected
    ∧ (after (.addressCharacter 5) listening).setup.selection = .none := by decide

/-- R171, R175: a framing error drops the partial frame and keeps the selection; a break deselects as well. -/
theorem test_line_errors : (after .framingError receiving).setup.rx = .waitCommand
    ∧ (after .framingError receiving).setup.selection = .selected
    ∧ (after .breakDetected receiving).setup.selection = .none
    ∧ (after .breakDetected receiving).setup.buffer = none := by decide

/-- R174: at the fifth millisecond tick the partial frame goes. -/
theorem test_gap : (after .gapTimeout receiving).setup.rx = .waitCommand ∧ (after .gapTimeout receiving).time = 1000 := by
  decide +kernel

/-- R170, R173: the four characters of PURGE 2 make the reply of PURGE 2 on three regions. -/
theorem test_characters :
    ((frameBytes 0x11 [2]).foldl (fun s v => after (.frameCharacter v) s) listening).setup.reply
      = (after (.purge [2]) listening).setup.reply
      ∧ (after (.purge [2]) listening).setup.reply = some { code := 0x80, payload := [0, 0] } := by decide +kernel

/-- Section 9.8: a frame that completes while a reply is due is buffered, and a further one is discarded. -/
theorem test_buffer :
    let s := after (.flush [0xFF]) (after (.setupRead []) listening)
    s.setup.buffer.map (·.frame.code) = some 0x10
      ∧ (after (.purge [2]) s).setup.buffer.map (·.frame.code) = some 0x10
      ∧ (after (.frameBuffered (goodFrame 0x11 [2])) s).setup.buffer.map (·.frame.code) = some 0x10 := by decide +kernel

/-- Section 9.8: the end of a reply executes the buffered frame. -/
theorem test_reply_end :
    let s := after .replyStart (after (.flush [0xFF]) (after (.setupRead []) (selected waiting)))
    s.setup.tx = .sending ∧ (after .replyEnd s).setup.tx = .replyDue ∧ (after .replyEnd s).marked 0 = true := by
  decide +kernel

/-- Section 13.6: IDENT begins 40h, 72h and ends with SADDR and mode code 01h in RUN. -/
theorem test_ident : ((after (.ident []) listening).setup.reply.map fun r => (r.code, r.payload.take 2, r.payload.drop 3))
    = some (0x80, [0x40, 0x72], [0x00, 0x01]) := by decide

/-- R182: STATUS of three regions is 28 + 9 bytes; region 0's count is in the first three of the nine. -/
theorem test_status : ((after (.status []) (selected waiting)).setup.reply.map fun r => (r.payload.length, (r.payload.drop 28).take 3))
    = some (37, [0x01, 0x00, 0x01]) := by decide +kernel

/-- Section 13.5: a SPARE_BAD record of spare 3, physical 1018, and the unstored count. -/
theorem test_fault_read :
    let f : FaultRecord := { seq := 0x0102, first := 5000, last := 5000
                             report := { kind := .spareBad, spare := some 3, psec := some 1018 } }
    (after (.faultRead []) (listening.setLog { records := [f], unstored := 2, nextSeq := 0, attn := true })).setup.reply
      = some { code := 0x80
               payload := [0x02, 0x01, 0x04, 0x88, 0x13, 0, 0, 0x88, 0x13, 0, 0, 1, 0, 0x0C, 0xFF, 0xFF, 0xFF, 0xFA, 0x03, 3,
                           0xFF, 0xFF, 0xFF, 0xFF, 2] } := by decide +kernel

/-- Section 10.4, step 5: a merge takes place although the log is full; steps 4 and 6: the unstored count. -/
theorem test_log_merge :
    let x : FaultRecord := { seq := 131, first := 5003, last := 5003, report := { kind := .writeDropped, region := some 1 } }
    let l : FaultLog := { records := List.replicate 31 { x with seq := 100 } ++ [x], unstored := 0, nextSeq := 132, attn := true }
    let m := (l.take { kind := .spareBad, spare := some 3, psec := some 1018 } 5004).take
      { kind := .writeDropped, region := some 1 } 5005
    m.unstored = 1 ∧ m.nextSeq = 133 ∧ m.records.length = 32
      ∧ m.records.getLast?.map (fun r => (r.seq, r.last, r.report.count)) = some (131, 5005, 2) := by decide +kernel

/-- R187: SETUP_READ gives the active image's bytes. -/
theorem test_setup_read : (after (.setupRead []) listening).setup.reply.map (·.payload) = some (encodeImage image) := by
  decide +kernel

/-- Table 13-1: REMAP_READ of one entry (300, NONE): S, M, the entry, and the bad-spare flags. -/
theorem test_remap_read : (after (.remapRead []) (selected marred)).setup.reply
    = some { code := 0x80, payload := [2, 1, 0x2C, 0x01, 0xFF, 0, 0, 0, 0] } := by decide +kernel

/-- R184: region 3 of three is INVALID with reason REGION. -/
theorem test_flush_invalid : (after (.flush [3]) listening).setup.reply = some { code := 0x84, payload := [0x03, 0xFF] } := by
  decide +kernel

/-- R185: PURGE replies with the number of entries it discards. -/
theorem test_purge : (after (.purge [0]) (selected waiting)).setup.reply = some { code := 0x80, payload := [1, 0] }
    ∧ (after (.purge [0]) (selected waiting)).count 0 = 0 := by decide +kernel

/-- R157, R158: HOLD with entries is HOLDING, and without any is HELD at once. -/
theorem test_hold : (after (.hold []) (selected waiting)).mc.mode = .holding
    ∧ (after (.hold []) listening).mc.mode = .held := by decide +kernel

/-- R159: RELEASE returns to RUN. -/
theorem test_release : (after (.release []) (inMode .held listening)).mc.mode = .run := by decide +kernel

/-- R161: SETUP_LOAD outside HELD is WRONG_STATE; R207: in HELD it restarts the stream. -/
theorem test_setup_load : (after (.setupLoad (encodeImage image)) listening).setup.reply = some { code := 0x83, payload := [] }
    ∧ (after (.setupLoad (encodeImage image)) (inMode .held listening)).image = some image
    ∧ (after (.setupLoad (encodeImage image)) (inMode .held listening)).stream.position = none := by decide +kernel

/-- R189, R142: SETUP_STORE with no current copy writes copy A. -/
theorem test_setup_store : (after (.setupStore []) listening).setup.reply = some { code := 0x81, payload := [] }
    ∧ (after (.setupStore []) listening).engine.itemPhys = some 1022 := by decide +kernel

/-- R190: a range past W − 1 is INVALID with reason RANGE; one up to it is added. -/
theorem test_protect : (after (.protect [0xFB, 0x03, 2, 0]) listening).setup.reply = some { code := 0x84, payload := [0x05, 0xFF] }
    ∧ (after (.protect [0xFB, 0x03, 1, 0]) listening).map.protection = [{ first := 1019, count := 1 }] := by decide +kernel

/-- R191: a sector of a STAGED region is NOT_DIRECT; one of the DIRECT region is erased. -/
theorem test_sector_erase : (after (.sectorErase [0, 0]) listening).setup.reply = some { code := 0x84, payload := [0x08, 0xFF] }
    ∧ (after (.sectorErase [0xF4, 0x01]) listening).port.op.map (·.op.psec) = some 500 := by decide +kernel

/-- R165, R86: ARRAY_CLEAR begins with sector 0. -/
theorem test_array_clear : (after (.arrayClear []) (inMode .held listening)).engine.phase = .clearErase
    ∧ (after (.arrayClear []) (inMode .held listening)).engine.itemPhys = some 0 := by decide +kernel

/-- R178: the replies to a bad check, an over-long length and an unknown code. -/
theorem test_refused_frames : (after (.checkErrorFrame 0x01 []) listening).setup.reply = some { code := 0x86, payload := [] }
    ∧ (after (.frameLength 0x01 251 []) listening).setup.reply = some { code := 0x84, payload := [0x01, 0xFF] }
    ∧ (after (.unknownCommand 0x25 []) listening).setup.reply = some { code := 0x85, payload := [] } := by decide +kernel

/-- R28: the stalled write is dropped at 500 µs with WRITE_DROPPED. -/
theorem test_stall_expiry : (after .stallLimitExpiry stalled).herrPin = true ∧ (after .stallLimitExpiry stalled).time = 500
    ∧ (after .stallLimitExpiry stalled).log.records.map (·.report)
      = [{ kind := .writeDropped, region := some 0, addr := some 0x64 }] := by decide +kernel

/-- R35: age code 1 makes a region with an entry of tick 0 due at tick 2. -/
theorem test_age : (after (.regionAgeLimit 0) waiting).time = 2000
    ∧ (after (.regionAgeLimit 0) waiting).engine.item = .regionCommit := by decide +kernel

/-- R51, R99: the inner READ's word is returned, and the erase resumes with its suspension count at 1. -/
theorem test_read_end : (after (.arrayReadEnd 0xBEEF) suspended).hd = some 0xBEEF
    ∧ (after (.arrayReadEnd 0xBEEF) suspended).port.suspCount = 1
    ∧ (after (.arrayReadEnd 0xBEEF) suspended).port.state = .running := by decide +kernel

/-- Section 4.11, step 2: the last READ begins PROGRAM with 0F0Fh at offset 4, every entry COMMITTING; R72: an infeasible old
word begins LOAD. -/
theorem test_gather_read :
    let t := after (.arrayReadEnd 0xA5A5) (gathering411 none)
    let u := after (.arrayReadEnd 0x0000) (gathering411 none)
    t.engine.phase = .program ∧ t.port.op.map (fun x => (x.op.offset, x.op.value)) = some (4, 0x0F0F) ∧ t.count 0 = 3
      ∧ u.engine.phase = .load ∧ u.port.op.map (fun x => (x.op.kind, x.op.offset)) = some (.read, 0) := by decide +kernel

/-- Section 4.11, steps 4 to 6: the pass of offset 5 releases b, then c, and the commit ends; its note 4: two failures lead to
LOAD, bound for RELOCATE, with b and c in the queue. -/
theorem test_gather_program :
    let t := after (.arrayProgramEnd true) (programming411 1)
    let u := after (.arrayProgramEnd false) (programming411 2)
    t.count 0 = 0 ∧ t.engine.phase = .idle ∧ t.engine.lastServed = some 0
      ∧ u.engine.phase = .load ∧ u.engine.boundReloc = true ∧ u.count 0 = 2 := by decide +kernel

/-- R109: a first failed attempt is repeated; a second ends with DIRECT_WRITE_FAILED. -/
theorem test_direct_fail : (after (.arrayProgramEnd false) (programming 1)).hwait = true
    ∧ (after (.arrayProgramEnd false) (programming 2)).herrPin = true
    ∧ (after (.arrayProgramEnd false) (programming 2)).log.records.map (·.report.kind) = [.directWriteFailed] := by
  decide +kernel

/-- R77, R118: the third failed attempt puts spare 0, physical sector 1021, on trial; R78: a pass begins WRITEBACK. -/
theorem test_erase_end : (after (.arrayEraseEnd false) (erasing 3)).engine.itemPhys = some 1021
    ∧ (after (.arrayEraseEnd true) (erasing 1)).port.op.map (fun x => (x.op.offset, x.op.value)) = some (0, 0x1234) := by
  decide +kernel

/-- R98: the acknowledgement issues the host's READ inside the suspension. -/
theorem test_acknowledgement : (after .suspendAcknowledgement suspending).port.state = .suspended
    ∧ (after .suspendAcknowledgement suspending).reader.state = .reading := by decide +kernel

/-- R103, R107: the second timeout in a row is ARRAY_TIMEOUT then ARRAY_LOST. -/
theorem test_array_lost : (after .operationTimeout (readRunning 10 1)).mc.mode = .offline
    ∧ (after .operationTimeout (readRunning 10 1)).time = 40
    ∧ (after .operationTimeout (readRunning 10 1)).log.records.map (·.report.kind) = [.arrayTimeout, .arrayLost] := by
  decide +kernel

/-- R104: the SUSPEND that is not acknowledged in 100 µs; R105: the inner READ's timeout. -/
theorem test_suspension_timeouts :
    (after (.suspendTimeout .acknowledgement) suspending).log.records.map (·.report)
      = [{ kind := .arrayTimeout, psec := some 5, reason := some .suspend }]
    ∧ (after (.suspendTimeout .acknowledgement) suspending).time = 100
    ∧ (after .innerOperationTimeout suspended).log.records.map (·.report)
      = [{ kind := .arrayTimeout, psec := some 6, reason := some .read }]
    ∧ (after .innerOperationTimeout suspended).herrPin = true := by decide +kernel

/-- R212: the end of the pulse issues the READ that waited for it. -/
theorem test_pulse_end :
    let s := after (.suspendTimeout .acknowledgement) suspending
    s.arstPin = true ∧ s.reader.state = .portWait ∧ (after .arstPulseEnd s).arstPin = false
      ∧ (after .arstPulseEnd s).reader.state = .reading := by decide +kernel

/-- R212: with AREADY low at the release of RST# the READ of start-up waits for it, ARST# inactive, and its time runs. -/
theorem test_release_not_ready :
    let t := after (.resetRelease ⟨Straps.low, false⟩) State.reset
    t.arstPin = false ∧ t.port.op.map (·.issued) = some false ∧ (elapse 7 t).port.op.map (·.timer) = some 7
      ∧ (after .arstPulseEnd t).port.op.map (·.issued) = some true := by decide +kernel

/-- R60, R125: the sector's retirement comes with the end of the READ that waited, and after its word. -/
theorem test_retirement_waits :
    let s := after (.arrayReadEnd 0) retiring
    s.map.remap = [] ∧ s.port.op.map (·.op) = some read6.op ∧ (after (.arrayReadEnd 0xBEEF) s).hd = some 0xBEEF
      ∧ (after (.arrayReadEnd 0xBEEF) s).map.remap = [{ sector := 6, target := none }] := by decide +kernel

/-- R212: the pulse lasts 10 µs at least. -/
theorem test_pulse_lasts : (after .arstPulseEnd (pulsing read6.op (some read6.op) 4)).time = 6 := by decide +kernel

/-- R174: a character whose start bit came before the fifth millisecond tick keeps its frame, at 57 600 bits a second. -/
theorem test_gap_kept : (receiving.setTime 100).gapPassed = false := by decide +kernel

/-- An empty queue is one microsecond (log entry 2), and none in reset (R214). -/
theorem test_idle_step : (match step running with | .next t => t.time | _ => 7) = 1
    ∧ (match step State.reset with | .next t => t.time | _ => 7) = 0 := by decide +kernel

/-- The host's core starts at State.reset. -/
theorem test_core : core.reset = State.reset := rfl

end Sys2Proof.Tests
end

/-! Settles O39 and O41: the refusals of a host access by address, sector and region (Table 1-3). An arrival at a
host port that nothing occupies is the classification of its access with the port BUSY, and where nothing waits for the
end of the event, what classification answers is the next state. -/

namespace Sys2Proof.Machine

/-! ### Completion of the access that an arrival brought -/

/-- An access that an arrival brought completes: the port presents its outcome. -/
theorem completeAccess_setHost_holds (p : HostPins) (e : Bool) (d : Option Word) (s : State) :
    completeAccess e d (s.setHost (HostPort.holds p)) = s.setHost (HostPort.presents p d e) :=
  completeAccess_held rfl e d

/-- A refused read presents FFFFh with HERR#, and records nothing. -/
theorem failRead_setHost_holds (p : HostPins) (s : State) :
    failRead (s.setHost (HostPort.holds p)) = s.setHost (HostPort.presents p (some 0xFFFF) true) :=
  completeAccess_setHost_holds p true (some 0xFFFF) s

/-- A refused write is reported, and presents HERR# with no data. -/
theorem refuseWrite_setHost_holds (reason : FaultReason) (region : Option Nat) (a : HostAddr) (p : HostPins)
    (s : State) :
    refuseWrite reason region a (s.setHost (HostPort.holds p))
      = (report (refusal reason region a) s).setHost (HostPort.presents p none true) :=
  completeAccess_setHost_holds p true none (report (refusal reason region a) s)

/-! ### From an arrival to its classification -/

/-- The host port does not wait once it holds or presents an access; nothing else of `Rests` reads it. -/
theorem State.Rests.setHost {s : State} (h : s.Rests) {x : HostPort} (hx : x.state ≠ .idle) : (s.setHost x).Rests := by
  obtain ⟨hwork, hdrain, hgrant, -⟩ := h
  exact ⟨hwork, hdrain, hgrant, fun hi => hx hi.1⟩

/-- The fault log is nothing that the end of an event waits for. -/
theorem State.Rests.report {s : State} (h : s.Rests) (f : FaultReport) : (report f s).Rests := h

/-- An arrival at a free host port, past STARTUP, is the classification of its access with the port BUSY (R208, R9). -/
theorem exec_hostAccessArrival_classify {s : State} (hfree : s.HostFree) (hmode : s.mc.mode ≠ .startup)
    (p : HostPins) :
    exec (.hostAccessArrival p) s = .next (refresh (finish (classify p (s.setHost (HostPort.holds p))))) := by
  obtain ⟨hawake, hidle, -⟩ := hfree
  have hselect : selectActive p s = arrive p s := by unfold selectActive; rw [hidle]
  have harrive : arrive p s = classify p (s.setHost (HostPort.holds p)) := if_neg hmode
  rw [exec_awake hawake (by simp) (by simp), effect, hselect, harrive]

/-- An access that classification answers at once, in a state that rests, completes with no other effect. -/
theorem exec_hostAccessArrival_answered {s t : State} {p : HostPins} {d : Option Word} {e : Bool} (hfree : s.HostFree)
    (hmode : s.mc.mode ≠ .startup) (hrests : t.Rests)
    (hanswer : classify p (s.setHost (HostPort.holds p)) = t.setHost (HostPort.presents p d e)) :
    exec (.hostAccessArrival p) s = .next (refresh (t.setHost (HostPort.presents p d e))) := by
  have hdone : (t.setHost (HostPort.presents p d e)).Rests := hrests.setHost (by simp [HostPort.presents])
  rw [exec_hostAccessArrival_classify hfree hmode, hanswer, finish_of_rests hdone]

/-- A write that classification refuses, in a state that rests, is reported and completes with HERR#. -/
theorem exec_hostAccessArrival_refused {s : State} {p : HostPins} {reason : FaultReason} {region : Option Nat}
    (hfree : s.HostFree) (hmode : s.mc.mode ≠ .startup) (hrests : s.Rests)
    (hrefuse : classify p (s.setHost (HostPort.holds p))
      = refuseWrite reason region p.addr (s.setHost (HostPort.holds p))) :
    exec (.hostAccessArrival p) s
      = .next (refresh ((report (refusal reason region p.addr) s).setHost (HostPort.presents p none true))) :=
  exec_hostAccessArrival_answered hfree hmode (hrests.report _) (hrefuse.trans (refuseWrite_setHost_holds ..))

/-- A read that classification fails, in a state that rests, completes with FFFFh and HERR#, and is not recorded. -/
theorem exec_hostAccessArrival_failed {s : State} {p : HostPins} (hfree : s.HostFree) (hmode : s.mc.mode ≠ .startup)
    (hrests : s.Rests) (hfail : classify p (s.setHost (HostPort.holds p)) = failRead (s.setHost (HostPort.holds p))) :
    exec (.hostAccessArrival p) s = .next (refresh (s.setHost (HostPort.presents p (some 0xFFFF) true))) :=
  exec_hostAccessArrival_answered hfree hmode hrests (hfail.trans (failRead_setHost_holds p s))

/-! ### The steps of Table 1-3 -/

/-- Step 1: a read OUTSIDE the window fails in every mode (R10). -/
theorem classify_outside_read {s : State} {p : HostPins} (h : s.window ≤ sectorOf p.addr) (hread : p.write = false) :
    classify p s = failRead s := by
  rw [classify, if_pos h, hread, if_neg Bool.false_ne_true]

/-- Step 1: a write OUTSIDE the window is refused in every mode (R10). -/
theorem classify_outside_write {s : State} {p : HostPins} (h : s.window ≤ sectorOf p.addr) (hwrite : p.write = true) :
    classify p s = refuseWrite .outsideWindow none p.addr s := by
  rw [classify, if_pos h, if_pos hwrite]

/-- The region of a sector has a record. -/
theorem State.region?_of_regionOf {s : State} {sector r : Nat} (h : s.regionOf sector = some r) :
    ∃ g, s.region? r = some g := by
  obtain ⟨hr, -⟩ := List.findIdx?_eq_some_iff_getElem.mp h
  exact ⟨_, List.getElem?_eq_getElem hr⟩

/-- Steps 1 and 2 let an access inside the window come to its sector: a read in every mode that reads, a write in RUN
(R12, R13). -/
theorem classify_inRegion {s : State} {p : HostPins} {r : Nat} (hin : sectorOf p.addr < s.window)
    (hregion : s.regionOf (sectorOf p.addr) = some r) (hmode : s.mc.mode ≠ .offline)
    (hpass : p.write = true → s.mc.mode = .run) : ∃ g, classify p s = classifyInRegion p r g s := by
  obtain ⟨g, hg⟩ := State.region?_of_regionOf hregion
  have hcounted : (p.write && (s.mc.mode == .holding || s.mc.mode == .held || s.mc.mode == .clearing)) = false := by
    cases hw : p.write with
    | false => rfl
    | true => rw [hpass hw]; rfl
  refine ⟨g, ?_⟩
  rw [classify, if_neg (Nat.not_le.mpr hin), classifyInside, if_neg hmode, hcounted, if_neg Bool.false_ne_true,
    hregion]
  dsimp only
  rw [hg]

/-- Step 3: a read of a retired sector fails (R14). -/
theorem classifyInRegion_retired_read {s : State} {p : HostPins} {r : Nat} {g : RegionRec}
    (h : s.map.translate (sectorOf p.addr) = none) (hread : p.write = false) :
    classifyInRegion p r g s = failRead s := by
  rw [classifyInRegion, h]
  dsimp only
  rw [hread, if_neg Bool.false_ne_true]

/-- Step 3: a write to a retired sector is refused (R14). -/
theorem classifyInRegion_retired_write {s : State} {p : HostPins} {r : Nat} {g : RegionRec}
    (h : s.map.translate (sectorOf p.addr) = none) (hwrite : p.write = true) :
    classifyInRegion p r g s = refuseWrite .retiredSector (some r) p.addr s := by
  rw [classifyInRegion, h]
  exact if_pos hwrite

/-- Past step 3 a write goes on to the steps of its own. -/
theorem classifyInRegion_write {s : State} {p : HostPins} {r : Nat} {g : RegionRec}
    (h : s.map.translate (sectorOf p.addr) ≠ none) (hw : p.write = true) :
    ∃ psec, classifyInRegion p r g s = classifyWrite p r psec s := by
  obtain ⟨psec, hpsec⟩ := Option.ne_none_iff_exists'.mp h
  exact ⟨psec, by rw [classifyInRegion, hpsec]; exact if_pos hw⟩

/-- Step 4: a protected sector refuses the write (R15). -/
theorem classifyWrite_protected {s : State} {p : HostPins} (r psec : Nat)
    (h : s.map.protects (sectorOf p.addr) = true) :
    classifyWrite p r psec s = refuseWrite .protectedSector (some r) p.addr s := if_pos h

/-- Step 5: a READONLY region refuses a write to a sector that is not protected (R16). -/
theorem classifyWrite_readonly {s : State} {p : HostPins} {r : Nat} (psec : Nat)
    (hp : ¬s.map.protects (sectorOf p.addr) = true) (h : s.hasPolicy r .readonly = true) :
    classifyWrite p r psec s = refuseWrite .readonlyRegion (some r) p.addr s := by
  rw [classifyWrite, if_neg hp, if_pos h]

/-- Steps 6 and 7: a write that nothing refuses and that enables no lane completes with no effect (R17). -/
theorem classifyWrite_noLane {s : State} {p : HostPins} {r : Nat} (psec : Nat)
    (hp : ¬s.map.protects (sectorOf p.addr) = true) (hr : ¬s.hasPolicy r .readonly = true) (h0 : p.lane0 = false)
    (h1 : p.lane1 = false) : classifyWrite p r psec s = completeAccess false none s := by
  rw [classifyWrite, if_neg hp, if_neg hr, h0, h1]
  rfl

/-! ### The statements -/

/-- Settles O39: step 1 of Table 1-3 answers a read and a write before the mode is asked. -/
theorem outsideAccessIsRefused : Obligations.OutsideAccessIsRefused := by
  intro s p hfree hrests hmode hout
  constructor
  · intro hread
    exact exec_hostAccessArrival_failed hfree hmode hrests (classify_outside_read hout hread)
  · intro hwrite
    exact exec_hostAccessArrival_refused hfree hmode hrests (classify_outside_write hout hwrite)

/-- Settles O41, by the steps of Table 1-3 in order: the sector retired, protected, its region READONLY, and then
a write with no lane. -/
theorem sectorAndRegionRefusals : Obligations.SectorAndRegionRefusals := by
  intro s p r hfree hrests hmode hin hregion writes refused
  have hstartup : s.mc.mode ≠ .startup := by intro h; simp [h] at hmode
  have hoffline : s.mc.mode ≠ .offline := by intro h; simp [h] at hmode
  have hclassify : (p.write = true → s.mc.mode = .run) → ∃ g, classify p (s.setHost (HostPort.holds p))
      = classifyInRegion p r g (s.setHost (HostPort.holds p)) :=
    classify_inRegion (s := s.setHost (HostPort.holds p)) hin hregion hoffline
  have hlive : s.map.translate (sectorOf p.addr) ≠ none → writes → ∃ psec, classify p (s.setHost (HostPort.holds p))
      = classifyWrite p r psec (s.setHost (HostPort.holds p)) := by
    rintro hne ⟨hrun, hwrite⟩
    obtain ⟨g, hg⟩ := hclassify fun _ => hrun
    rw [hg]
    exact classifyInRegion_write hne hwrite
  have hrefused : ∀ {reason}, classify p (s.setHost (HostPort.holds p))
      = refuseWrite reason (some r) p.addr (s.setHost (HostPort.holds p)) → refused reason :=
    exec_hostAccessArrival_refused hfree hstartup hrests
  split_ifs with hretired hprotected hreadonly
  · constructor
    · rintro ⟨hrun, hwrite⟩
      obtain ⟨g, hg⟩ := hclassify fun _ => hrun
      exact hrefused (hg.trans (classifyInRegion_retired_write hretired hwrite))
    · intro hread
      obtain ⟨g, hg⟩ := hclassify (by simp [hread])
      exact exec_hostAccessArrival_failed hfree hstartup hrests
        (hg.trans (classifyInRegion_retired_read hretired hread))
  · intro hwrites
    obtain ⟨psec, hpsec⟩ := hlive hretired hwrites
    exact hrefused (hpsec.trans (classifyWrite_protected r psec hprotected))
  · intro hwrites
    obtain ⟨psec, hpsec⟩ := hlive hretired hwrites
    exact hrefused (hpsec.trans (classifyWrite_readonly psec hprotected hreadonly))
  · intro hwrites hlane0 hlane1
    obtain ⟨psec, hpsec⟩ := hlive hretired hwrites
    have hcompletes := classifyWrite_noLane (s := s.setHost (HostPort.holds p)) psec hprotected hreadonly hlane0 hlane1
    exact exec_hostAccessArrival_answered hfree hstartup hrests
      (hpsec.trans (hcompletes.trans (completeAccess_setHost_holds ..)))

end Sys2Proof.Machine

/-! Settles O16 and O18: the setup commands IDENT and FAULT_READ. A setup command's frame that completes while the part
listens is the command's own rule, with its reply due; each proof adds what that rule answers and leaves. -/

namespace Sys2Proof.Machine

/-! ### A setup command while the part listens -/

/-- Outside reset a setup command is the completion of its frame. -/
theorem exec_instr_awake (c : SetupCommand) (p : List Byte) {s : State} (h : s.inReset = false) :
    exec (c.instr p) s = .next (refresh (completeFrame (goodFrame c.code p) s)) := by
  have hawake := exec_awake (c := c.instr p) h (by cases c <;> simp [SetupCommand.instr])
    (by cases c <;> simp [SetupCommand.instr])
  have heffect : effect (c.instr p) s = completeFrame (goodFrame c.code p) s := by cases c <;> rfl
  rw [hawake, heffect]

/-- A setup command that its mode and length suit, and whose rule leaves the setup port as it finds it, has its rule's
effect with its rule's reply due (R176 to R178). -/
theorem exec_instr_listens {c : SetupCommand} {p : List Byte} {s t : State} {r : Reply} (h : s.Listens)
    (hp : p.length ≤ 250) (hmode : c.allowedIn s.mc.mode = true) (hlength : c.lengthSuits p.length = true)
    (hrun : runCommand c p (s.setSetup s.setup.dropPart) = (r, t.setSetup t.setup.dropPart)) :
    exec (c.instr p) s = .next (refresh (t.replies r)) := by
  rw [exec_instr_awake c p h.1, completeFrame_listens h,
    executeFrame_command c .selected (s := s.setSetup s.setup.dropPart) hp (by simp) hmode hlength, hrun]
  rfl

/-! ### The fault record layout -/

/-- A field has the length of its layout, present or absent (R216). -/
@[simp] theorem optField_length (n : Nat) (x : Option Nat) : (optField n x).length = n := by
  cases x with
  | none => exact List.length_replicate
  | some v => exact leBytes_length n v

/-- A fault record is read out in 25 bytes (section 13.5). -/
theorem faultPayload_length (x : FaultRecord) (unstored : Nat) : (faultPayload x unstored).length = 25 := by
  simp [faultPayload]

/-- Six flags stand at their bit weights. -/
theorem flagByte_six (a b c d e f : Bool) : flagByte [a, b, c, d, e, f]
    = BitVec.ofNat 8 (a.toNat + 2 * b.toNat + 4 * c.toNat + 8 * d.toNat + 16 * e.toNat + 32 * f.toNat) := by
  have hvalue : bitsValue [a, b, c, d, e, f]
      = a.toNat + 2 * b.toNat + 4 * c.toNat + 8 * d.toNat + 16 * e.toNat + 32 * f.toNat := by
    simp only [bitsValue]; omega
  rw [flagByte, hvalue]

/-! ### The commands' own rules -/

/-- FAULT_READ of an empty log answers nothing and leaves the state. -/
theorem runFaultRead_nil {s : State} (h : s.log.records = []) : runFaultRead s = (okReply [], s) := by
  unfold runFaultRead; rw [h]

/-- FAULT_READ of a log with records answers with the oldest, which leaves the log; the unstored count goes with the
last (R183, R200). -/
theorem runFaultRead_cons {s : State} {x : FaultRecord} {rest : List FaultRecord} (h : s.log.records = x :: rest) :
    runFaultRead s = (okReply (faultPayload x s.log.unstored), s.setLog { s.log with
      records := rest, unstored := if rest = [] then 0 else s.log.unstored }) := by
  unfold runFaultRead; rw [h, FaultLog.removeOldest_cons h]

/-! ### The statements -/

/-- Settles O16: IDENT's rule leaves the state, and its layout is the one of section 13.6. -/
theorem identReplies : Obligations.IdentReplies := by
  intro s hs
  exact exec_instr_listens (c := .ident) (t := s) (r := okReply (identPayload s)) hs (by simp) rfl rfl rfl

/-- Settles O18, by the log: an empty one, and an oldest record with the rest. -/
theorem faultReadRemovesOldest : Obligations.FaultReadRemovesOldest := by
  intro s hs
  constructor
  · intro hnil
    exact exec_instr_listens (c := .faultRead) (t := s) hs (by simp) rfl rfl (runFaultRead_nil hnil)
  · intro x rest hcons f field kind reason payload
    have hpayload : payload = faultPayload x s.log.unstored := by
      rw [faultPayload, flagByte_six]; rfl
    rw [hpayload]
    exact ⟨faultPayload_length x _,
      exec_instr_listens (c := .faultRead) (t := s.setLog _) hs (by simp) rfl rfl (runFaultRead_cons hcons)⟩

end Sys2Proof.Machine

/-! Settles O1, O2, O3, O4, O7, O9, O10, O11, O12 and O15: what a step is, and the laws that every move of the part keeps,
which `Events.step_keeps` carries from the moves of Laws/Closed.lean and Laws/Events.lean to the steps. -/

namespace Sys2Proof.Machine

/-! ### What a command leaves outside the blocks -/

/-- The commands that wait and the level of RST#, which no move of the part changes. -/
theorem events_pending_inReset (q : List Instr) (r : Bool) : Events fun t => t.pending = q ∧ t.inReset = r :=
  { engine := fun _ _ h => h, reading := fun _ h => h, port := fun _ _ _ _ _ _ h => h
    host := fun _ _ h => h, reader := fun _ _ h => h, direct := fun _ _ h => h, stall := fun _ _ h => h
    report := fun _ _ h => h, coalesce := fun _ _ _ _ _ h => h, append := fun _ _ _ _ _ _ h => h
    keep := fun _ _ _ h => h
    mark := fun r s h => by obtain ⟨q, hq⟩ := markRegion_queues r s; rw [hq]; exact h
    gather := fun _ _ _ h => h, map := fun _ _ h => h, cru := fun _ _ h => h, control := fun _ _ _ h => h
    held := fun _ h => h, flash := fun _ _ _ h => h, startup := fun _ _ h => h, install := fun _ _ _ h => h
    elapse := fun _ _ h => h, setup := fun _ _ h => h, stream := fun _ _ h => h, mc := fun _ _ h => h
    image := fun _ _ h => h, rise := fun _ h => h, lost := fun _ _ _ h => h }

/-- The effect of a command leaves the commands that wait behind it, and the level of RST#. -/
theorem effect_pending_inReset (c : Instr) (s : State) :
    (effect c s).pending = s.pending ∧ (effect c s).inReset = s.inReset :=
  (events_pending_inReset s.pending s.inReset).effect ⟨rfl, rfl⟩ c ⟨rfl, rfl⟩

/-- A command under RST# leaves them too. -/
theorem effectInReset_pending_inReset (c : Instr) (s : State) :
    (effectInReset c s).pending = s.pending ∧ (effectInReset c s).inReset = s.inReset :=
  (events_pending_inReset s.pending s.inReset).effectInReset ⟨rfl, rfl⟩ c

/-- The release of RST# leaves the commands that wait, and RST# is inactive. -/
theorem beginStartUp_pending_inReset (pins : ReleasePins) (s : State) :
    (beginStartUp pins s).pending = s.pending ∧ (beginStartUp pins s).inReset = false :=
  (events_pending_inReset s.pending false).beginStartUp pins ⟨rfl, rfl⟩

/-! ### Steps -/

/-- Settles O1: the second case of a step. -/
theorem stepRunsFrontCommand : Obligations.StepRunsFrontCommand := by
  intro c s rest h
  unfold step; rw [h]

/-- Settles O2, by the four outcomes of a command. -/
theorem everyCommandCompletesAndKeepsQueue : Obligations.EveryCommandCompletesAndKeepsQueue := by
  intro c s
  obtain ⟨t, ht, hcases⟩ := exec_cases c s
  refine ⟨t, ht, ?_⟩
  rcases hcases with ⟨-, -, rfl | rfl⟩ | ⟨-, rfl⟩ | rfl | ⟨-, pins, rfl⟩
  · rfl
  · exact (effect_pending_inReset c s).1
  · exact (effectInReset_pending_inReset c s).1
  · rfl
  · rw [refresh_pending, finish_pending, (beginStartUp_pending_inReset pins s).1]

/-! ### Frames of the time limits -/

/-- `P` is kept by the moves of which the array's timeouts are made: the ends of operations, and array loss. -/
structure Losses (P : State → Prop) : Prop extends Ends P where
  stream : ∀ s x, P s → P (s.setStream x)
  mc     : ∀ s x, P s → P (s.setMc x)
  lost   : ∀ s x, P s → P (s.setPort x)

namespace Losses

variable {P : State → Prop} (h : Losses P) {s : State} (hs : P s)
include h hs

theorem enterOffline : P (enterOffline s) := by
  have hp := h.lost _ { (Machine.abandonOps s).port with
    state := PortState.stopped, op := none, inner := none, hostClaim := none, engClaim := none
    direct := none, arst := .held, ackTimer := 0, arstTimer := 0, suspCount := 0 } (h.abandonOps hs)
  have hq := h.startup _ none (h.reader _ { state := .idle, access := none } (h.stall _ none
    (h.engine _ { (Machine.abandonOps s).engine with stopped := true } hp)))
  have hfail : ∀ t, P t → P (failHeldAccess t) := fun t ht => by
    unfold failHeldAccess; split
    · split_ifs
      · exact h.completeAccess ht _ _
      · exact h.failRead ht
    · exact ht
  unfold Machine.enterOffline; dsimp only
  refine hfail _ (h.mc _ _ ?_)
  split_ifs
  · exact hq
  · exact h.stream _ _ hq

theorem timeout (x : FaultReason) (p : Nat) (f : State → State) (hf : ∀ t, P t → P (f t)) : P (timeout x p f s) := by
  have hr := h.lost _ { s.port with consecutive := s.port.consecutive + 1 }
    (h.report { kind := .arrayTimeout, psec := some p, reason := some x } s hs)
  unfold Machine.timeout; dsimp only
  split_ifs
  · exact h.enterOffline (h.report _ _ hr)
  · exact hf _ (h.lost _ _ (h.lost _ _ (h.abandonOps hr)))

theorem operationTimeoutTaken : P (operationTimeoutTaken s) := by
  unfold Machine.operationTimeoutTaken; split_ifs
  · split
    · exact h.timeout hs _ _ _ fun t ht => h.issuerTimeout ht _
    · exact hs
  · exact hs

theorem suspendTimeoutTaken (l : SuspendLimit) : P (suspendTimeoutTaken l s) := by
  unfold Machine.suspendTimeoutTaken; split_ifs
  · split
    · exact h.timeout hs _ _ _ fun t ht => h.issuerTimeout ht _
    · exact hs
  · exact hs

theorem innerTimeoutTaken : P (innerTimeoutTaken s) := by
  unfold Machine.innerTimeoutTaken; split_ifs
  · split
    · exact h.timeout hs _ _ _ fun t ht => h.issuerTimeout (h.issuerTimeout ht _) _
    · exact hs
  · exact hs

end Losses

/-- The limits of the array port that stand reached, the first part of `takeLimits`. -/
def takePortLimit (s : State) : State :=
  if s.port.state = .running ∧ s.port.op.isSome ∧ s.ticksToOpLimit = 0 then operationTimeoutTaken s
  else if s.port.state = .suspending ∧ s.ticksToSuspendLimit .acknowledgement = 0 then
    suspendTimeoutTaken .acknowledgement s
  else if s.port.state = .suspending ∧ s.ticksToSuspendLimit .eraseTime = 0 then suspendTimeoutTaken .eraseTime s
  else if s.port.state = .suspended ∧ s.port.inner.isSome ∧ s.ticksToInnerLimit = 0 then innerTimeoutTaken s
  else s

/-- The stall limit, if it stands reached: the second part of `takeLimits`. -/
def takeStallLimit (s : State) : State :=
  if s.stall.isSome ∧ s.ticksToStallLimit = 0 then stallExpiryTaken s else s

/-- The gap limit, if it stands reached: the last part of `takeLimits`. -/
def takeGapLimit (s : State) : State := if s.gapPassed then gapTimeoutTaken s else s

/-- The limits that stand reached are taken one after another. -/
theorem takeLimits_eq (s : State) : takeLimits s = takeGapLimit (takeStallLimit (takePortLimit s)) := rfl

/-- One of the array port's limits at most is taken. -/
theorem takePortLimit_cases (s : State) : takePortLimit s = s ∨ takePortLimit s = operationTimeoutTaken s
    ∨ (∃ l, takePortLimit s = suspendTimeoutTaken l s) ∨ takePortLimit s = innerTimeoutTaken s := by
  unfold takePortLimit; split_ifs
  · exact .inr (.inl rfl)
  · exact .inr (.inr (.inl ⟨_, rfl⟩))
  · exact .inr (.inr (.inl ⟨_, rfl⟩))
  · exact .inr (.inr (.inr rfl))
  · exact .inl rfl

/-- What the timeouts keep, the port's limits keep. -/
theorem Losses.takePortLimit {P : State → Prop} (h : Losses P) {s : State} (hs : P s) : P (takePortLimit s) := by
  rcases takePortLimit_cases s with he | he | ⟨l, he⟩ | he <;> rw [he]
  · exact hs
  · exact h.operationTimeoutTaken hs
  · exact h.suspendTimeoutTaken hs l
  · exact h.innerTimeoutTaken hs

/-- The time and the setup port, which no end of an operation and no array loss changes. -/
theorem losses_time_setup (n : Nat) (p : SetupPort) : Losses fun t => t.time = n ∧ t.setup = p :=
  { engine := fun _ _ h => h, reading := fun _ h => h, port := fun _ _ _ _ _ _ h => h
    host := fun _ _ h => h, reader := fun _ _ h => h, direct := fun _ _ h => h, stall := fun _ _ h => h
    report := fun _ _ h => h, coalesce := fun _ _ _ _ _ h => h, append := fun _ _ _ _ _ _ h => h
    keep := fun _ _ _ h => h
    mark := fun r s h => by obtain ⟨q, hq⟩ := markRegion_queues r s; rw [hq]; exact h
    gather := fun _ _ _ h => h, map := fun _ _ h => h, cru := fun _ _ h => h, control := fun _ _ _ h => h
    held := fun _ h => h, flash := fun _ _ _ h => h, startup := fun _ _ h => h, install := fun _ _ _ h => h
    stream := fun _ _ h => h, mc := fun _ _ h => h, lost := fun _ _ h => h }

theorem operationTimeoutTaken_time_setup (s : State) :
    (operationTimeoutTaken s).time = s.time ∧ (operationTimeoutTaken s).setup = s.setup :=
  (losses_time_setup s.time s.setup).operationTimeoutTaken ⟨rfl, rfl⟩

theorem suspendTimeoutTaken_time_setup (l : SuspendLimit) (s : State) :
    (suspendTimeoutTaken l s).time = s.time ∧ (suspendTimeoutTaken l s).setup = s.setup :=
  (losses_time_setup s.time s.setup).suspendTimeoutTaken ⟨rfl, rfl⟩ l

theorem innerTimeoutTaken_time_setup (s : State) :
    (innerTimeoutTaken s).time = s.time ∧ (innerTimeoutTaken s).setup = s.setup :=
  (losses_time_setup s.time s.setup).innerTimeoutTaken ⟨rfl, rfl⟩

theorem takePortLimit_time_setup (s : State) :
    (takePortLimit s).time = s.time ∧ (takePortLimit s).setup = s.setup :=
  (losses_time_setup s.time s.setup).takePortLimit ⟨rfl, rfl⟩

theorem takeStallLimit_outer (s : State) : (takeStallLimit s).outer = s.outer := by
  unfold takeStallLimit; split_ifs
  · exact stallExpiryTaken_outer s
  · rfl

/-- The gap limit changes the setup port alone. -/
theorem takeGapLimit_cases (s : State) : takeGapLimit s = s ∨ takeGapLimit s = s.setSetup s.setup.dropPart := by
  unfold takeGapLimit gapTimeoutTaken; split_ifs
  · exact .inr rfl
  · exact .inl rfl
  · exact .inl rfl

/-- The limits that a tick reaches take no time. -/
theorem takeLimits_time (s : State) : (takeLimits s).time = s.time := by
  have hgap : (takeGapLimit (takeStallLimit (takePortLimit s))).time = (takeStallLimit (takePortLimit s)).time := by
    rcases takeGapLimit_cases (takeStallLimit (takePortLimit s)) with he | he <;> rw [he]; rfl
  have hstall : (takeStallLimit (takePortLimit s)).time = (takePortLimit s).time :=
    congrArg Outer.time (takeStallLimit_outer _)
  rw [takeLimits_eq, hgap, hstall, (takePortLimit_time_setup s).1]

/-- Settles O3: a tick outside reset lets one microsecond pass, and the limits that it reaches take no more. -/
theorem idleStepIsOneTick : Obligations.IdleStepIsOneTick := by
  intro s h
  have hstep : step s = .next (tick s) := by unfold step; rw [h]
  constructor
  · intro hr
    rw [hstep, tick, if_pos hr]
  · intro hr
    refine ⟨tick s, hstep, ?_⟩
    rw [tick, if_neg (by simp [hr]), refresh_time, refresh_inReset, finish_time, finish_inReset, takeLimits_time]
    exact ⟨rfl, ((events_pending_inReset s.pending false).takeLimits (s := elapse 1 s) ⟨rfl, hr⟩).2⟩

/-! ### Reset -/

/-- Settles O4: the values are those of `State.reset` as it is written. -/
theorem resetValues : Obligations.ResetValues := by
  refine ⟨⟨rfl, rfl, rfl⟩, ⟨rfl, rfl, rfl, rfl, rfl, rfl⟩, ?_, ?_, ⟨rfl, rfl, rfl, rfl⟩, ⟨rfl, rfl, rfl, rfl⟩, ?_, ?_, ?_, ?_,
    rfl, rfl⟩
  all_goals simp [State.reset, Engine.reset, ArrayPort.reset, SetupPort.reset, PartialFrame.empty, State.arstPin,
    State.sro]

/-- Settles O7, by the commands that move a level under RST#. -/
theorem nothingElseActsInReset : Obligations.NothingElseActsInReset := by
  intro c s hs hc hr
  refine ⟨_, exec_asleep hs hc hr, ?_⟩
  unfold effectInReset
  split
  · exact ⟨rfl, id⟩
  · exact ⟨rfl, id⟩
  · exact ⟨rfl, by simp⟩
  · exact ⟨rfl, id⟩
  · exact ⟨rfl, id⟩

/-- In reset a command leaves the reset values but for the levels outside the part. -/
theorem effectInReset_holds {c : Instr} {s : State} (hr : s.inReset = true) (hs : s.ResetHolds) :
    (effectInReset c s).ResetHolds := by
  have hreset := hs hr
  intro _
  rw [hreset]
  unfold effectInReset; split <;> rfl

/-- Settles O9: outside reset a command leaves RST# inactive, and in reset it moves no more than the levels that
`heldInReset` leaves free; the release and RESET decide the rest. -/
theorem stepKeepsResetHolds : Obligations.StepKeepsResetHolds := by
  intro s t hs ht
  have awake : ∀ {u : State}, u.inReset = false → u.ResetHolds := fun hu hr => by simp [hu] at hr
  rcases step_cases ht with ⟨-, rfl⟩ | ⟨c, rest, -, he⟩
  · by_cases hr : s.inReset = true
    · rwa [tick, if_pos hr]
    · have hf : s.inReset = false := by simpa using hr
      rw [tick, if_neg hr]
      apply awake
      rw [refresh_inReset]
      exact ((events_pending_inReset s.pending false).tickEffect (s := s) ⟨rfl, hf⟩).2
  · have hq : (s.setPending rest).ResetHolds := fun hr => by
      have hreset := hs hr
      rw [hreset]; rfl
    obtain ⟨v, hv, hcases⟩ := exec_cases c (s.setPending rest)
    obtain rfl : t = v := by rw [he] at hv; exact Host.Outcome.next.inj hv
    rcases hcases with ⟨hf, -, rfl | rfl⟩ | ⟨hr, rfl⟩ | rfl | ⟨-, pins, rfl⟩
    · exact hq
    · exact awake ((effect_pending_inReset c _).2.trans hf)
    · exact effectInReset_holds hr hq
    · exact fun _ => rfl
    · apply awake
      rw [refresh_inReset, finish_inReset, (beginStartUp_pending_inReset pins _).2]

/-! ### Outputs -/

/-- Settles O10: every event ends with its outputs following; in reset both are inactive. -/
theorem stepKeepsOutputsTrack : Obligations.StepKeepsOutputsTrack := by
  intro s t hs ht
  rcases step_cases ht with ⟨-, rfl⟩ | ⟨c, rest, -, he⟩
  · unfold tick; split_ifs
    · exact hs
    · exact refresh_tracks _
  · have hq : (s.setPending rest).OutputsTrack := hs
    obtain ⟨v, hv, hcases⟩ := exec_cases c (s.setPending rest)
    obtain rfl : t = v := by rw [he] at hv; exact Host.Outcome.next.inj hv
    rcases hcases with ⟨-, -, rfl | rfl⟩ | ⟨-, rfl⟩ | rfl | ⟨-, pins, rfl⟩
    · exact hq
    · exact refresh_tracks _
    · unfold effectInReset; split <;> exact hq
    · exact ⟨rfl, rfl⟩
    · exact refresh_tracks _

/-! ### Fault log -/

/-- A new record stays inside the log's limits (R199). -/
theorem FaultLog.Lawful.form {l : FaultLog} (h : l.Lawful) (f : FaultReport) (tick : BitVec 32) :
    (l.form f tick).Lawful := by
  obtain ⟨hlen, hun, hpos⟩ := h
  unfold FaultLog.form; split_ifs with hroom
  · exact ⟨by simpa using hroom, hun, fun _ => by simp⟩
  · have hfull : l.records ≠ [] := by
      intro hnil
      simp [hnil, logLimit] at hroom
    exact ⟨hlen, by simp, fun _ => hfull⟩

/-- A report keeps the log's laws (R197 to R199). -/
theorem FaultLog.Lawful.take {l : FaultLog} (h : l.Lawful) (f : FaultReport) (tick : BitVec 32) :
    (l.take f tick).Lawful := by
  unfold FaultLog.take
  split
  · next x hx =>
    split_ifs
    · obtain ⟨hlen, hun, -⟩ := h
      have hne : l.records ≠ [] := by intro hnil; simp [hnil] at hx
      have hpos := List.length_pos_iff.mpr hne
      refine ⟨?_, hun, fun _ => by simp⟩
      simp only [List.length_append, List.length_dropLast, List.length_singleton]
      omega
    · exact h.form f tick
  · exact h.form f tick

/-- FAULT_READ keeps the log's laws: the unstored count goes with the last record (R200). -/
theorem FaultLog.Lawful.removeOldest {l : FaultLog} (h : l.Lawful) : l.removeOldest.Lawful := by
  rcases hrec : l.records with _ | ⟨x, rest⟩
  · rwa [FaultLog.removeOldest, hrec]
  · obtain ⟨hlen, hun, -⟩ := h
    rw [FaultLog.removeOldest_cons hrec]
    rw [hrec, List.length_cons] at hlen
    refine ⟨by dsimp only; omega, ?_, ?_⟩
    · dsimp only; split_ifs <;> omega
    · dsimp only
      intro hpos hnil
      simp [hnil] at hpos

/-- Every move of the part keeps the fault log's laws. -/
theorem events_faultLogLawful : Events fun s => s.log.Lawful :=
  { engine := fun _ _ h => h, reading := fun _ h => h, port := fun _ _ _ _ _ _ h => h
    host := fun _ _ h => h, reader := fun _ _ h => h, direct := fun _ _ h => h, stall := fun _ _ h => h
    report := fun _ _ h => h.take _ _, coalesce := fun _ _ _ _ _ h => h, append := fun _ _ _ _ _ _ h => h
    keep := fun _ _ _ h => h
    mark := fun r s h => by obtain ⟨q, hq⟩ := markRegion_queues r s; rw [hq]; exact h
    gather := fun _ _ _ h => h, map := fun _ _ h => h, cru := fun _ _ h => h, control := fun _ _ _ h => h
    held := fun _ h => h, flash := fun _ _ _ h => h, startup := fun _ _ h => h, install := fun _ _ _ h => h
    elapse := fun _ _ h => h, setup := fun _ _ h => h, stream := fun _ _ h => h, mc := fun _ _ h => h
    image := fun _ _ h => h, rise := fun _ h => h, lost := fun _ _ _ h => h }

/-- Settles O11: the moves of the log keep its laws; and a report by the newest record held, as R197 to R199 say. -/
theorem stepKeepsFaultLogLawful : Obligations.StepKeepsFaultLogLawful := by
  refine ⟨fun s t hs ht => ?_, fun l f tick => ⟨?_, ?_⟩⟩
  · exact events_faultLogLawful.step_keeps (fun _ h => h) (fun _ h => h.removeOldest) (fun _ _ h => h)
      (fun _ _ h => h) (fun _ _ => ⟨by simp [resetPart, State.reset], by simp [resetPart, State.reset],
        by simp [resetPart, State.reset]⟩) hs ht
  · intro older x hrec hkind hk hr hreg
    have hx : l.records.getLast? = some x := by simp [hrec]
    have hm : f.merges = true := by rcases hkind with hf | hf <;> simp [FaultReport.merges, hf]
    have hmatch : x.matches f = true := by simp [FaultRecord.matches, hk, hr, hreg]
    rw [FaultLog.take_merged hx hm hmatch, hrec, List.dropLast_concat]
    rfl
  · intro hother
    have hform : l.take f tick = l.form f tick := by
      rcases hother with ⟨hd, hf⟩ | hnil | ⟨older, x, hrec, hne⟩
      · exact FaultLog.take_form (by simp [FaultReport.merges, hd, hf]) tick
      · simp [FaultLog.take, hnil]
      · have hx : l.records.getLast? = some x := by simp [hrec]
        have hmatch : x.matches f = false := by
          simpa [FaultRecord.matches, and_assoc] using hne
        simp [FaultLog.take, hx, hmatch]
    rw [hform]; rfl

/-! ### Staging store -/

/-- The laws of the store speak of the queues and of the regions in force. -/
theorem State.StoreLawful.congr {s t : State} (h : s.StoreLawful) (hq : t.queues = s.queues) (hi : t.image = s.image) :
    t.StoreLawful := by
  have hqueue : ∀ r, t.queue r = s.queue r := fun r => by rw [State.queue, hq]; rfl
  have hcap : ∀ r, t.capacity r = s.capacity r := fun r => by
    rw [State.capacity, State.region?, State.regions, hi]; rfl
  intro r
  rw [State.count, hqueue, hcap]
  exact h r

/-- A change of one queue keeps the laws when it does so for that queue's entries. -/
theorem State.StoreLawful.updateQueue {s : State} (h : s.StoreLawful) (r : Nat) (f : RegionQueue → RegionQueue)
    (hf : ∀ q, s.queues[r]? = some q → q.entries.length ≤ s.capacity r → (∀ e ∈ q.entries, e.Lawful r) →
      (f q).entries.length ≤ s.capacity r ∧ ∀ e ∈ (f q).entries, e.Lawful r) :
    (updateQueue r f s).StoreLawful := by
  intro r'
  have hcap : (Machine.updateQueue r f s).capacity r' = s.capacity r' := rfl
  rw [State.count, hcap, updateQueue_queue]
  split_ifs with hr
  · subst hr
    obtain ⟨hlen, hent⟩ := h r'
    rcases hq : s.queues[r']? with _ | q
    · simp
    · simp only [State.count, State.queue, hq, Option.map_some, Option.getD_some] at hlen hent
      exact hf q hq hlen hent
  · exact h r'

/-- Every bit of FFFFh is set. -/
theorem ffff_getElem (i : Nat) (hi : i < 16) : (0xFFFF#16)[i] = true :=
  BitVec.getElem_allOnes i hi

/-- FFh outside the lanes of a mask, bit by bit (R20). -/
theorem or_bits_eq_ffff (m : LaneMask) (w : Word) :
    w ||| m.bits = 0xFFFF ↔ ∀ (i : Nat) (hi : i < 16), m.bits[i] = false → w[i] = true := by
  constructor
  · intro h i hi hm
    have hbit := congrArg (fun v : Word => v[i]) h
    simpa [hm, ffff_getElem i hi] using hbit
  · intro h
    apply BitVec.eq_of_getElem_eq
    intro i hi
    change _ = (0xFFFF#16)[i]
    rw [BitVec.getElem_or, ffff_getElem i hi]
    cases hm : m.bits[i] with
    | true => simp
    | false => simp [h i hi hm]

/-- A coalesced entry holds FFh outside the union of its lanes (R23). -/
theorem Entry.Lawful.coalesced {r : Nat} {e : Entry} (h : e.Lawful r) (m : LaneMask) (d : Word) :
    (e.coalesced m d).Lawful r := by
  obtain ⟨hr, hd⟩ := h
  refine ⟨hr, (or_bits_eq_ffff _ _).mpr fun i hi hunion => ?_⟩
  have hold := (or_bits_eq_ffff _ _).mp hd i hi
  simp only [Entry.coalesced, LaneMask.union_getElem, Bool.or_eq_false_iff] at hunion
  obtain ⟨he, hm⟩ := hunion
  simp [Entry.coalesced, overlay_getElem, hm, hold he]

/-- A new entry holds FFh outside its lanes (R24). -/
theorem State.newEntry_lawful (s : State) (r : Nat) (a : HostAddr) (m : LaneMask) (d : Word) :
    (s.newEntry r a m d).Lawful r := by
  refine ⟨rfl, (or_bits_eq_ffff _ _).mpr fun i hi hm => ?_⟩
  simp only [State.newEntry] at hm
  simp [State.newEntry, onLanes, overlay_getElem, hm, ffff_getElem]

/-- Empty queues are lawful under any image. -/
theorem State.StoreLawful.empty {s : State} (im : SetupImage) (h : s.queues = emptyQueues im) : s.StoreLawful := by
  intro r
  have hq : s.queue r = [] := by
    simp only [State.queue, h, emptyQueues, List.getElem?_map, Option.map_map]
    rcases im.regions[r]? with _ | g <;> rfl
  simp [State.count, hq]

/-- Every move of the part keeps the staging store's laws. -/
theorem events_storeLawful : Events fun s => s.StoreLawful :=
  { engine := fun _ _ h => h, reading := fun _ h => h, port := fun _ _ _ _ _ _ h => h
    host := fun _ _ h => h, reader := fun _ _ h => h, direct := fun _ _ h => h, stall := fun _ _ h => h
    report := fun _ _ h => h
    coalesce := fun r a m d s h => h.updateQueue r _ fun q _ hlen hent => by
      refine ⟨by simpa using hlen, fun e he => ?_⟩
      obtain ⟨e', he', rfl⟩ := List.mem_map.mp he
      split_ifs
      · exact (hent e' he').coalesced m d
      · exact hent e' he'
    append := fun r a m d s hroom h => h.updateQueue r _ fun q hq hlen hent => by
      have hcount : q.entries.length < s.capacity r := by
        simpa [State.count, State.queue, hq] using hroom
      refine ⟨by simpa using hcount, fun e he => ?_⟩
      rcases List.mem_append.mp he with he | he
      · exact hent e he
      · rw [List.mem_singleton.mp he]
        exact s.newEntry_lawful r a m d
    keep := fun r k s h => h.updateQueue r _ fun q _ hlen hent =>
      ⟨(List.length_filter_le _ _).trans hlen, fun e he => hent e (List.mem_of_mem_filter he)⟩
    mark := fun r s h => by
      unfold markRegion; split_ifs
      · exact h.updateQueue r _ fun _ _ hlen hent => ⟨hlen, hent⟩
      · exact h
    gather := fun r x s h => h.updateQueue r _ fun q _ hlen hent => by
      refine ⟨by simpa using hlen, fun e he => ?_⟩
      obtain ⟨e', he', rfl⟩ := List.mem_map.mp he
      split_ifs
      · exact hent e' he'
      · exact hent e' he'
    map := fun _ _ h => h, cru := fun _ _ h => h, control := fun _ _ _ h => h
    held := fun _ h => h, flash := fun _ _ _ h => h, startup := fun _ _ h => h
    install := fun a b s _ => State.StoreLawful.empty (startUpImage s.straps (chooseCopy a b)) rfl
    elapse := fun _ _ h => h, setup := fun _ _ h => h, stream := fun _ _ h => h, mc := fun _ _ h => h
    image := fun im _ _ => State.StoreLawful.empty im rfl
    rise := fun _ h => h, lost := fun _ _ _ h => h }

/-- A part with no queues has a lawful store. -/
theorem State.StoreLawful.none {s : State} (h : s.queues = []) : s.StoreLawful := by
  intro r
  simp [State.count, State.queue, h]

/-- Settles O12. -/
theorem stepKeepsStoreLawful : Obligations.StepKeepsStoreLawful := fun _ _ hs ht =>
  events_storeLawful.step_keeps (fun _ h => h) (fun _ h => h) (fun _ _ h => h) (fun _ _ h => h)
    (fun _ _ => .none rfl) hs ht

/-! ### The flash bank -/

/-- Every move of the part keeps the canonical form: the bank moves by `FlashBank.ended` and `FlashBank.abandoned`. -/
theorem events_flashCanonical : Events fun s => s.flash.wf :=
  { engine := fun _ _ h => h, reading := fun _ h => h, port := fun _ _ _ _ _ _ h => h
    host := fun _ _ h => h, reader := fun _ _ h => h, direct := fun _ _ h => h, stall := fun _ _ h => h
    report := fun _ _ h => h, coalesce := fun _ _ _ _ _ h => h, append := fun _ _ _ _ _ _ h => h
    keep := fun _ _ _ h => h
    mark := fun r s h => by obtain ⟨q, hq⟩ := markRegion_queues r s; rw [hq]; exact h
    gather := fun _ _ _ h => h, map := fun _ _ h => h, cru := fun _ _ h => h, control := fun _ _ _ h => h
    held := fun _ h => h, flash := fun _ _ hx h => hx h, startup := fun _ _ h => h, install := fun _ _ _ h => h
    elapse := fun _ _ h => h, setup := fun _ _ h => h, stream := fun _ _ h => h, mc := fun _ _ h => h
    image := fun _ _ h => h, rise := fun _ h => h, lost := fun _ _ _ h => h }

/-- RESET keeps the canonical form. -/
theorem flashAfterReset_wf {s : State} (h : s.flash.wf) : s.flashAfterReset.wf := by
  have hm : (abandonOps s).flash.wf := FlashBank.abandoned_wf (FlashBank.abandoned_wf h _) _
  unfold State.flashAfterReset
  dsimp only
  split
  · split_ifs
    · exact FlashBank.loseSector_wf hm _
    · exact hm
  · exact hm

/-- Settles O15. -/
theorem stepKeepsFlashCanonical : Obligations.StepKeepsFlashCanonical := fun _ _ hs ht =>
  events_flashCanonical.step_keeps (fun _ h => h) (fun _ h => h) (fun _ _ h => h) (fun _ _ h => h)
    (fun _ h => flashAfterReset_wf h) hs ht

/-! ### The laws at reset -/

/-- Settles O8, law by law: every block is empty or idle. -/
theorem resetMeetsTheLaws : Obligations.ResetMeetsTheLaws := by
  refine ⟨fun _ => rfl, ⟨rfl, rfl⟩, ⟨by decide, by decide, by decide⟩, .none rfl, ?_, ?_, ?_, ⟨fun _ => rfl, fun _ => rfl⟩, ?_⟩
  · exact ⟨by decide, by decide, by decide, by decide, by simp [State.reset, SetupPort.reset]⟩
  · exact ⟨⟨by simp [State.reset, ArrayPort.reset], by simp [State.reset, ArrayPort.reset], fun _ => rfl, fun _ => rfl⟩,
      by decide, by decide, by decide⟩
  · exact ⟨List.Pairwise.nil, List.Pairwise.nil, by simp [State.reset]⟩
  · refine ⟨⟨⟨by decide, by decide, by simp [State.reset]⟩, by simp [State.reset]⟩,
      ⟨by simp [State.reset, Engine.reset, Phase.items], by simp [State.reset, Engine.reset],
        by simp [State.reset, Engine.reset]⟩, ?_, by simp [State.JudgedLawful, State.reset]⟩
    exact ⟨by simp [State.reset], fun _ => rfl, by simp [State.reset, Engine.reset], fun _ => rfl, fun _ => rfl⟩

end Sys2Proof.Machine

/-! Settles O13, O17, O19, O29 to O33 and O35 to O38: the setup port's line, its frames, the commands that report, and
the status stream. -/

namespace Sys2Proof.Machine

/-! ### The setup port under the commands' own rules -/

/-- A setup command's own rule leaves the setup port. -/
theorem runCommand_setup (c : SetupCommand) (p : List Byte) (s : State) : (runCommand c p s).2.setup = s.setup := by
  have hmarkAll : ∀ u : State, (markAll u).setup = u.setup := fun u => congrArg Outer.setup (markAll_outer u)
  cases c
  case ident => rfl
  case status => rfl
  case faultRead => simp only [runCommand, runFaultRead]; split <;> rfl
  case setupRead => rfl
  case remapRead => rfl
  case flush =>
    simp only [runCommand, runFlush]; split_ifs
    · exact (finish_setup _).trans (hmarkAll s)
    · exact (finish_setup _).trans (congrArg Outer.setup (markRegion_outer _ s))
    · rfl
  case purge =>
    simp only [runCommand, runPurge]; split_ifs
    · exact (finish_setup _).trans (congrArg Outer.setup (purgeRegion_outer _ s))
    · rfl
  case hold =>
    refine (finish_setup _).trans ?_
    exact (congrArg Outer.setup (refuseStalled_outer _)).trans (hmarkAll _)
  case release => exact finish_setup _
  case setupLoad =>
    simp only [runCommand, runSetupLoad]; split
    · rfl
    · exact finish_setup _
  case setupStore => exact finish_setup _
  case protect =>
    simp only [runCommand, runProtect]; split_ifs
    · rfl
    · rfl
    · rfl
    · exact finish_setup _
  case sectorErase =>
    simp only [runCommand, runSectorErase]; split_ifs
    · rfl
    · rfl
    · rfl
    · rfl
    · rfl
    · exact finish_setup _
  case arrayClear =>
    simp only [runCommand, runArrayClear]; split_ifs
    · rfl
    · exact finish_setup _

/-- The setup port with a reply due (R177). -/
def SetupPort.due (p : SetupPort) (r : Reply) : SetupPort := { p with tx := .replyDue, reply := some r }

/-- What a frame's execution does to the setup port: nothing, or under SELECTED its reply is due (R177). -/
theorem executeFrame_setup (f : SetupFrame) (sel : Selection) (s : State) :
    (executeFrame f sel s).setup = s.setup
      ∨ sel = .selected ∧ ∃ r, (executeFrame f sel s).setup = s.setup.due r := by
  have hanswer : ∀ (r : Reply) (u : State), u.setup = s.setup → (answer sel r u).setup = s.setup
      ∨ sel = .selected ∧ ∃ r', (answer sel r u).setup = s.setup.due r' := by
    intro r u hu
    unfold answer; split_ifs with hsel
    · exact .inr ⟨hsel, r, by rw [State.setSetup_setup, hu]; rfl⟩
    · exact .inl hu
  unfold executeFrame; split_ifs
  · exact hanswer _ _ rfl
  · exact hanswer _ _ rfl
  · split
    · exact hanswer _ _ rfl
    · unfold executeCommand; split_ifs
      · exact .inl rfl
      · exact hanswer _ _ rfl
      · exact hanswer _ _ rfl
      · exact hanswer _ _ (runCommand_setup _ _ s)

/-! ### The laws of the setup port -/

/-- A discarded partial frame leaves the laws (R171 to R175). -/
theorem SetupPort.Lawful.dropPart {p : SetupPort} (h : p.Lawful) : p.dropPart.Lawful := by
  obtain ⟨-, -, -, hreply, hbuffer⟩ := h
  exact ⟨by simp [SetupPort.dropPart], by simp [SetupPort.dropPart, PartialFrame.empty], fun _ => rfl, hreply, hbuffer⟩

/-- Without a buffered frame any selection is lawful for a receiver that waits for a command (R172, R175). -/
theorem SetupPort.Lawful.reselected {p : SetupPort} (h : p.Lawful) (sel : Selection) :
    SetupPort.Lawful { p.dropPart with buffer := none, selection := sel } := by
  obtain ⟨-, -, -, hreply, -⟩ := h
  exact ⟨by simp [SetupPort.dropPart], by simp [SetupPort.dropPart, PartialFrame.empty], fun _ => rfl, hreply, by simp⟩

/-- A reply that becomes due is lawful (R177). -/
theorem SetupPort.Lawful.replyDue {p : SetupPort} (h : p.Lawful) (r : Reply)
    (hsel : ∀ b, p.buffer = some b → b.selection ≠ .none) :
    (p.due r).Lawful := by
  obtain ⟨hgap, hlen, hnone, -, -⟩ := h
  exact ⟨hgap, hlen, hnone, by simp [SetupPort.due], fun b hb => ⟨by simp [SetupPort.due], hsel b hb⟩⟩

/-- A frame's execution leaves the laws. -/
theorem executeFrame_lawful {s : State} (h : s.setup.Lawful) (f : SetupFrame) (sel : Selection) :
    (executeFrame f sel s).setup.Lawful := by
  rcases executeFrame_setup f sel s with he | ⟨-, r, he⟩
  · rwa [he]
  · rw [he]
    exact h.replyDue r fun b hb => (h.2.2.2.2 b hb).2

/-- A frame that completes leaves the laws (R173, R176). -/
theorem completeFrame_lawful {s : State} (h : s.setup.Lawful) (f : SetupFrame) : (completeFrame f s).setup.Lawful := by
  have hdrop := h.dropPart
  unfold completeFrame; split_ifs with hsel
  · exact h
  · dsimp only
    split_ifs with hquiet hempty
    · exact executeFrame_lawful hdrop f _
    · obtain ⟨hgap, hlen, hnone, hreply, -⟩ := hdrop
      exact ⟨hgap, hlen, hnone, hreply, by rintro b ⟨⟩; exact ⟨hquiet, hsel⟩⟩
    · exact hdrop

/-- A frame character of a frame that it does not complete leaves the laws of a selected receiver (R173, R174). -/
theorem SetupPort.Lawful.takeCharacter {p : SetupPort} (h : p.Lawful) (hsel : p.selection ≠ .none) (v : Byte) :
    (p.takeCharacter v).Lawful := by
  obtain ⟨hgap, hlen, hnone, hreply, hbuffer⟩ := h
  unfold SetupPort.takeCharacter
  split
  · exact ⟨by simp, by simp, by simp [hsel], hreply, hbuffer⟩
  · exact ⟨by simp; split_ifs <;> simp, hlen, by simp [hsel], hreply, hbuffer⟩
  · refine ⟨by simp; split_ifs <;> simp, ?_, by simp [hsel], hreply, hbuffer⟩
    dsimp only
    split_ifs with hroom
    · simpa using hroom
    · exact hlen
  · exact ⟨hgap, hlen, hnone, hreply, hbuffer⟩

/-- The passing of time leaves the laws: a gap timer runs on. -/
theorem elapse_lawful {s : State} (h : s.setup.Lawful) (d : Nat) : (elapse d s).setup.Lawful := by
  obtain ⟨hgap, hlen, hnone, hreply, hbuffer⟩ := h
  exact ⟨by simpa [elapse] using hgap, hlen, hnone, hreply, hbuffer⟩

/-- The gap limit leaves the laws (R174). -/
theorem gapTimeoutTaken_lawful {s : State} (h : s.setup.Lawful) : (gapTimeoutTaken s).setup.Lawful := by
  unfold gapTimeoutTaken; split_ifs
  · exact h.dropPart
  · exact h

/-- The limits that a tick reaches leave the laws. -/
theorem takeLimits_lawful {s : State} (h : s.setup.Lawful) : (takeLimits s).setup.Lawful := by
  have hstall : (takeStallLimit (takePortLimit s)).setup = s.setup :=
    (congrArg Outer.setup (takeStallLimit_outer _)).trans (takePortLimit_time_setup s).2
  rw [takeLimits_eq]
  rcases takeGapLimit_cases (takeStallLimit (takePortLimit s)) with he | he <;> rw [he]
  · rwa [hstall]
  · rw [State.setSetup_setup, hstall]
    exact h.dropPart

/-- What the array port's reports keep of the setup port: everything. -/
theorem reportEnd_setup (k : OpKind) (pass : Bool) (w : Word) (s : State) : (reportEnd k pass w s).setup = s.setup :=
  ((losses_time_setup s.time s.setup).reportEnd ⟨rfl, rfl⟩ k pass w).2

theorem reportEraseEnd_setup (pass : Bool) (s : State) : (reportEraseEnd pass s).setup = s.setup :=
  ((losses_time_setup s.time s.setup).reportEraseEnd ⟨rfl, rfl⟩ pass).2

theorem reportAcknowledgement_setup (s : State) : (reportAcknowledgement s).setup = s.setup :=
  ((losses_time_setup s.time s.setup).reportAcknowledgement ⟨rfl, rfl⟩).2

theorem endPulse_setup (s : State) : (endPulse s).setup = s.setup :=
  ((losses_time_setup s.time s.setup).endPulse ⟨rfl, rfl⟩).2

theorem selectActive_setup (p : HostPins) (s : State) : (selectActive p s).setup = s.setup := by
  unfold selectActive; split
  · exact congrArg Outer.setup (arrive_outer p s)
  · rfl

theorem selectInactive_setup (s : State) : (selectInactive s).setup = s.setup := by
  unfold selectInactive; split <;> rfl

theorem takeFlushLevel_setup (high : Bool) (s : State) : (takeFlushLevel high s).setup = s.setup := by
  unfold takeFlushLevel; dsimp only; split_ifs
  · exact congrArg Outer.setup (markAll_outer _)
  · rfl

/-- Every command's effect leaves the laws of the setup port. -/
theorem effect_setupLawful {s : State} (h : s.setup.Lawful) (c : Instr) : (effect c s).setup.Lawful := by
  cases c <;> simp only [effect, finish_setup]
  case hostAccessArrival p => rwa [selectActive_setup]
  case hostSelectWhileBusy p => rwa [selectActive_setup]
  case hostSelectRelease => rwa [selectInactive_setup]
  case reset => exact h
  case resetRelease => exact h
  case flushLevelChange high => rwa [takeFlushLevel_setup]
  case stsclkRisingEdge => unfold takeEdge; split_ifs <;> exact h
  case addressCharacter v => exact h.reselected _
  case framingError =>
    unfold takeFramingError; split_ifs
    · exact h
    · exact h.dropPart
  case breakDetected => exact h.reselected _
  case gapTimeout => exact gapTimeoutTaken_lawful (elapse_lawful h _)
  case replyStart =>
    unfold startReply; split_ifs with hdue
    · obtain ⟨hgap, hlen, hnone, hreply, hbuffer⟩ := h
      exact ⟨hgap, hlen, hnone, by simpa [hdue] using hreply, fun b hb => ⟨by simp, (hbuffer b hb).2⟩⟩
    · exact h
  case replyEnd =>
    have hquiet : SetupPort.Lawful { s.setup with tx := .quiet, reply := none, buffer := none } :=
      ⟨h.1, h.2.1, h.2.2.1, by simp, by simp⟩
    unfold endReply; split_ifs with hsend
    · split
      · exact executeFrame_lawful hquiet _ _
      · next hnone =>
        rw [State.setSetup_setup]
        rwa [← hnone] at hquiet
    · exact h
  case frameCharacter v =>
    unfold takeFrameCharacter; split_ifs with hsel
    · exact h
    · exact completeFrame_lawful h _
    · exact h.takeCharacter hsel v
  case stallLimitExpiry =>
    have hkeep : (stallExpiryTaken (elapse s.ticksToStallLimit s)).setup = (elapse s.ticksToStallLimit s).setup :=
      congrArg Outer.setup (stallExpiryTaken_outer _)
    rw [hkeep]
    exact elapse_lawful h _
  case regionAgeLimit r => exact elapse_lawful h _
  case arrayReadEnd w => rwa [reportEnd_setup]
  case arrayProgramEnd pass => rwa [reportEnd_setup]
  case arrayEraseEnd pass => rwa [reportEraseEnd_setup]
  case suspendAcknowledgement => rwa [reportAcknowledgement_setup]
  case operationTimeout => rw [(operationTimeoutTaken_time_setup _).2]; exact elapse_lawful h _
  case suspendTimeout l => rw [(suspendTimeoutTaken_time_setup l _).2]; exact elapse_lawful h _
  case innerOperationTimeout => rw [(innerTimeoutTaken_time_setup _).2]; exact elapse_lawful h _
  case arstPulseEnd => rw [endPulse_setup]; exact elapse_lawful h _
  all_goals exact completeFrame_lawful h _

/-- The release of RST# leaves the setup port. -/
theorem beginStartUp_setup (pins : ReleasePins) (s : State) : (beginStartUp pins s).setup = s.setup := by
  unfold beginStartUp; dsimp only; split_ifs
  · exact congrArg Outer.setup (arrive_outer _ _)
  · rfl

/-- Settles O13, command by command. -/
theorem stepKeepsSetupPortLawful : Obligations.StepKeepsSetupPortLawful := by
  intro s t hs ht
  rcases step_cases ht with ⟨-, rfl⟩ | ⟨c, rest, -, he⟩
  · unfold tick; split_ifs
    · exact hs
    · rw [refresh_setup, finish_setup]
      exact takeLimits_lawful (elapse_lawful hs 1)
  · have hq : (s.setPending rest).setup.Lawful := hs
    obtain ⟨v, hv, hcases⟩ := exec_cases c (s.setPending rest)
    obtain rfl : t = v := by rw [he] at hv; exact Host.Outcome.next.inj hv
    rcases hcases with ⟨-, -, rfl | rfl⟩ | ⟨-, rfl⟩ | rfl | ⟨-, pins, rfl⟩
    · exact hq
    · exact effect_setupLawful hq c
    · unfold effectInReset; split <;> exact hq
    · obtain ⟨-, -, -, -, hlaw, -⟩ := resetMeetsTheLaws
      exact hlaw
    · rw [refresh_setup, finish_setup, beginStartUp_setup]
      exact hq

/-! ### Frames while the transmitter is QUIET -/

/-- Outside reset a frame that completes is its command's effect (R173). -/
theorem exec_frameBuffered {s : State} (h : s.inReset = false) (f : SetupFrame) :
    exec (.frameBuffered f) s = .next (refresh (completeFrame f s)) := exec_awake h (by simp) (by simp)

/-- Under a selection a frame completes into a QUIET transmitter and is executed (R176). -/
theorem completeFrame_quiet {s : State} (hsel : s.setup.selection ≠ .none) (htx : s.setup.tx = .quiet) (f : SetupFrame) :
    completeFrame f s = executeFrame f s.setup.selection (s.setSetup s.setup.dropPart) := by
  rw [completeFrame, if_neg hsel]
  exact if_pos htx

/-- Under BROADCAST nothing is answered (R177). -/
theorem answer_broadcast (r : Reply) (s : State) : answer .broadcast r s = s := rfl

/-- Step 1 of Table 9-3: a check sum that is not 0. -/
theorem executeFrame_badCheck {f : SetupFrame} (h : f.sumZero = false) (sel : Selection) (s : State) :
    executeFrame f sel s = answer sel (plainReply codeCheckError) s := by
  rw [executeFrame, h]; rfl

/-- Step 2: a length character above 250. -/
theorem executeFrame_overlong {f : SetupFrame} (hsum : f.sumZero = true) (h : 250 < f.length) (sel : Selection)
    (s : State) : executeFrame f sel s = answer sel (invalidReply .frameLength none) s := by
  rw [executeFrame, hsum]
  exact if_pos h

/-- Step 3: an unknown code. -/
theorem executeFrame_unknown {f : SetupFrame} (hsum : f.sumZero = true) (hlen : f.length ≤ 250)
    (h : commandOf f.code = none) (sel : Selection) (s : State) :
    executeFrame f sel s = answer sel (plainReply codeUnknown) s := by
  have hfits : ¬payloadLimit < f.length := Nat.not_lt.mpr hlen
  rw [executeFrame, hsum, if_neg (by simp), if_neg hfits, h]

/-- Steps 4 to 7 for the frame of a setup command. -/
theorem executeFrame_recognised (c : SetupCommand) {p : List Byte} (hp : p.length ≤ 250) (sel : Selection) (s : State) :
    executeFrame (goodFrame c.code p) sel s = executeCommand c (goodFrame c.code p) sel s := by
  have hcommand : commandOf (goodFrame c.code p).code = some c := commandOf_code c
  have hfits : ¬payloadLimit < (goodFrame c.code p).length := Nat.not_lt.mpr hp
  rw [executeFrame, hcommand, if_neg (by simp [goodFrame]), if_neg hfits]

/-- The codes that name no command. -/
theorem commandOf_eq_none {code : Byte}
    (h : code ∉ [0x01, 0x02, 0x03, 0x04, 0x05, 0x10, 0x11, 0x12, 0x13, 0x20, 0x21, 0x22, 0x23, 0x24#8]) :
    commandOf code = none := by
  rw [commandOf, List.find?_eq_none]
  intro c _ hc
  apply h
  rw [← eq_of_beq hc]
  cases c <;> simp [SetupCommand.code]

/-- Settles O19: both commands' rules leave the state, and their payloads are the layouts of sections 13.3 and 13.4. -/
theorem setupReadAndRemapReadReply : Obligations.SetupReadAndRemapReadReply := by
  intro s hs
  constructor
  · exact exec_instr_listens (c := .setupRead) (t := s) (r := okReply (imagePayload s)) hs (by simp) rfl rfl rfl
  · have hentry : ∀ e : RemapEntry, encodeRemap e = leBytes 2 e.sector ++ [match e.target with
        | some i => BitVec.ofNat 8 i
        | none => 0xFF] := by
      intro e
      rw [encodeRemap]
      cases e.target <;> rfl
    have hreply := exec_instr_listens (c := .remapRead) (p := []) (t := s) (r := okReply (remapPayload s)) hs (by simp) rfl rfl rfl
    rw [remapPayload, encodeMap, funext hentry, ← List.append_assoc] at hreply
    exact hreply

/-- A frame that the part hears under SELECTED and that its tests refuse is answered, with no other effect. -/
theorem exec_refused {s : State} (h : s.Listens) {c : Instr} {f : SetupFrame} {r : Reply}
    (hexec : exec c s = .next (refresh (completeFrame f s)))
    (hrefuse : ∀ (sel : Selection) (u : State), u.mc.mode = s.mc.mode → sel ≠ .broadcast →
      executeFrame f sel u = answer sel r u) :
    exec c s = .next (refresh (s.replies r)) := by
  obtain ⟨-, hsel, htx⟩ := h
  rw [hexec, completeFrame_quiet (by simp [hsel]) htx, hsel, hrefuse .selected (s.setSetup s.setup.dropPart) rfl (by simp)]
  rfl

/-- Settles O29: the tests in the order of Table 9-3, and Table 9-5 by its rows. -/
theorem refusedFramesChangeNothing : Obligations.RefusedFramesChangeNothing := by
  refine ⟨fun s hs => ⟨fun code p => ?_, fun code length p hlen => ?_, fun code p hlen hcode => ?_,
    fun c p hlen => ⟨fun hmode => ?_, fun hmode hsuits => ?_⟩⟩, ?_, ?_⟩
  · exact exec_refused hs (exec_awake hs.1 (by simp) (by simp)) fun sel u _ _ => executeFrame_badCheck rfl sel u
  · exact exec_refused hs (exec_awake hs.1 (by simp) (by simp)) fun sel u _ _ => executeFrame_overlong rfl hlen sel u
  · exact exec_refused hs (exec_awake hs.1 (by simp) (by simp)) fun sel u _ _ =>
      executeFrame_unknown rfl hlen (commandOf_eq_none hcode) sel u
  · refine exec_refused hs (exec_instr_awake c p hs.1) fun sel u hu hsel => ?_
    rw [executeFrame_recognised c hlen, executeCommand, if_neg (by simp [hsel]), hu, hmode]
    rfl
  · refine exec_refused hs (exec_instr_awake c p hs.1) fun sel u hu hsel => ?_
    have hlength : c.lengthSuits (goodFrame c.code p).length = false := hsuits
    rw [executeFrame_recognised c hlen, executeCommand, if_neg (by simp [hsel]), hu, hmode, hlength]
    rfl
  · intro c m
    cases c <;> cases m <;> decide
  · intro c n
    cases c <;> simp [SetupCommand.lengthSuits]

/-- Settles O30: no frame received under BROADCAST is answered, and what Table 9-3 refuses or ignores changes nothing. -/
theorem broadcastIsNeverAnswered : Obligations.BroadcastIsNeverAnswered := by
  have hquiet : ∀ (s : State), s.setup.selection = .broadcast → s.setup.tx = .quiet → ∀ f,
      completeFrame f s = executeFrame f .broadcast (s.setSetup s.setup.dropPart) := by
    intro s hsel htx f
    rw [completeFrame_quiet (by simp [hsel]) htx, hsel]
  have hkeeps : ∀ (f : SetupFrame) (u : State), (executeFrame f .broadcast u).setup = u.setup := by
    intro f u
    rcases executeFrame_setup f .broadcast u with he | ⟨hsel, -⟩
    · exact he
    · simp at hsel
  have hcompletes : ∀ (s : State), s.setup.selection = .broadcast → s.setup.tx = .quiet → ∀ f,
      (completeFrame f s).setup = s.setup.dropPart := by
    intro s hsel htx f
    rw [hquiet s hsel htx, hkeeps]; rfl
  constructor
  · intro c p s hr hsel htx hlen
    refine ⟨⟨_, exec_instr_awake c p hr, hcompletes s hsel htx _⟩, fun hflush hhold hrelease => ?_⟩
    have hignored : c.broadcastActs = false := by
      cases c <;> simp_all [SetupCommand.broadcastActs]
    rw [exec_instr_awake c p hr, hquiet s hsel htx, executeFrame_recognised c hlen, executeCommand, hignored]
    rfl
  · intro s hr
    refine ⟨fun hsel htx => ⟨fun code p => ?_, fun code length p hlen => ?_, fun code p hlen hcode => ?_, fun f => ?_,
      fun v hrx => ?_⟩, fun f hsend hbuf => ?_⟩
    · rw [exec_awake hr (by simp) (by simp), effect, hquiet s hsel htx, executeFrame_badCheck rfl, answer_broadcast]
    · rw [exec_awake hr (by simp) (by simp), effect, hquiet s hsel htx, executeFrame_overlong rfl hlen, answer_broadcast]
    · rw [exec_awake hr (by simp) (by simp), effect, hquiet s hsel htx,
        executeFrame_unknown rfl hlen (commandOf_eq_none hcode), answer_broadcast]
    · exact ⟨_, exec_frameBuffered hr f, hcompletes s hsel htx f⟩
    · refine ⟨_, exec_awake hr (by simp) (by simp), ?_⟩
      rw [refresh_setup, effect, takeFrameCharacter, if_neg (by simp [hsel]), if_pos hrx]
      exact hcompletes s hsel htx _
    · refine ⟨_, exec_awake hr (by simp) (by simp), ?_⟩
      rw [refresh_setup, effect, endReply, if_pos hsend, hbuf]
      exact hkeeps _ _

/-- Settles O31, by the state of the transmitter. -/
theorem framesQueueBehindReplies : Obligations.FramesQueueBehindReplies := by
  intro s hr
  refine ⟨fun f hsel htx => ?_, fun hdue => ?_, fun hsend hbuf => ?_, fun b hsend hbuf => ?_, fun hsend => ?_,
    fun r hdue hreply => ?_, fun hsend => ?_⟩
  · have hbusy : ¬(s.setSetup s.setup.dropPart).setup.tx = .quiet := htx
    rw [exec_frameBuffered hr, completeFrame, if_neg hsel]
    dsimp only
    rw [if_neg hbusy]
    cases hbuf : s.setup.buffer with
    | none => simp [SetupPort.dropPart, hbuf]
    | some b => simp [SetupPort.dropPart, hbuf]
  · rw [exec_awake hr (by simp) (by simp), effect, startReply, if_pos hdue]
  · rw [exec_awake hr (by simp) (by simp), effect, endReply, if_pos hsend, hbuf]
  · rw [exec_awake hr (by simp) (by simp), effect, endReply, if_pos hsend, hbuf]
  · rw [State.sro, hr]
    cases htx : s.setup.tx <;> simp_all
  · refine ⟨_, exec_awake hr (by simp) (by simp), ?_⟩
    rw [effect, startReply, if_pos hdue, State.sro, refresh_inReset, State.setSetup_inReset, hr]
    simp only [Bool.false_eq_true, if_false, refresh_setup, State.setSetup_setup, hreply, Option.map_some, replyBits]
    rfl
  · refine ⟨_, exec_awake hr (by simp) (by simp), ?_⟩
    have hquiet : (effect .replyEnd s).setup.tx ≠ .sending := by
      rw [effect, endReply, if_pos hsend]
      split
      · next b hb =>
        rcases executeFrame_setup b.frame b.selection
          (s.setSetup { s.setup with tx := .quiet, reply := none, buffer := none }) with he | ⟨-, r, he⟩ <;> rw [he]
        · simp
        · simp [SetupPort.due]
      · simp
    have hawake : (effect .replyEnd s).inReset = false := (effect_pending_inReset _ s).2.trans hr
    rw [State.sro, refresh_inReset, hawake, refresh_setup]
    cases htx : (effect .replyEnd s).setup.tx <;> simp_all

/-! ### Characters of the line -/

/-- Settles O32: the selection that a value makes, and what an address character discards. -/
theorem addressCharacterSelects : Obligations.AddressCharacterSelects := by
  intro s v hr
  have hsaddr : v = s.straps.saddr.setWidth 8 ↔ v.toNat = s.straps.saddr.toNat := by
    have hlt : s.straps.saddr.toNat < 2 ^ 8 := by have := s.straps.saddr.isLt; omega
    rw [← BitVec.toNat_inj, BitVec.toNat_setWidth, Nat.mod_eq_of_lt hlt]
  rw [exec_awake hr (by simp) (by simp), effect, takeAddress, selectionOf]
  simp only [hsaddr, SetupPort.dropPart]

/-- Settles O33: a framing error by the receiver's state, and a break. -/
theorem framingErrorAndBreak : Obligations.FramingErrorAndBreak := by
  intro s hr
  refine ⟨fun hrx hsel => ?_, fun hidle => ?_, ?_⟩
  · rw [exec_awake hr (by simp) (by simp), effect, takeFramingError, if_neg (by simp [hrx, hsel])]
    rfl
  · rw [exec_awake hr (by simp) (by simp), effect, takeFramingError, if_pos hidle]
  · exact exec_awake hr (by simp) (by simp)

/-- Settles O35: a frame character in the receiver's four states; in WAIT_CHECK the frame it completes is that of the
command named. -/
theorem frameCharacterIsAssembled : Obligations.FrameCharacterIsAssembled := by
  intro s v hr
  have hexec : exec (.frameCharacter v) s = .next (refresh (takeFrameCharacter v s)) := exec_awake hr (by simp) (by simp)
  refine ⟨fun hsel => ?_, fun hsel hrx => ?_, fun hsel hrx => ?_, fun hsel hrx => ?_, fun hsel hrx => ?_⟩
  · rw [hexec, takeFrameCharacter, if_pos hsel]
  · rw [hexec, takeFrameCharacter, if_neg hsel, if_neg (by simp [hrx]), SetupPort.takeCharacter, hrx]
  · rw [hexec, takeFrameCharacter, if_neg hsel, if_neg (by simp [hrx]), SetupPort.takeCharacter, hrx]
    simp only [← BitVec.toNat_inj]
    rfl
  · rw [hexec, takeFrameCharacter, if_neg hsel, if_neg (by simp [hrx]), SetupPort.takeCharacter, hrx]
    simp only [payloadLimit, ← Nat.not_le, ite_not]
  · have hdone : exec (.frameCharacter v) s = .next (refresh (completeFrame (s.setup.part.complete v) s)) := by
      rw [hexec, takeFrameCharacter, if_neg hsel, if_pos hrx]
    have does : ∀ (c : Instr) (f : SetupFrame), exec c s = .next (refresh (completeFrame f s)) →
        s.setup.part.complete v = f → exec (.frameCharacter v) s = exec c s := by
      rintro c f hc rfl
      rw [hdone, hc]
    have hgood : ∀ code : Byte, s.setup.part.command = code → s.setup.part.sum + v = 0 →
        s.setup.part.payload.length = s.setup.part.length → s.setup.part.length ≤ 250 →
        s.setup.part.complete v = goodFrame code s.setup.part.payload := by
      intro code hcode hsum hlen hfits
      simp [PartialFrame.complete, goodFrame, hcode, hsum, hlen, payloadLimit, List.take_of_length_le (hlen.trans_le hfits)]
    refine ⟨does _ _ (exec_frameBuffered hr _) rfl, fun hlen hfits => ⟨fun hsum => ?_, fun hsum => ⟨fun c hcode => ?_,
      fun _ => ?_⟩⟩, fun hsum hover hbyte hlen => ?_⟩
    · refine does _ _ (exec_awake hr (by simp) (by simp)) ?_
      have hbad : ¬s.setup.part.sum + v = 0#8 := hsum
      simp [PartialFrame.complete, badCheckFrame, goodFrame, hbad, hlen, payloadLimit,
        List.take_of_length_le (hlen.trans_le hfits)]
    · refine does _ _ (exec_instr_awake c _ hr) (hgood _ ?_ hsum hlen hfits)
      refine hcode.trans ?_
      cases c <;> rfl
    · exact does _ _ (exec_awake hr (by simp) (by simp)) (hgood _ rfl hsum hlen hfits)
    · refine does _ _ (exec_awake hr (by simp) (by simp)) ?_
      simp [PartialFrame.complete, overlongFrame, hsum, payloadLimit, List.take_of_length_le hlen.le,
        Nat.mod_eq_of_lt (show s.setup.part.length < 256 by omega)]

/-! ### A frame character by character -/

/-- The partial frame of code and length n once the payload bytes `done` have been taken (R173). -/
def PartialFrame.received (code : Byte) (n : Nat) (done : List Byte) : PartialFrame :=
  { command := code, length := n, payload := done.take payloadLimit, taken := done.length
    sum := byteSum (code :: BitVec.ofNat 8 n :: done) }

/-- The part whose receiver has taken the code, the length n and the payload bytes `done` of a frame. -/
def State.receives (s : State) (code : Byte) (n : Nat) (done : List Byte) : State :=
  s.setSetup { s.setup with
    rx := if done.length < n then .payload else .waitCheck, gapTimer := some 0
    part := PartialFrame.received code n done }

/-- The sum of bytes grows with each byte. -/
theorem byteSum_concat (bs : List Byte) (v : Byte) : byteSum (bs ++ [v]) = byteSum bs + v := by
  simp [byteSum]

/-- From WAIT_COMMAND, code and length lead to the payload, or to the check of an empty one. -/
theorem takeHeader {s : State} (hsel : s.setup.selection ≠ .none) (hrx : s.setup.rx = .waitCommand) (code : Byte)
    {n : Nat} (hn : n ≤ 255) :
    takeFrameCharacter (BitVec.ofNat 8 n) (takeFrameCharacter code s) = s.receives code n [] := by
  have hcode : takeFrameCharacter code s = s.setSetup { s.setup with
      rx := .waitLength, gapTimer := some 0
      part := { command := code, length := 0, payload := [], taken := 0, sum := code } } := by
    rw [takeFrameCharacter, if_neg hsel, if_neg (by simp [hrx]), SetupPort.takeCharacter, hrx]
  have hzero : BitVec.ofNat 8 n = 0 ↔ n = 0 := by
    rw [← BitVec.toNat_inj, BitVec.toNat_ofNat, Nat.mod_eq_of_lt (by omega)]; rfl
  have hsum : byteSum [code, BitVec.ofNat 8 n] = code + BitVec.ofNat 8 n := by simp [byteSum]
  rw [hcode, takeFrameCharacter, if_neg (by simpa using hsel), if_neg (by simp), SetupPort.takeCharacter,
    State.receives, PartialFrame.received, hsum]
  simp only [State.setSetup_setup, State.setSetup_setSetup, hzero, BitVec.toNat_ofNat,
    Nat.mod_eq_of_lt (show n < 2 ^ 8 by omega), List.length_nil, List.take_nil]
  rcases Nat.eq_zero_or_pos n with rfl | hpos
  · rfl
  · rw [if_neg (by omega), if_pos hpos]

/-- A payload character joins the bytes received, the first 250 of them held (R173). -/
theorem takePayloadCharacter {s : State} (hsel : s.setup.selection ≠ .none) (code : Byte) {n : Nat} {done : List Byte}
    (hmore : done.length < n) (v : Byte) :
    takeFrameCharacter v (s.receives code n done) = s.receives code n (done ++ [v]) := by
  have hheld : (if done.length < payloadLimit then done.take payloadLimit ++ [v]
      else done.take payloadLimit) = (done ++ [v]).take payloadLimit := by
    rw [List.take_append]
    split_ifs with hroom
    · rw [List.take_of_length_le (i := payloadLimit - done.length) (by simp; omega)]
    · rw [show payloadLimit - done.length = 0 by omega, List.take_zero, List.append_nil]
  have hsum : byteSum (code :: BitVec.ofNat 8 n :: (done ++ [v])) = byteSum (code :: BitVec.ofNat 8 n :: done) + v :=
    byteSum_concat (code :: BitVec.ofNat 8 n :: done) v
  unfold State.receives
  rw [takeFrameCharacter, if_neg (by simpa using hsel), if_neg (by simp [hmore]), SetupPort.takeCharacter]
  simp [hmore, PartialFrame.received, hheld, hsum]

/-- The payload of a frame, character by character. -/
theorem foldl_takePayload {s : State} (hsel : s.setup.selection ≠ .none) (code : Byte) {n : Nat} (rest done : List Byte)
    (hlen : done.length + rest.length = n) :
    rest.foldl (fun u v => takeFrameCharacter v u) (s.receives code n done) = s.receives code n (done ++ rest) := by
  induction rest generalizing done with
  | nil => simp
  | cons v rest ih =>
    rw [List.length_cons] at hlen
    rw [List.foldl_cons, takePayloadCharacter hsel code (by omega), ih _ (by simp; omega)]
    simp

/-- Completion of a frame leaves nothing of the partial frame (R173). -/
theorem completeFrame_receives {s : State} (hsel : s.setup.selection ≠ .none) (code : Byte) (n : Nat) (done : List Byte)
    (f : SetupFrame) : completeFrame f (s.receives code n done) = completeFrame f s := by
  have hsel' : (s.receives code n done).setup.selection ≠ .none := hsel
  rw [completeFrame, if_neg hsel', completeFrame, if_neg hsel]
  rfl

/-- Settles O36, by induction over the payload; the check character makes the sum 0. -/
theorem charactersMakeTheFrame : Obligations.CharactersMakeTheFrame := by
  intro s code payload hsel hrx hlen
  have hcheck : ∀ v : Byte, byteSum (code :: BitVec.ofNat 8 payload.length :: payload) + v = 0 →
      takeFrameCharacter v (s.receives code payload.length payload) = completeFrame (goodFrame code payload) s := by
    intro v hv
    have hframe : (PartialFrame.received code payload.length payload).complete v = goodFrame code payload := by
      simp [PartialFrame.complete, PartialFrame.received, goodFrame, hv]
    have hwait : (s.receives code payload.length payload).setup.rx = .waitCheck := by simp [State.receives]
    have hsel' : (s.receives code payload.length payload).setup.selection ≠ .none := hsel
    rw [takeFrameCharacter, if_neg hsel', if_pos hwait, ← hframe]
    exact completeFrame_receives hsel code payload.length payload _
  have hbody : (code :: BitVec.ofNat 8 payload.length :: payload).foldl (fun u v => takeFrameCharacter v u) s
      = s.receives code payload.length payload := by
    rw [List.foldl_cons, List.foldl_cons, takeHeader hsel hrx code hlen,
      foldl_takePayload hsel code payload [] (by simp), List.nil_append]
  rw [frameBytes, List.foldl_append, hbody]
  exact hcheck _ (by simp)

/-! ### Characters and replies -/

/-- The low bits of a number, least significant first, have its value (R170). -/
theorem bitsValue_testBit (n x : Nat) : bitsValue ((List.range n).map x.testBit) = x % 2 ^ n := by
  induction n generalizing x with
  | zero => simp [bitsValue, Nat.mod_one]
  | succ n ih =>
    have htail : (List.range n).map (x.testBit ∘ Nat.succ) = (List.range n).map (x / 2).testBit := by
      simp [Function.comp_def, Nat.testBit_succ]
    rw [List.range_succ_eq_map, List.map_cons, List.map_map, bitsValue, htail, ih, Nat.pow_succ', Nat.mod_mul]
    rw [Nat.testBit_zero]
    rcases Nat.mod_two_eq_zero_or_one x with h | h <;> simp [h]

/-- The data bits of a character have its value. -/
theorem bitsValue_dataBits (v : Byte) : BitVec.ofNat 8 (bitsValue (dataBits v)) = v := by
  have hbits : dataBits v = (List.range 8).map v.toNat.testBit := rfl
  rw [hbits, bitsValue_testBit, Nat.mod_eq_of_lt v.isLt, BitVec.ofNat_toNat, BitVec.setWidth_eq]

/-- The eleven bits of a character form it again (R170). -/
theorem formCharacter_characterBits (marker : Bool) (v : Byte) :
    formCharacter (characterBits marker v) = if marker then .address v else .frame v := by
  have hform : formCharacter (characterBits marker v) = (if marker then .address (BitVec.ofNat 8 (bitsValue (dataBits v)))
      else .frame (BitVec.ofNat 8 (bitsValue (dataBits v)))) := by cases marker <;> rfl
  rw [hform, bitsValue_dataBits]

/-- Settles O37: the check character, and the character that its own bits form. -/
theorem replyCharactersSumToZero : Obligations.ReplyCharactersSumToZero := by
  refine ⟨fun r => ⟨?_, ?_, ?_⟩, fun v => ⟨formCharacter_characterBits true v, formCharacter_characterBits false v⟩⟩
  · rw [replyBytes, frameBytes, byteSum_concat]
    simp
  · simp [replyBytes, frameBytes]
  · rw [replyBytes, frameBytes]
    exact List.take_left' (by simp)

/-! ### The status stream -/

/-- The four status lines as a number (R204, R205). -/
theorem stsValue_toNat (b3 b2 : Bool) {low : Nat} (h : low < 4) :
    (stsValue b3 b2 low).toNat = low + 4 * b2.toNat + 8 * b3.toNat := by
  rw [stsValue, BitVec.toNat_ofNat, Nat.mod_eq_of_lt h]
  cases b3 <;> cases b2 <;> simp <;> omega

/-- A level code is one of 0 to 3 (R32). -/
theorem State.levelCode_lt (s : State) (r : Nat) : s.levelCode r < 4 := by
  unfold State.levelCode; dsimp only; split_ifs <;> omega

/-- Settles O38: the position, and the slot's values by its kind. -/
theorem statusStreamEdge : Obligations.StatusStreamEdge := by
  intro s hr
  have hexec : exec .stsclkRisingEdge s = .next (refresh (takeEdge s)) := exec_awake hr (by simp) (by simp)
  refine ⟨fun hoff => ?_, fun hon => ?_⟩
  · rw [hexec, takeEdge, if_neg (by simp [hoff])]
  · have hedge : takeEdge s = s.setStream { running := true, position := some (nextSlot s.regions.length s.stream.position)
                                            sts := s.slotValue (nextSlot s.regions.length s.stream.position)
                                            stsync := nextSlot s.regions.length s.stream.position == 0 } := by
      rw [takeEdge, if_pos hon]
      simp only [hon]
    refine ⟨_, nextSlot s.regions.length s.stream.position, hexec, by rw [hedge]; rfl, ?_, fun hregion => ?_, fun hdevice => ?_⟩
    · cases s.stream.position <;> rfl
    · rw [hedge, refresh_stream, State.setStream_stream, State.slotValue, if_pos hregion, State.regionSlot]
      split_ifs
      · exact stsValue_toNat _ _ (s.levelCode_lt _)
      · rfl
    · have hcode : s.mc.mode.streamCode < 4 := by cases s.mc.mode <;> decide
      rw [hedge, refresh_stream, State.setStream_stream, State.slotValue, if_neg (by omega), State.deviceSlot,
        stsValue_toNat _ _ hcode]
      congr 2
      · cases s.mc.mode <;> rfl
      · cases s.engine.phase <;> rfl

/-! ### STATUS -/

/-- A slice of equal pieces, one after another. -/
theorem flatMap_slice {α β : Type} (f : α → List β) {k : Nat} (hf : ∀ a, (f a).length = k) (l : List α) {i : Nat}
    (hi : i < l.length) : ((l.flatMap f).drop (k * i)).take k = f l[i] := by
  induction l generalizing i with
  | nil => simp at hi
  | cons a l ih =>
    rw [List.flatMap_cons]
    cases i with
    | zero => rw [Nat.mul_zero, List.drop_zero, List.take_left' (hf a)]; rfl
    | succ i =>
      rw [Nat.mul_succ, Nat.add_comm, ← List.drop_drop, List.drop_left' (hf a), ih (by simpa using hi)]
      rfl

/-- The region fields of STATUS are three bytes. -/
theorem statusRegion_length (s : State) (r : Nat) : (statusRegion s r).length = 3 := by simp [statusRegion]

/-- The level code as its two low bits. -/
theorem level_bits {n : Nat} (h : n < 4) : (n % 2 == 1).toNat + 2 * (decide (2 ≤ n)).toNat = n % 4 := by
  obtain rfl | rfl | rfl | rfl : n = 0 ∨ n = 1 ∨ n = 2 ∨ n = 3 := by omega
  all_goals rfl

/-- The region fields of STATUS: count, and the flags at their bit weights. -/
theorem statusRegion_eq (s : State) (r : Nat) : statusRegion s r = leBytes 2 (s.count r)
    ++ [BitVec.ofNat 8 (s.levelCode r % 4 + 4 * (s.commitOf r).toNat + 8 * (s.stalled r).toNat
        + 16 * (s.marked r).toNat + 32 * (s.aged r).toNat)] := by
  rw [statusRegion, flagByte_six, level_bits (s.levelCode_lt r)]

/-- The first 13 bytes of STATUS: modes and the work in hand. -/
def statusWork (s : State) : List Byte :=
  [s.mc.mode.code, s.engine.phase.code, s.engine.item.code] ++ optField 1 s.engine.itemRegion
    ++ optField 2 s.engine.itemSector ++ optField 2 s.engine.mergeSector
    ++ [flagByte [s.engine.mergeValid, s.engine.jobPending, s.cru.updatePending, !s.cru.healthGood]]
    ++ optField 2 s.engine.jobSector ++ [s.engine.lastJobResult.code, copyCode s.cru.current]

/-- The ten bytes after them: generation, spares and the log. -/
def statusRecords (s : State) : List Byte :=
  leBytes 4 s.cru.generation
    ++ [BitVec.ofNat 8 s.spareCount, BitVec.ofNat 8 (s.spareTally .free), BitVec.ofNat 8 (s.spareTally .used),
        BitVec.ofNat 8 (s.spareTally .bad), BitVec.ofNat 8 s.log.records.length, BitVec.ofNat 8 s.log.unstored]

/-- The last five bytes before the regions: refused count, progress index and N. -/
def statusCounts (s : State) : List Byte :=
  leBytes 2 s.mc.refused ++ leBytes 2 s.mc.clearIndex ++ [BitVec.ofNat 8 s.regions.length]

/-- STATUS is these parts and the regions' fields. -/
theorem statusPayload_eq (s : State) : statusPayload s = statusWork s ++ (statusRecords s ++ (statusCounts s
    ++ (List.range s.regions.length).flatMap (statusRegion s))) := by
  simp [statusPayload, statusWork, statusRecords, statusCounts]

theorem statusWork_length (s : State) : (statusWork s).length = 13 := by simp [statusWork]
theorem statusRecords_length (s : State) : (statusRecords s).length = 10 := by simp [statusRecords]
theorem statusCounts_length (s : State) : (statusCounts s).length = 5 := by simp [statusCounts]

/-- Settles O17: STATUS's rule leaves the state, and its payload is cut at the bytes that section 13.6 fixes. -/
theorem statusReplies : Obligations.StatusReplies := by
  intro s hs sectorField
  have hsector : sectorField = optField 2 := by
    funext x
    cases x <;> rfl
  refine ⟨statusPayload s, exec_instr_listens (c := .status) (t := s) (r := okReply (statusPayload s)) hs (by simp) rfl rfl
    rfl, ?_, ?_, ?_, ?_, fun r hr => ?_⟩
  · rw [statusPayload_eq]
    simp only [List.length_append, statusWork_length, statusRecords_length, statusCounts_length, List.length_flatMap,
      statusRegion_length, List.map_const', List.sum_replicate, List.length_range, smul_eq_mul]
    omega
  · rw [statusPayload_eq, List.take_left' (statusWork_length s), hsector]
    have hflags : flagByte [s.engine.mergeValid, s.engine.jobPending, s.cru.updatePending, !s.cru.healthGood]
        = BitVec.ofNat 8 (s.engine.mergeValid.toNat + 2 * s.engine.jobPending.toNat
          + 4 * s.cru.updatePending.toNat + 8 * (!s.cru.healthGood).toNat) := by
      have hvalue : bitsValue [s.engine.mergeValid, s.engine.jobPending, s.cru.updatePending, !s.cru.healthGood]
          = s.engine.mergeValid.toNat + 2 * s.engine.jobPending.toNat
            + 4 * s.cru.updatePending.toNat + 8 * (!s.cru.healthGood).toNat := by
        simp only [bitsValue]; omega
      rw [flagByte, hvalue]
    have hregion : optField 1 s.engine.itemRegion = [match s.engine.itemRegion with
        | some r => BitVec.ofNat 8 r
        | none => 0xFF] := by cases s.engine.itemRegion <;> rfl
    rw [statusWork, hflags, hregion]
    rfl
  · rw [statusPayload_eq, List.drop_left' (statusWork_length s), List.take_left' (statusRecords_length s)]
    rfl
  · rw [statusPayload_eq, show 23 = 13 + 10 from rfl, ← List.drop_drop, List.drop_left' (statusWork_length s),
      List.drop_left' (statusRecords_length s), List.take_left' (statusCounts_length s)]
    rfl
  · rw [statusPayload_eq, show 28 + 3 * r = 13 + (10 + (5 + 3 * r)) by omega, ← List.drop_drop,
      List.drop_left' (statusWork_length s), ← List.drop_drop, List.drop_left' (statusRecords_length s), ← List.drop_drop,
      List.drop_left' (statusCounts_length s),
      flatMap_slice _ (statusRegion_length s) _ (by simpa using hr), List.getElem_range, statusRegion_eq]

end Sys2Proof.Machine

/-! What a command can do, said once: outside reset its effect is a change of the setup port or of the status stream, the
removal of a fault record, or one `Move` with the end of an event after it. The laws that need more than the moves of
Laws/Closed.lean are read off this inversion. -/

namespace Sys2Proof.Machine

/-! ### The setup commands -/

/-- What a setup command does before the end of its event, with what its tests have asked of the state (Tables 9-3 and
9-5). -/
inductive CommandMove (s : State) : State → Prop
  | markAll : CommandMove s (markAll s)
  | markRegion (r : Nat) : CommandMove s (markRegion r s)
  | purge (r : Nat) : s.mc.mode = .run ∨ s.mc.mode = .holding → CommandMove s (purgeRegion r s)
  | hold : s.mc.mode = .run → CommandMove s (enterHolding s)
  | release : s.mc.mode = .holding ∨ s.mc.mode = .held → CommandMove s (s.setMc { s.mc with mode := .run })
  | load (im : SetupImage) (p : List Byte) : s.mc.mode = .held → validateImage s.sparesRefused p = .valid im →
      CommandMove s (applyImage im s)
  | store : CommandMove s (setUpdatePending s)
  | protect (p : ProtRange) : CommandMove s (addRange p s)
  | job (x : Nat) : CommandMove s (acceptJob x s)
  | clear : s.mc.mode = .held → CommandMove s (enterClearing s)

/-- A setup command that its mode allows reports, removes the oldest fault record, or makes its move. -/
theorem runCommand_cases {c : SetupCommand} (p : List Byte) {s : State} (hc : c.allowedIn s.mc.mode = true) :
    (runCommand c p s).2 = s ∨ (runCommand c p s).2 = s.setLog s.log.removeOldest
      ∨ ∃ u, CommandMove s u ∧ (runCommand c p s).2 = finish u := by
  cases c
  case ident => exact .inl rfl
  case status => exact .inl rfl
  case faultRead =>
    simp only [runCommand, runFaultRead]; split
    · exact .inl rfl
    · exact .inr (.inl rfl)
  case setupRead => exact .inl rfl
  case remapRead => exact .inl rfl
  case flush =>
    simp only [runCommand, runFlush]; split_ifs
    · exact .inr (.inr ⟨_, .markAll, rfl⟩)
    · exact .inr (.inr ⟨_, .markRegion _, rfl⟩)
    · exact .inl rfl
  case purge =>
    simp only [runCommand, runPurge]; split_ifs
    · exact .inr (.inr ⟨_, .purge _ (by simpa [SetupCommand.allowedIn] using hc), rfl⟩)
    · exact .inl rfl
  case hold => exact .inr (.inr ⟨_, .hold (by simpa [SetupCommand.allowedIn] using hc), rfl⟩)
  case release => exact .inr (.inr ⟨_, .release (by simpa [SetupCommand.allowedIn] using hc), rfl⟩)
  case setupLoad =>
    simp only [runCommand, runSetupLoad]; split
    · exact .inl rfl
    · next im hv => exact .inr (.inr ⟨_, .load im p (by simpa [SetupCommand.allowedIn] using hc) hv, rfl⟩)
  case setupStore => exact .inr (.inr ⟨_, .store, rfl⟩)
  case protect =>
    simp only [runCommand, runProtect]; split_ifs
    · exact .inl rfl
    · exact .inl rfl
    · exact .inl rfl
    · exact .inr (.inr ⟨_, .protect _, rfl⟩)
  case sectorErase =>
    simp only [runCommand, runSectorErase]; split_ifs
    · exact .inl rfl
    · exact .inl rfl
    · exact .inl rfl
    · exact .inl rfl
    · exact .inl rfl
    · exact .inr (.inr ⟨_, .job _, rfl⟩)
  case arrayClear =>
    simp only [runCommand, runArrayClear]; split_ifs
    · exact .inl rfl
    · exact .inr (.inr ⟨_, .clear (by simpa [SetupCommand.allowedIn] using hc), rfl⟩)

/-- An answer changes the setup port at most. -/
theorem answer_eq (sel : Selection) (r : Reply) (s : State) : ∃ x, answer sel r s = s.setSetup x := by
  unfold answer; split_ifs
  · exact ⟨_, rfl⟩
  · exact ⟨s.setup, rfl⟩

/-- A frame's execution is refused, or it is a setup command that the mode allows; either way the setup port may change. -/
theorem executeFrame_cases (f : SetupFrame) (sel : Selection) (s : State) :
    (∃ x, executeFrame f sel s = s.setSetup x)
      ∨ ∃ (c : SetupCommand) (x : SetupPort), c.allowedIn s.mc.mode = true
        ∧ executeFrame f sel s = (runCommand c f.payload s).2.setSetup x := by
  unfold executeFrame; split_ifs
  · exact .inl (answer_eq _ _ _)
  · exact .inl (answer_eq _ _ _)
  · split
    · exact .inl (answer_eq _ _ _)
    · next c _ =>
      unfold executeCommand; split_ifs with hb hmode
      · exact .inl ⟨s.setup, rfl⟩
      · exact .inl (answer_eq _ _ _)
      · exact .inl (answer_eq _ _ _)
      · obtain ⟨x, hx⟩ := answer_eq sel (runCommand c f.payload s).1 (runCommand c f.payload s).2
        exact .inr ⟨c, x, by simpa using hmode, hx⟩

/-! ### Every command -/

/-- What a command does before the end of its event. -/
inductive Move (s : State) : State → Prop
  | select (p : HostPins) : Move s (selectActive p s)
  | deselect : Move s (selectInactive s)
  | flushLevel (high : Bool) : Move s (takeFlushLevel high s)
  | gap (d : Nat) : Move s (gapTimeoutTaken (elapse d s))
  | stall (d : Nat) : Move s (stallExpiryTaken (elapse d s))
  | pass (d : Nat) : Move s (elapse d s)
  | wordEnd (k : OpKind) (pass : Bool) (w : Word) : Move s (reportEnd k pass w s)
  | eraseEnd (pass : Bool) : Move s (reportEraseEnd pass s)
  | acknowledged : Move s (reportAcknowledgement s)
  | opTimeout (d : Nat) : Move s (operationTimeoutTaken (elapse d s))
  | suspTimeout (l : SuspendLimit) (d : Nat) : Move s (suspendTimeoutTaken l (elapse d s))
  | innerTimeout (d : Nat) : Move s (innerTimeoutTaken (elapse d s))
  | pulse (d : Nat) : Move s (endPulse (elapse d s))
  | command {u : State} : CommandMove s u → Move s u

/-- The setup port and the status stream as a command may leave them, with no other change than the removal of a fault
record. -/
def State.OnlyLines (s t : State) : Prop :=
  ∃ x y, t = (s.setSetup x).setStream y ∨ t = ((s.setLog s.log.removeOldest).setSetup x).setStream y

/-- What a command's effect is outside reset: a change of the lines, or a move with the end of an event, between two
changes of the setup port. -/
def State.Acts (s t : State) : Prop :=
  s.OnlyLines t ∨ ∃ x u y, Move (s.setSetup x) u ∧ t = (finish u).setSetup y

/-- A move with the end of its event, the setup port as it is. -/
theorem Move.acts {s u : State} (h : Move s u) : s.Acts (finish u) :=
  .inr ⟨s.setup, u, (finish u).setup, h, rfl⟩

/-- A change of the setup port alone. -/
theorem acts_setSetup (s : State) (x : SetupPort) : s.Acts (s.setSetup x) := .inl ⟨x, s.stream, .inl rfl⟩

/-- A frame's execution, the setup port changed before it. -/
theorem executeFrame_acts (f : SetupFrame) (sel : Selection) (s : State) (y : SetupPort) :
    s.Acts (executeFrame f sel (s.setSetup y)) := by
  rcases executeFrame_cases f sel (s.setSetup y) with ⟨x, hx⟩ | ⟨c, x, hc, hx⟩
  · exact .inl ⟨x, s.stream, .inl (by rw [hx]; rfl)⟩
  · rcases runCommand_cases f.payload hc with he | he | ⟨u, hu, he⟩
    · exact .inl ⟨x, s.stream, .inl (by rw [hx, he]; rfl)⟩
    · exact .inl ⟨x, s.stream, .inr (by rw [hx, he]; rfl)⟩
    · exact .inr ⟨y, u, x, .command hu, by rw [hx, he]⟩

/-- A frame that completes. -/
theorem completeFrame_acts (f : SetupFrame) (s : State) : s.Acts (completeFrame f s) := by
  unfold completeFrame; split_ifs
  · exact acts_setSetup s s.setup
  · dsimp only; split_ifs
    · exact executeFrame_acts f _ s _
    · exact acts_setSetup s _
    · exact acts_setSetup s _

/-- The effect of every command. -/
theorem effect_acts (c : Instr) (s : State) : s.Acts (effect c s) := by
  have hself : s.Acts s := acts_setSetup s s.setup
  cases c <;> simp only [effect]
  case hostAccessArrival p => exact (Move.select p).acts
  case hostSelectWhileBusy p => exact (Move.select p).acts
  case hostSelectRelease => exact Move.deselect.acts
  case reset => exact hself
  case resetRelease => exact hself
  case flushLevelChange high => exact (Move.flushLevel high).acts
  case stsclkRisingEdge =>
    unfold takeEdge; split_ifs
    · exact .inl ⟨s.setup, _, .inl rfl⟩
    · exact hself
  case addressCharacter v => exact acts_setSetup s _
  case framingError =>
    unfold takeFramingError; split_ifs
    · exact hself
    · exact acts_setSetup s _
  case breakDetected => exact acts_setSetup s _
  case gapTimeout => exact (Move.gap _).acts
  case replyStart =>
    unfold startReply; split_ifs
    · exact acts_setSetup s _
    · exact hself
  case replyEnd =>
    unfold endReply; split_ifs
    · split
      · exact executeFrame_acts _ _ s _
      · exact acts_setSetup s _
    · exact hself
  case frameCharacter v =>
    unfold takeFrameCharacter; split_ifs
    · exact hself
    · exact completeFrame_acts _ s
    · exact acts_setSetup s _
  case stallLimitExpiry => exact (Move.stall _).acts
  case regionAgeLimit r => exact (Move.pass _).acts
  case arrayReadEnd w => exact (Move.wordEnd _ _ _).acts
  case arrayProgramEnd pass => exact (Move.wordEnd _ _ _).acts
  case arrayEraseEnd pass => exact (Move.eraseEnd _).acts
  case suspendAcknowledgement => exact Move.acknowledged.acts
  case operationTimeout => exact (Move.opTimeout _).acts
  case suspendTimeout l => exact (Move.suspTimeout l _).acts
  case innerOperationTimeout => exact (Move.innerTimeout _).acts
  case arstPulseEnd => exact (Move.pulse _).acts
  all_goals exact completeFrame_acts _ s

/-- What every move of the part keeps, a setup command's move keeps. -/
theorem Events.commandMove {P : State → Prop} (h : Events P) {s u : State} (hs : P s) (hu : CommandMove s u) : P u := by
  cases hu
  case markAll => exact h.markAll hs
  case markRegion r => exact h.mark r s hs
  case purge r _ => exact h.purgeRegion hs r
  case hold => exact h.refuseStalled (h.markAll (h.mc _ _ hs))
  case release => exact h.mc _ _ hs
  case load im _ _ _ => exact h.image im s hs
  case store => exact h.setUpdatePending hs
  case protect p => exact h.setUpdatePending (h.map _ _ hs)
  case job x => exact h.engine _ _ hs
  case clear => exact h.mc _ _ hs

/-- What every move of the part keeps, a command's move keeps. -/
theorem Events.move {P : State → Prop} (h : Events P) {s u : State} (hs : P s) (hu : Move s u) : P u := by
  cases hu
  case select p =>
    unfold selectActive; split
    · exact h.arrive hs p
    · exact h.host _ _ hs
  case deselect => unfold selectInactive; split <;> exact h.host _ _ hs
  case flushLevel high =>
    unfold takeFlushLevel; dsimp only; split_ifs
    · exact h.markAll (h.mc _ _ hs)
    · exact h.mc _ _ hs
  case gap d => exact h.gapTimeoutTaken (h.elapse _ _ hs)
  case stall d => exact h.stallExpiryTaken (h.elapse _ _ hs)
  case pass d => exact h.elapse _ _ hs
  case wordEnd k pass w => exact h.reportEnd hs k pass w
  case eraseEnd pass => exact h.reportEraseEnd hs pass
  case acknowledged => exact h.reportAcknowledgement hs
  case opTimeout d => exact h.operationTimeoutTaken (h.elapse _ _ hs)
  case suspTimeout l d => exact h.suspendTimeoutTaken (h.elapse _ _ hs) l
  case innerTimeout d => exact h.innerTimeoutTaken (h.elapse _ _ hs)
  case pulse d => exact h.endPulse (h.elapse _ _ hs)
  case command hc => exact h.commandMove hs hc

/-- A law of the part that no change of the lines, of the waiting commands or of the outputs touches, and that the moves,
the limits of a tick, the end of an event, the release of RST# and RESET keep, is kept by every step. -/
theorem step_keeps_of_moves {P : State → Prop}
    (lines : ∀ s x, P s → P (s.setSetup x)) (streams : ∀ s x, P s → P (s.setStream x))
    (logs : ∀ s x, P s → P (s.setLog x)) (pends : ∀ s q, P s → P (s.setPending q))
    (outputs : ∀ s, P s → P (refresh s)) (moves : ∀ s u, Move s u → s.inReset = false → P s → P u)
    (finishes : ∀ s, s.inReset = false → P s → P (finish s))
    (limits : ∀ s, s.inReset = false → P s → P (takeLimits (elapse 1 s)))
    (asleep : ∀ c s, s.inReset = true → P s → P (effectInReset c s)) (reset : ∀ s, P s → P (resetPart s))
    (wakes : ∀ s pins, s.inReset = true → P s → P (beginStartUp pins s)) {s t : State} (hs : P s)
    (ht : step s = .next t) : P t := by
  have hmove : ∀ {u v : State}, Move u v → u.inReset = false → v.inReset = false := fun {u _} hv hr =>
    ((events_pending_inReset u.pending false).move ⟨rfl, hr⟩ hv).2
  rcases step_cases ht with ⟨-, rfl⟩ | ⟨c, rest, -, he⟩
  · unfold tick; split_ifs with hr
    · exact hs
    · have hr' : s.inReset = false := by simpa using hr
      refine outputs _ (finishes _ ?_ (limits _ hr' hs))
      exact ((events_pending_inReset s.pending false).takeLimits (s := elapse 1 s) ⟨rfl, hr'⟩).2
  · have hq := pends s rest hs
    generalize s.setPending rest = u at hq he
    obtain ⟨v, hv, hcases⟩ := exec_cases c u
    obtain rfl : t = v := by rw [he] at hv; exact Host.Outcome.next.inj hv
    rcases hcases with ⟨hr, -, rfl | rfl⟩ | ⟨hr, rfl⟩ | rfl | ⟨hr, pins, rfl⟩
    · exact hq
    · refine outputs _ ?_
      rcases effect_acts c u with ⟨x, y, hxy | hxy⟩ | ⟨x, v, y, hv, hxy⟩ <;> rw [hxy]
      · exact streams _ _ (lines _ _ hq)
      · exact streams _ _ (lines _ _ (logs _ _ hq))
      · exact lines _ _ (finishes _ (hmove hv hr) (moves _ _ hv hr (lines _ _ hq)))
    · exact asleep _ _ hr hq
    · exact reset _ hq
    · exact outputs _ (finishes _ (beginStartUp_pending_inReset pins u).2 (wakes _ _ hr hq))

end Sys2Proof.Machine

/-! Settles the array port's half of O14: a part whose array is not lost keeps it so by every move but a second timeout in
a row; a lost one only answers its host and its setup line. -/

namespace Sys2Proof.Machine

/-! ### The two ways in which the port's laws hold -/

/-- The array is not lost: the port runs under its laws, with at most one timeout behind it (R106). -/
def State.Live (s : State) : Prop :=
  s.port.Lawful ∧ s.port.state ≠ .stopped ∧ s.mc.mode ≠ .offline ∧ s.port.consecutive ≤ 1

/-- The array is lost: the port is STOPPED and the mode OFFLINE, after two timeouts in a row (R107, R167). -/
def State.Lost (s : State) : Prop :=
  s.port.Lawful ∧ s.port.state = .stopped ∧ s.mc.mode = .offline ∧ s.port.consecutive = 2

/-- The port's laws hold just when the array is live or lost. -/
theorem State.portLawful_iff (s : State) : s.PortLawful ↔ s.Live ∨ s.Lost := by
  constructor
  · rintro ⟨hl, hiff, htwo, hone⟩
    by_cases hs : s.port.state = .stopped
    · exact .inr ⟨hl, hs, hiff.mpr hs, htwo hs⟩
    · exact .inl ⟨hl, hs, fun hm => hs (hiff.mp hm), hone hs⟩
  · rintro (⟨hl, hs, hm, hc⟩ | ⟨hl, hs, hm, hc⟩)
    · exact ⟨hl, ⟨fun h => absurd h hm, fun h => absurd h hs⟩, fun h => absurd h hs, fun _ => hc⟩
    · exact ⟨hl, ⟨fun _ => hs, fun _ => hm⟩, fun _ => hc, fun h => absurd hs h⟩

/-! ### The live array -/

/-- Every move of the blocks and of the array's reports leaves the array live. -/
theorem ends_live : Ends State.Live :=
  { engine := fun _ _ h => h, reading := fun _ h => h
    port := fun s x hx hc _ hl ⟨h1, h2, h3, h4⟩ => ⟨hl h1, fun he => h2 (hx.mp he), h3, hc.trans h4⟩
    host := fun _ _ h => h, reader := fun _ _ h => h, direct := fun _ _ h => h, stall := fun _ _ h => h
    report := fun _ _ h => h, coalesce := fun _ _ _ _ _ h => h, append := fun _ _ _ _ _ _ h => h
    keep := fun _ _ _ h => h
    mark := fun r s h => by obtain ⟨q, hq⟩ := markRegion_queues r s; rw [hq]; exact h
    gather := fun _ _ _ h => h, map := fun _ _ h => h, cru := fun _ _ h => h
    control := fun s x hx ⟨h1, h2, h3, h4⟩ => ⟨h1, h2, by simpa [hx] using h3, h4⟩
    held := fun _ ⟨h1, h2, _, h4⟩ => ⟨h1, h2, by simp, h4⟩
    flash := fun _ _ _ h => h, startup := fun _ _ h => h, install := fun _ _ _ ⟨h1, h2, _, h4⟩ => ⟨h1, h2, by simp [install], h4⟩ }

/-- A change of mode other than array loss leaves the array live. -/
theorem State.Live.setMc {s : State} (h : s.Live) (x : ModeControl) (hx : x.mode ≠ .offline) : (s.setMc x).Live :=
  ⟨h.1, h.2.1, hx, h.2.2.2⟩

/-- The passing of time leaves the port's laws (R93). -/
theorem ArrayPort.Lawful.passes {p : ArrayPort} (h : p.Lawful) (d : Nat) : (p.passes d).Lawful := by
  obtain ⟨h1, h2, h3, h4⟩ := h
  refine ⟨h1, h2, fun hs => ?_, fun hs => ?_⟩
  · simp only [ArrayPort.passes] at hs ⊢
    rw [h3 hs]; simp
  · simp only [ArrayPort.passes] at hs ⊢
    rw [h4 hs]; rfl

/-- The passing of time leaves the array live. -/
theorem State.Live.elapse {s : State} (h : s.Live) (d : Nat) : (elapse d s).Live :=
  ⟨h.1.passes d, h.2.1, h.2.2.1, h.2.2.2⟩

/-- An array port held in reset by array loss (R107). -/
def ArrayPort.lost (p : ArrayPort) : ArrayPort :=
  { p with state := .stopped, op := none, inner := none, hostClaim := none, engClaim := none, direct := none
           arst := .held, ackTimer := 0, arstTimer := 0, suspCount := 0 }

theorem ArrayPort.lost_lawful (p : ArrayPort) : p.lost.Lawful :=
  ⟨by simp [ArrayPort.lost], by simp [ArrayPort.lost], by simp [ArrayPort.lost], fun _ => rfl⟩

/-- The completion of a held access by array loss changes the host port alone. -/
theorem failHeldAccess_eq (s : State) : ∃ x, failHeldAccess s = s.setHost x := by
  unfold failHeldAccess; split
  · split_ifs
    · exact completeAccess_eq _ _ s
    · exact completeAccess_eq _ _ s
  · exact ⟨s.host, rfl⟩

/-- The entry into OFFLINE stops the port and sets the mode (R107, R167). -/
theorem enterOffline_port_mode (s : State) :
    (enterOffline s).port = s.port.lost ∧ (enterOffline s).mc = { s.mc with mode := .offline } := by
  unfold enterOffline; dsimp only
  generalize hu : State.setMc _ _ = u
  obtain ⟨x, hx⟩ := failHeldAccess_eq u
  rw [hx, ← hu]
  split_ifs <;> exact ⟨rfl, rfl⟩

/-- A timeout of a live array leaves it live, or loses it (R106). -/
theorem timeout_live {s : State} (h : s.Live) (x : FaultReason) (p : Nat) {f : State → State}
    (hf : ∀ t, t.Live → (f t).Live) : (timeout x p f s).Live ∨ (timeout x p f s).Lost := by
  obtain ⟨hl, hs, hm, hc⟩ := h
  rcases Nat.le_one_iff_eq_zero_or_eq_one.mp hc with h0 | h1
  · rw [timeout_first _ _ _ h0]
    refine .inl (hf _ ⟨?_, by simp [freePort], hm, le_rfl⟩)
    exact ⟨hl.1, hl.2.1, fun _ => rfl, fun _ => rfl⟩
  · rw [timeout_second _ _ _ h1]
    dsimp only
    generalize hu : report _ _ = u
    obtain ⟨hport, hmc⟩ := enterOffline_port_mode u
    refine .inr ⟨by rw [hport]; exact u.port.lost_lawful, by rw [hport]; rfl, by rw [hmc], ?_⟩
    rw [hport, ← hu]; rfl

/-- The timeouts of a live array. -/
theorem operationTimeoutTaken_live {s : State} (h : s.Live) :
    (operationTimeoutTaken s).Live ∨ (operationTimeoutTaken s).Lost := by
  unfold operationTimeoutTaken; split_ifs
  · split
    · exact timeout_live h _ _ fun t ht => ends_live.issuerTimeout ht _
    · exact .inl h
  · exact .inl h

theorem suspendTimeoutTaken_live {s : State} (h : s.Live) (l : SuspendLimit) :
    (suspendTimeoutTaken l s).Live ∨ (suspendTimeoutTaken l s).Lost := by
  unfold suspendTimeoutTaken; split_ifs
  · split
    · exact timeout_live h _ _ fun t ht => ends_live.issuerTimeout ht _
    · exact .inl h
  · exact .inl h

theorem innerTimeoutTaken_live {s : State} (h : s.Live) : (innerTimeoutTaken s).Live ∨ (innerTimeoutTaken s).Lost := by
  unfold innerTimeoutTaken; split_ifs
  · split
    · exact timeout_live h _ _ fun t ht => ends_live.issuerTimeout (ends_live.issuerTimeout ht _) _
    · exact .inl h
  · exact .inl h

theorem takePortLimit_live {s : State} (h : s.Live) : (takePortLimit s).Live ∨ (takePortLimit s).Lost := by
  rcases takePortLimit_cases s with he | he | ⟨l, he⟩ | he <;> rw [he]
  · exact .inl h
  · exact operationTimeoutTaken_live h
  · exact suspendTimeoutTaken_live h l
  · exact innerTimeoutTaken_live h

/-- The moves of a live array. -/
theorem commandMove_live {s u : State} (h : s.Live) (hu : CommandMove s u) : u.Live := by
  cases hu
  case markAll => exact ends_live.markAll h
  case markRegion r => exact ends_live.mark r s h
  case purge r _ => exact ends_live.purgeRegion h r
  case hold => exact ends_live.refuseStalled (ends_live.markAll (h.setMc _ (by simp)))
  case release => exact h.setMc _ (by simp)
  case load => exact h
  case store => exact h
  case protect => exact h
  case job => exact h
  case clear => exact h.setMc _ (by simp)

theorem move_live {s u : State} (h : s.Live) (hu : Move s u) : u.Live ∨ u.Lost := by
  cases hu
  case select p =>
    unfold selectActive; split
    · exact .inl (ends_live.arrive h p)
    · exact .inl h
  case deselect => unfold selectInactive; split <;> exact .inl h
  case flushLevel high =>
    have hflush : (s.setMc { s.mc with flushHigh := high }).Live := h.setMc _ h.2.2.1
    unfold takeFlushLevel; dsimp only; split_ifs
    · exact .inl (ends_live.markAll hflush)
    · exact .inl hflush
  case gap d => unfold gapTimeoutTaken; split_ifs <;> exact .inl (h.elapse d)
  case stall d => exact .inl (ends_live.stallExpiryTaken (h.elapse d))
  case pass d => exact .inl (h.elapse d)
  case wordEnd k pass w => exact .inl (ends_live.reportEnd h k pass w)
  case eraseEnd pass => exact .inl (ends_live.reportEraseEnd h pass)
  case acknowledged => exact .inl (ends_live.reportAcknowledgement h)
  case opTimeout d => exact operationTimeoutTaken_live (h.elapse d)
  case suspTimeout l d => exact suspendTimeoutTaken_live (h.elapse d) l
  case innerTimeout d => exact innerTimeoutTaken_live (h.elapse d)
  case pulse d => exact .inl (ends_live.endPulse (h.elapse d))
  case command hc => exact .inl (commandMove_live h hc)

/-! ### The lost array -/

/-- A refused write changes the log and the host port. -/
theorem refuseWrite_eq (x : FaultReason) (r : Option Nat) (a : HostAddr) (s : State) :
    ∃ l p, refuseWrite x r a s = (s.setLog l).setHost p := by
  obtain ⟨p, hp⟩ := completeAccess_eq true none (report (refusal x r a) s)
  exact ⟨_, p, hp⟩

/-- In OFFLINE an arrival changes the log and the host port (R10, R12). -/
theorem arrive_offline {s : State} (h : s.mc.mode = .offline) (p : HostPins) :
    ∃ l x, arrive p s = (s.setLog l).setHost x := by
  have hfail : ∀ u : State, ∃ l x, failRead u = (u.setLog l).setHost x := fun u => by
    obtain ⟨x, hx⟩ := completeAccess_eq true (some 0xFFFF) u
    exact ⟨u.log, x, hx⟩
  have hclassify : ∀ u : State, u.mc.mode = .offline → ∃ l x, classify p u = (u.setLog l).setHost x := fun u hu => by
    unfold classify; split_ifs
    · exact refuseWrite_eq _ _ _ u
    · exact hfail u
    · rw [classifyInside, if_pos hu, refuseSilently]
      split_ifs
      · obtain ⟨x, hx⟩ := completeAccess_eq true none u
        exact ⟨u.log, x, hx⟩
      · exact hfail u
  unfold arrive; dsimp only
  rw [if_neg (by simp [h])]
  generalize hv : s.setHost _ = v
  obtain ⟨l, x, hx⟩ := hclassify v (by rw [← hv]; exact h)
  exact ⟨l, x, by rw [hx, ← hv]; rfl⟩

/-- In OFFLINE the end of an event has nothing to do but for a select that waits. -/
theorem settle_offline {s : State} (hm : s.mc.mode = .offline) (hp : s.port.state = .stopped) : settle s = s := by
  have hwork : s.hasWork = false := by simp [State.hasWork, State.maySelect, hm]
  have hdrain : drain s = s := if_neg (by simp [hm])
  rw [settle, hdrain, selectItems_of_none (selectOnce_eq_none hwork), grant, if_neg (by simp [hp])]

/-- In OFFLINE the end of an event changes the log and the host port. -/
theorem finish_offline {s : State} (hm : s.mc.mode = .offline) (hp : s.port.state = .stopped) :
    ∃ l x, finish s = (s.setLog l).setHost x := by
  unfold finish; dsimp only
  rw [settle_offline hm hp]
  split_ifs with hc
  · obtain ⟨l, x, hx⟩ := arrive_offline hm s.host.pins
    refine ⟨l, x, ?_⟩
    rw [takeReselect, if_pos hc, hx]
    exact settle_offline hm hp
  · exact ⟨s.log, s.host, rfl⟩

theorem finish_lost {s : State} (h : s.Lost) : (finish s).Lost := by
  obtain ⟨l, x, hx⟩ := finish_offline h.2.2.1 h.2.1
  rw [hx]; exact h

/-- Marks change the queues alone. -/
theorem markAll_eq (s : State) : ∃ q, markAll s = s.setQueues q := by
  unfold markAll
  generalize List.range s.queues.length = l
  induction l generalizing s with
  | nil => exact ⟨s.queues, rfl⟩
  | cons r t ih =>
    obtain ⟨q, hq⟩ := markRegion_queues r s
    obtain ⟨q', hq'⟩ := ih (s.setQueues q)
    exact ⟨q', by rw [List.foldl_cons, hq, hq']; rfl⟩

/-- The stall limit changes the stalled write, the log and the host port. -/
theorem stallExpiryTaken_eq (s : State) : ∃ w l p, stallExpiryTaken s = ((s.setStall w).setLog l).setHost p := by
  unfold stallExpiryTaken; split
  · next w _ =>
    obtain ⟨p, hp⟩ := completeAccess_eq true none
      (report { kind := .writeDropped, region := some w.region, addr := some w.addr } (s.setStall none))
    exact ⟨none, _, p, hp⟩
  · exact ⟨s.stall, s.log, s.host, rfl⟩

/-- AREADY after a pulse moves the port and the read assembler; with no erase running the port is not suspended. -/
theorem endPulse_stopped {s : State} (h : s.port.state = .stopped) :
    (endPulse s).mc = s.mc ∧ (endPulse s).port.state = .stopped ∧ (endPulse s).port.consecutive = s.port.consecutive := by
  have hread : ∀ (x : RunningOp) (u : State), (readIssued x u).port = u.port ∧ (readIssued x u).mc = u.mc := by
    intro x u
    unfold readIssued; split_ifs <;> exact ⟨rfl, rfl⟩
  have hsuspend : ∀ u : State, u.port.state = .stopped → considerSuspend u = u := by
    intro u hu
    rw [considerSuspend, if_neg (by simp [State.eraseRunning, hu])]
  unfold endPulse; split_ifs
  · dsimp only
    split
    · split_ifs
      · exact ⟨rfl, h, rfl⟩
      · rw [hsuspend _ (by rw [(hread _ _).1]; exact h), (hread _ _).1, (hread _ _).2]
        exact ⟨rfl, h, rfl⟩
    · exact ⟨rfl, h, rfl⟩
  · exact ⟨rfl, h, rfl⟩

/-- The port's laws alone, which every move of the part keeps. -/
theorem events_portLawful : Events fun s => s.port.Lawful :=
  { engine := fun _ _ h => h, reading := fun _ h => h, port := fun _ _ _ _ _ hl h => hl h
    host := fun _ _ h => h, reader := fun _ _ h => h, direct := fun _ _ h => h, stall := fun _ _ h => h
    report := fun _ _ h => h, coalesce := fun _ _ _ _ _ h => h, append := fun _ _ _ _ _ _ h => h
    keep := fun _ _ _ h => h
    mark := fun r s h => by obtain ⟨q, hq⟩ := markRegion_queues r s; rw [hq]; exact h
    gather := fun _ _ _ h => h, map := fun _ _ h => h, cru := fun _ _ h => h, control := fun _ _ _ h => h
    held := fun _ h => h, flash := fun _ _ _ h => h, startup := fun _ _ h => h, install := fun _ _ _ h => h
    elapse := fun d _ h => h.passes d, setup := fun _ _ h => h, stream := fun _ _ h => h, mc := fun _ _ h => h
    image := fun _ _ h => h, rise := fun _ h => h, lost := fun _ _ hl h => hl h }

/-- The moves of a lost array: the port and the mode stay. -/
theorem move_lost {s u : State} (h : s.Lost) (hu : Move s u) : u.Lost := by
  have hlawful := events_portLawful.move h.1 hu
  obtain ⟨-, hs, hm, hc⟩ := h
  refine ⟨hlawful, ?_⟩
  have hpass : ∀ d, (elapse d s).port.state = .stopped := fun _ => hs
  cases hu
  case select p =>
    unfold selectActive; split
    · obtain ⟨l, x, hx⟩ := arrive_offline hm p
      rw [hx]; exact ⟨hs, hm, hc⟩
    · exact ⟨hs, hm, hc⟩
  case deselect => unfold selectInactive; split <;> exact ⟨hs, hm, hc⟩
  case flushLevel high =>
    unfold takeFlushLevel; dsimp only; split_ifs
    · obtain ⟨q, hq⟩ := markAll_eq (s.setMc { s.mc with flushHigh := high })
      rw [hq]; exact ⟨hs, hm, hc⟩
    · exact ⟨hs, hm, hc⟩
  case gap d => unfold gapTimeoutTaken; split_ifs <;> exact ⟨hs, hm, hc⟩
  case stall d =>
    obtain ⟨w, l, p, hw⟩ := stallExpiryTaken_eq (elapse d s)
    rw [hw]; exact ⟨hs, hm, hc⟩
  case pass d => exact ⟨hs, hm, hc⟩
  case wordEnd k pass w => unfold reportEnd; rw [hs]; exact ⟨hs, hm, hc⟩
  case eraseEnd pass => rw [reportEraseEnd, if_neg (by simp [hs])]; exact ⟨hs, hm, hc⟩
  case acknowledged => rw [reportAcknowledgement, if_neg (by simp [hs])]; exact ⟨hs, hm, hc⟩
  case opTimeout d => rw [operationTimeoutTaken, if_neg (by simp [hpass])]; exact ⟨hs, hm, hc⟩
  case suspTimeout l d => unfold suspendTimeoutTaken; rw [if_neg (by simp [hpass])]; exact ⟨hs, hm, hc⟩
  case innerTimeout d => rw [innerTimeoutTaken, if_neg (by simp [hpass])]; exact ⟨hs, hm, hc⟩
  case pulse d =>
    obtain ⟨hmc, hst, hco⟩ := endPulse_stopped (hpass d)
    exact ⟨hst, by rw [hmc]; exact hm, by rw [hco]; exact hc⟩
  case command hcmd =>
    cases hcmd
    case markAll => obtain ⟨q, hq⟩ := markAll_eq s; rw [hq]; exact ⟨hs, hm, hc⟩
    case markRegion r => obtain ⟨q, hq⟩ := markRegion_queues r s; rw [hq]; exact ⟨hs, hm, hc⟩
    case purge r hrun => simp [hm] at hrun
    case hold hrun => simp [hm] at hrun
    case release hheld => simp [hm] at hheld
    case load im p hheld _ => simp [hm] at hheld
    case store => exact ⟨hs, hm, hc⟩
    case protect p => exact ⟨hs, hm, hc⟩
    case job x => exact ⟨hs, hm, hc⟩
    case clear hheld => simp [hm] at hheld

/-- The stall and gap limits leave a live array live and a lost one lost. -/
theorem takeStallGap_keeps {s : State} (h : s.Live ∨ s.Lost) :
    (takeGapLimit (takeStallLimit s)).Live ∨ (takeGapLimit (takeStallLimit s)).Lost := by
  have hstall : (takeStallLimit s).Live ∨ (takeStallLimit s).Lost := by
    unfold takeStallLimit; split_ifs
    · obtain ⟨w, l, p, hw⟩ := stallExpiryTaken_eq s
      rw [hw]; exact h
    · exact h
  rcases takeGapLimit_cases (takeStallLimit s) with he | he <;> rw [he] <;> exact hstall

/-- The limits that a tick reaches. -/
theorem takeLimits_keeps {s : State} (h : s.Live ∨ s.Lost) : (takeLimits s).Live ∨ (takeLimits s).Lost := by
  rw [takeLimits_eq]
  refine takeStallGap_keeps ?_
  rcases h with h | h
  · exact takePortLimit_live h
  · have hport : takePortLimit s = s := by
      unfold takePortLimit
      simp [h.2.1]
    rw [hport]; exact .inr h

/-- The release of RST# moves the port's ARST# and its claim only. -/
theorem beginStartUp_keeps {s : State} (h : s.Live ∨ s.Lost) (pins : ReleasePins) :
    (beginStartUp pins s).Live ∨ (beginStartUp pins s).Lost := by
  have hclaim : (copyRead .a 0).issuer.ofHost = false := rfl
  unfold beginStartUp; dsimp only
  generalize hu : claimCopyRead _ _ = u
  have hlaws : u.Live ∨ u.Lost := by
    rw [← hu]
    rcases h with ⟨⟨h1, -, h3, h4⟩, hrest⟩ | ⟨⟨h1, -, h3, h4⟩, hrest⟩
    · exact .inl ⟨⟨h1, fun o ho => by cases ho; exact hclaim, h3, h4⟩, hrest⟩
    · exact .inr ⟨⟨h1, fun o ho => by cases ho; exact hclaim, h3, h4⟩, hrest⟩
  split_ifs
  · rcases hlaws with hl | hl
    · exact .inl (ends_live.arrive hl _)
    · obtain ⟨l, x, hx⟩ := arrive_offline hl.2.2.1 u.host.pins
      rw [hx]; exact .inr hl
  · exact hlaws

/-- The port's laws, with those of array loss, are kept by every step (R93, R106, R107, R167). -/
theorem step_keeps_portLawful {s t : State} (hs : s.PortLawful) (ht : step s = .next t) : t.PortLawful := by
  simp only [State.portLawful_iff] at hs ⊢
  refine step_keeps_of_moves (P := fun s => s.Live ∨ s.Lost) (fun _ _ h => h) (fun _ _ h => h) (fun _ _ h => h)
    (fun _ _ h => h) (fun _ h => h) (fun s u hu _ h => ?_) (fun s _ h => ?_) (fun s _ h => ?_) (fun c s _ h => ?_)
    (fun _ _ => .inl ?_) (fun s pins _ h => beginStartUp_keeps h pins) hs ht
  · rcases h with h | h
    · exact move_live h hu
    · exact .inr (move_lost h hu)
  · rcases h with h | h
    · exact .inl (ends_live.finish h)
    · exact .inr (finish_lost h)
  · refine takeLimits_keeps ?_
    rcases h with h | h
    · exact .inl (h.elapse 1)
    · exact .inr ⟨h.1.passes 1, h.2⟩
  · unfold effectInReset; split <;> exact h
  · obtain ⟨-, -, -, -, -, hport, -⟩ := resetMeetsTheLaws
    exact (State.reset.portLawful_iff.mp hport).resolve_right fun hl => by simp [State.Lost, State.reset] at hl

end Sys2Proof.Machine

/-! Settles O14. The read assembler moves at five places: an issue of its READ, a read taken or held, a read's end and
array loss. What those moves keep, and every move elsewhere, every operation keeps. -/

namespace Sys2Proof.Machine

/-- `P` is kept by every move outside the read assembler, and by the assembler's own: a READ that was waited for is issued
(R51), and an access is taken or given up with the state (R48). -/
structure ReadMoves (P : State → Prop) : Prop where
  other   : ∀ {s t}, P s → t.reader = s.reader → P t
  reading : ∀ {s}, s.reader.state = .portWait → P s → P (s.setReader { s.reader with state := .reading })
  taken   : ∀ {s x}, P s → (x.state = .idle ↔ x.access = none) → P (s.setReader x)

namespace ReadMoves

variable {P : State → Prop} (h : ReadMoves P) {s : State} (hs : P s)
include h hs

/-! ### Claims and the host path -/

theorem host (x : HostPort) : P (s.setHost x) := h.other hs rfl
theorem engine (x : Engine) : P (s.setEngine x) := h.other hs rfl
theorem port (x : ArrayPort) : P (s.setPort x) := h.other hs rfl
theorem stall (x : Option StalledWrite) : P (s.setStall x) := h.other hs rfl
theorem map (x : SectorMap) : P (s.setMap x) := h.other hs rfl
theorem mc (x : ModeControl) : P (s.setMc x) := h.other hs rfl
theorem flash (x : FlashBank) : P (s.setFlash x) := h.other hs rfl
theorem report (f : FaultReport) : P (report f s) := h.other hs rfl
theorem coalesce (r : Nat) (a : HostAddr) (m : LaneMask) (d : Word) : P (coalesce r a m d s) := h.other hs rfl
theorem appendEntry (r : Nat) (a : HostAddr) (m : LaneMask) (d : Word) : P (appendEntry r a m d s) := h.other hs rfl
theorem keepEntries (r : Nat) (g : Entry → Bool) : P (keepEntries r g s) := h.other hs rfl

theorem elapse (d : Nat) : P (elapse d s) := h.other hs rfl

theorem countAttempt (o : ArrayOp) : P (countAttempt o s) := by unfold Machine.countAttempt; split <;> exact h.other hs rfl

/-- A READ that is issued was waited for with an access in hand (R51). -/
theorem readIssued (x : RunningOp) : P (readIssued x s) := by
  unfold Machine.readIssued; split_ifs with hc
  · exact h.reading (by simp_all) (h.other hs rfl)
  · exact h.other hs rfl

theorem issueOp (o : ArrayOp) : P (issueOp o s) := 
  h.readIssued (h.port (h.countAttempt hs o) _) _

theorem grant : P (grant s) := by
  unfold Machine.grant; split_ifs
  · split
    · exact h.issueOp hs _
    · split
      · exact h.issueOp hs _
      · exact h.other hs rfl
  · exact h.other hs rfl

theorem considerSuspend : P (considerSuspend s) := by unfold Machine.considerSuspend; split_ifs <;> exact h.other hs rfl

theorem raiseHostClaim (o : ArrayOp) : P (raiseHostClaim o s) :=
  h.considerSuspend (h.grant (h.other hs rfl))

theorem completeAccess (e : Bool) (d : Option Word) : P (completeAccess e d s) := by
  obtain ⟨x, hx⟩ := completeAccess_eq e d s
  rw [hx]; exact h.other hs rfl

theorem claimRead (x : ReadAccess) : P (claimRead x s) := 
  h.raiseHostClaim (h.taken hs (by simp)) _

theorem endRead (e : Bool) (w : Word) : P (endRead e w s) :=
  h.completeAccess (h.taken hs (by simp)) _ _

theorem takeRead (x : ReadAccess) : P (takeRead x s) := by
  unfold Machine.takeRead; split_ifs
  · exact h.taken hs (by simp)
  · exact h.endRead hs _ _
  · exact h.claimRead hs x

theorem stagedWrite (r : Nat) (a : HostAddr) (m : LaneMask) (d : Word) : P (stagedWrite r a m d s) := by
  unfold Machine.stagedWrite; split_ifs
  · exact h.completeAccess (h.coalesce hs _ _ _ _) _ _
  · exact h.completeAccess (h.appendEntry hs _ _ _ _) _ _
  · exact h.other hs rfl

theorem claimDirect (d : DirectWrite) : P (claimDirect d s) := h.raiseHostClaim (h.port hs _) _

theorem directWrite (r : Nat) (a : HostAddr) (p : Nat) (m : LaneMask) (d : Word) :
    P (directWrite r a p m d s) := by
  unfold Machine.directWrite; dsimp only; split_ifs
  · exact h.other hs rfl
  · exact h.claimDirect hs _

theorem endDirect (e : Bool) : P (endDirect e s) := h.completeAccess (h.port hs _) _ _

theorem refuseWrite (x : FaultReason) (r : Option Nat) (a : HostAddr) : P (refuseWrite x r a s) :=
  h.completeAccess (h.report hs _) _ _

theorem refuseSilently (p : HostPins) : P (refuseSilently p s) := by
  unfold Machine.refuseSilently; split_ifs <;> exact h.completeAccess hs _ _

theorem classifyWrite (p : HostPins) (r psec : Nat) : P (classifyWrite p r psec s) := by
  unfold Machine.classifyWrite; split_ifs
  · exact h.refuseWrite hs _ _ _
  · exact h.refuseWrite hs _ _ _
  all_goals split
  · exact h.completeAccess hs _ _
  · exact h.directWrite hs _ _ _ _ _
  · exact h.completeAccess hs _ _
  · exact h.stagedWrite hs _ _ _ _

theorem classify (p : HostPins) : P (classify p s) := by
  unfold Machine.classify; split_ifs
  · exact h.refuseWrite hs _ _ _
  · exact h.completeAccess hs _ _
  · unfold classifyInside; split_ifs
    · exact h.refuseSilently hs p
    · exact h.completeAccess (h.mc hs _) _ _
    · split
      · exact h.refuseSilently hs p
      · split
        · exact h.refuseSilently hs p
        · unfold classifyInRegion; split
          · split_ifs
            · exact h.refuseWrite hs _ _ _
            · exact h.completeAccess hs _ _
          · split_ifs
            · exact h.classifyWrite hs _ _ _
            · exact h.takeRead hs _

theorem arrive (p : HostPins) : P (arrive p s) := by
  unfold Machine.arrive; dsimp only; split_ifs
  · exact h.other hs rfl
  · exact h.classify (h.host hs _) p

/-! ### Queues and held accesses -/

theorem stalledMayAppend (r : Nat) : P (stalledMayAppend r s) := by
  unfold Machine.stalledMayAppend; split
  · split_ifs
    · exact h.completeAccess (h.stall (h.appendEntry hs _ _ _ _) _) _ _
    · exact h.other hs rfl
  · exact h.other hs rfl

theorem removeEntries (r : Nat) (g : Entry → Bool) : P (removeEntries r g s) :=
  h.stalledMayAppend (h.keepEntries hs _ _) r

theorem releaseHolds (x : Nat) : P (releaseHolds x s) := by
  have hread : P (releaseHeldRead x s) := by
    unfold releaseHeldRead; split
    · split_ifs
      · split
        · exact h.claimRead hs _
        · exact h.endRead hs _ _
      · exact h.other hs rfl
    · exact h.other hs rfl
  unfold Machine.releaseHolds releaseHeldWrite; split
  · split_ifs
    · split
      · exact h.claimDirect hread _
      · exact h.endDirect (h.report hread _) _
    · exact hread
  · exact hread

/-! ### The engine's items -/

theorem endJob (r : JobResult) : P (endJob r s) := h.releaseHolds (h.engine hs _) _

theorem completeClear : P (completeClear s) := h.other hs rfl
theorem setUpdatePending : P (setUpdatePending s) := h.other hs rfl

theorem endClearStep : P (endClearStep s) := by
  unfold Machine.endClearStep; dsimp only; split_ifs
  · exact h.completeClear (h.releaseHolds (h.mc (h.engine hs _) _) _)
  · exact h.releaseHolds (h.mc (h.engine hs _) _) _

theorem endRelocated (r : JobResult) : P (endRelocated r s) := by
  unfold Machine.endRelocated; split
  · exact h.other hs rfl
  · exact h.endJob hs r
  · exact h.endClearStep hs
  · exact h.other hs rfl

theorem markOldSpare (o : Option RemapEntry) : P (markOldSpare o s) := by
  unfold Machine.markOldSpare; split <;> exact h.other hs rfl

theorem remapTo (i : Nat) : P (remapTo i s) :=
  h.endRelocated (h.setUpdatePending (h.markOldSpare (h.report (h.map hs _) _) _)) _

theorem stalledAfterRetirement (r x : Nat) : P (stalledAfterRetirement r x s) := by
  unfold Machine.stalledAfterRetirement; split
  · split_ifs
    · exact h.refuseWrite (h.stall hs _) _ _ _
    · exact h.stalledMayAppend hs r
  · exact h.other hs rfl

theorem retireSector : P (retireSector s) :=
  h.endRelocated (h.stalledAfterRetirement (h.setUpdatePending (h.markOldSpare (h.report (h.keepEntries (h.map hs _) _ _) _) _)) _ _) _

theorem trySpare : P (trySpare s) := by
  unfold Machine.trySpare; split
  · exact h.other hs rfl
  · exact h.retireSector hs

theorem enterRelocate : P (enterRelocate s) := by
  unfold Machine.enterRelocate; dsimp only; split_ifs
  · exact h.trySpare (h.other hs rfl)
  · exact h.endRelocated (h.report (h.engine hs _) _) _

theorem spareFails : P (spareFails s) := h.trySpare (h.other hs rfl)

theorem writeImage (o : Nat) : P (writeImage o s) := by
  unfold Machine.writeImage; split
  · exact h.other hs rfl
  · split_ifs
    · exact h.remapTo hs _
    · exact h.other hs rfl

theorem programChanged (o : Nat) : P (programChanged o s) := by
  unfold Machine.programChanged; split <;> exact h.other hs rfl

theorem releaseGathered (g : GatheredEntry) : P (releaseGathered g s) :=
  h.removeEntries (h.engine hs _) _ _

theorem programGathered (gs : List GatheredEntry) : P (programGathered gs s) := by
  induction gs generalizing s with
  | nil => exact h.other hs rfl
  | cons g t ih =>
    unfold Machine.programGathered; split_ifs
    · exact ih (h.other hs rfl)
    · exact ih (h.releaseGathered hs g)
    · exact h.other hs rfl

theorem gatherRead (w : Word) : P (gatherRead w s) := by
  unfold Machine.gatherRead; split
  · exact h.other hs rfl
  · dsimp only; split_ifs
    · exact h.other hs rfl
    · split
      · exact h.other hs rfl
      · exact h.programGathered (h.engine (h.engine hs _) _) _

theorem endOfLoad : P (endOfLoad s) := by
  have hrel : ∀ e r, P (releaseAll r (s.setEngine e)) := fun e r => h.removeEntries (h.engine hs e) r _
  unfold Machine.endOfLoad; dsimp only; split_ifs
  · exact h.enterRelocate (hrel _ _)
  · exact h.other (hrel _ _) rfl
  · exact h.programChanged (h.engine (hrel _ _) _) 0
  · exact h.other (hrel _ _) rfl

theorem endWaitingLoad : P (endWaitingLoad s) := by
  unfold Machine.endWaitingLoad; split_ifs
  · exact h.endOfLoad hs
  · exact h.other hs rfl

theorem loadRead (w : Word) : P (loadRead w s) := by
  unfold Machine.loadRead lastWordLoaded; dsimp only; split_ifs
  · exact h.other hs rfl
  · exact h.other hs rfl
  · exact h.endOfLoad (h.other hs rfl)

theorem tryFails (x : FaultReason) : P (tryFails x s) := by unfold Machine.tryFails; split_ifs <;> exact h.other hs rfl

theorem writeRecordFrom (k : Nat) : P (writeRecordFrom k s) := by
  unfold Machine.writeRecordFrom; split <;> exact h.other hs rfl

theorem engineReadEnd (w : Word) : P (engineReadEnd w s) := by
  unfold Machine.engineReadEnd; split
  · exact h.gatherRead hs w
  · exact h.loadRead hs w
  · unfold verifyRead; dsimp only; split_ifs
    · exact h.other hs rfl
    · exact h.other hs rfl
    · exact h.tryFails hs _
  · exact h.other hs rfl

theorem engineProgramPass (o : ArrayOp) : P (engineProgramPass o s) := by
  unfold Machine.engineProgramPass; split
  · split_ifs
    · split
      · exact h.programGathered (h.releaseGathered hs _) _
      · exact h.other hs rfl
    · exact h.programChanged hs _
  · exact h.writeImage hs _
  · exact h.writeImage hs _
  · exact h.writeRecordFrom hs _
  · exact h.other hs rfl

theorem engineProgramFail (o : ArrayOp) : P (engineProgramFail o s) := by
  unfold Machine.engineProgramFail; split_ifs
  · exact h.tryFails hs _
  · exact h.other hs rfl
  · unfold programExhausted; split
    · split_ifs
      · exact h.other hs rfl
      · exact h.enterRelocate hs
    · exact h.enterRelocate hs
    · exact h.spareFails hs
    · exact h.other hs rfl

theorem engineErasePass : P (engineErasePass s) := by
  unfold Machine.engineErasePass; split
  · exact h.writeImage (h.engine hs _) 0
  · split_ifs
    · exact h.writeImage hs 0
    · exact h.remapTo hs _
  · exact h.endJob hs _
  · exact h.endClearStep hs
  · exact h.writeRecordFrom hs 0
  · exact h.other hs rfl

theorem engineEraseFail (o : ArrayOp) : P (engineEraseFail o s) := by
  unfold Machine.engineEraseFail; split
  · exact h.tryFails hs _
  · split_ifs
    · exact h.other hs rfl
    · exact h.spareFails hs
  · split_ifs
    · exact h.other hs rfl
    · exact h.enterRelocate hs
  · split_ifs
    · exact h.other hs rfl
    · exact h.enterRelocate hs
  · split_ifs
    · exact h.other hs rfl
    · exact h.enterRelocate hs
  · exact h.other hs rfl

theorem engineOpEnd (o : ArrayOp) (pass : Bool) (w : Word) : P (engineOpEnd o pass w s) := by
  unfold Machine.engineOpEnd; split
  · exact h.engineReadEnd hs w
  · exact h.engineProgramPass hs o
  · exact h.engineProgramFail hs o
  · exact h.engineErasePass hs
  · exact h.engineEraseFail hs o

theorem engineOpTimeout (o : ArrayOp) : P (engineOpTimeout o s) := by
  unfold Machine.engineOpTimeout; split
  · unfold engineReadTimeout; split
    · exact h.tryFails hs _
    · exact h.other hs rfl
  · exact h.engineProgramFail hs o
  · exact h.engineEraseFail hs o

/-! ### The end of an event -/

theorem startCommit (r : Nat) : P (startCommit r s) := by
  unfold Machine.startCommit; dsimp only; split
  · exact h.other hs rfl
  · split_ifs <;> exact h.other hs rfl

theorem selectOnce {t : State} (ht : selectOnce s = some t) : P t := by
  unfold Machine.selectOnce at ht
  split_ifs at ht
  · cases ht
    unfold startUpdate; dsimp only; split_ifs <;> exact h.other hs rfl
  · cases ht
    unfold startJob; dsimp only; split_ifs
    · exact h.other hs rfl
    · exact h.endJob hs _
  · cases ht
    unfold startClearStep; dsimp only; split_ifs <;> exact h.other hs rfl
  · obtain ⟨r, -, rfl⟩ := Option.map_eq_some_iff.mp ht
    exact h.startCommit hs r

theorem selectItems (n : Nat) : P (selectItems n s) := by
  induction n generalizing s with
  | zero => exact h.other hs rfl
  | succ n ih =>
    unfold Machine.selectItems; split
    · exact ih (h.selectOnce hs ‹_›)
    · exact h.other hs rfl

theorem settle : P (settle s) := by
  have hdrain : P (drain s) := by unfold drain; split_ifs <;> exact h.other hs rfl
  exact h.grant (h.selectItems hdrain _)

theorem finish : P (finish s) := by
  unfold Machine.finish; dsimp only; split_ifs with hc
  · rw [takeReselect, if_pos hc]
    exact h.settle (h.arrive (h.settle hs) _)
  · exact h.settle hs

/-! ### Reports and timeouts -/

theorem hostReadEnd (w : Word) : P (hostReadEnd w s) := by
  unfold Machine.hostReadEnd; dsimp only; split
  · exact h.endWaitingLoad (h.endRead (h.port hs _) _ _)
  · exact h.endWaitingLoad (h.other hs rfl)

theorem directAttemptEnd (pass : Bool) : P (directAttemptEnd pass s) := by
  unfold Machine.directAttemptEnd; split
  · split_ifs
    · exact h.endDirect hs _
    · exact h.other hs rfl
    · exact h.endDirect (h.report hs _) _
  · exact h.other hs rfl

theorem foldl_report (fs : List FaultReport) : P (fs.foldl (fun t f => Machine.report f t) s) := by
  induction fs generalizing s with
  | nil => exact h.other hs rfl
  | cons f fs ih => exact ih (h.other hs rfl)

theorem endStartUp (a b : Option ControlRecord) : P (endStartUp a b s) := by
  have hrep := h.foldl_report hs (startUpReports s.straps.cfgIgnore a b)
  have hinst : P (install a b ((startUpReports s.straps.cfgIgnore a b).foldl (fun t f => Machine.report f t) s)) :=
    h.other hrep rfl
  unfold Machine.endStartUp classifyHeld; dsimp only; split
  · exact h.classify hinst _
  · exact hinst

theorem copyJudged (u : StartUp) (r : Option ControlRecord) : P (copyJudged u r s) := by
  unfold Machine.copyJudged; split
  · exact h.other hs rfl
  · exact h.endStartUp hs _ _

theorem startUpRead (w : Word) : P (startUpRead w s) := by
  unfold Machine.startUpRead; split
  · exact h.other hs rfl
  · dsimp only; split
    · exact h.other hs rfl
    · exact h.copyJudged hs _ _
    · exact h.copyJudged hs _ _

theorem issuerEnd (o : ArrayOp) (pass : Bool) (w : Word) : P (issuerEnd o pass w s) := by
  unfold Machine.issuerEnd; split
  · exact h.hostReadEnd hs w
  · exact h.directAttemptEnd hs pass
  · exact h.engineOpEnd (h.port hs _) o pass w
  · exact h.startUpRead (h.port hs _) w

theorem issuerTimeout (o : ArrayOp) : P (issuerTimeout o s) := by
  unfold Machine.issuerTimeout; split
  · exact h.endWaitingLoad (h.endRead (h.port hs _) _ _)
  · exact h.directAttemptEnd hs false
  · exact h.engineOpTimeout (h.port hs _) o
  · exact h.other hs rfl

theorem issueInner : P (issueInner s) := by
  unfold Machine.issueInner; split
  · exact h.readIssued (h.port (h.countAttempt hs _) _) _
  · exact h.other hs rfl

theorem operationEnd (x : RunningOp) (pass : Bool) (w : Word) : P (operationEnd x pass w s) :=
  h.issuerEnd (h.port (h.port (h.flash hs _) _) _) _ _ _

theorem innerEnd (x : RunningOp) (pass : Bool) (w : Word) : P (innerEnd x pass w s) := by
  have hissuer : P (Machine.issuerEnd x.op pass w (clearConsecutive (s.setFlash (s.flash.ended x.op pass w)))) :=
    h.issuerEnd (h.port (h.flash hs _) _) _ _ _
  unfold Machine.innerEnd; dsimp only; split_ifs
  · exact h.issueInner hissuer
  · exact h.other hissuer rfl

theorem reportEnd (k : OpKind) (pass : Bool) (w : Word) : P (reportEnd k pass w s) := by
  unfold Machine.reportEnd; split
  · split
    · exact h.operationEnd hs _ _ _
    · exact h.other hs rfl
  · split
    · exact h.innerEnd hs _ _ _
    · exact h.other hs rfl
  · exact h.other hs rfl

theorem reportEraseEnd (pass : Bool) : P (reportEraseEnd pass s) := by
  unfold Machine.reportEraseEnd; split_ifs
  · split
    · exact h.operationEnd hs _ _ _
    · exact h.other hs rfl
  · exact h.other hs rfl

theorem reportAcknowledgement : P (reportAcknowledgement s) := by
  unfold Machine.reportAcknowledgement; split_ifs
  · exact h.issueInner (h.other hs rfl)
  · exact h.other hs rfl

theorem endPulse : P (endPulse s) := by
  unfold Machine.endPulse; split_ifs
  · dsimp only; split
    · split_ifs
      · exact h.other hs rfl
      · exact h.considerSuspend (h.readIssued (h.port (h.port hs _) _) _)
    · exact h.other hs rfl
  · exact h.other hs rfl

theorem enterOffline : P (enterOffline s) := by
  have hidle : ∀ u : State, u.reader = { state := .idle, access := none } → P u := fun u hu =>
    h.other (h.taken hs (x := { state := .idle, access := none }) (by simp)) hu
  unfold Machine.enterOffline; dsimp only
  generalize hu : State.setMc _ _ = u
  obtain ⟨x, hx⟩ := failHeldAccess_eq u
  rw [hx, ← hu]
  split_ifs <;> exact hidle _ rfl

theorem timeout (x : FaultReason) (p : Nat) {f : State → State} (hf : ∀ t, P t → P (f t)) :
    P (timeout x p f s) := by
  unfold Machine.timeout; dsimp only; split_ifs
  · exact h.enterOffline (h.other hs rfl)
  · exact hf _ (h.other hs rfl)

theorem operationTimeoutTaken : P (operationTimeoutTaken s) := by
  unfold Machine.operationTimeoutTaken; split_ifs
  · split
    · exact h.timeout hs _ _ fun t ht => h.issuerTimeout ht _
    · exact hs
  · exact hs

theorem suspendTimeoutTaken (l : SuspendLimit) : P (suspendTimeoutTaken l s) := by
  unfold Machine.suspendTimeoutTaken; split_ifs
  · split
    · exact h.timeout hs _ _ fun t ht => h.issuerTimeout ht _
    · exact hs
  · exact hs

theorem innerTimeoutTaken : P (innerTimeoutTaken s) := by
  unfold Machine.innerTimeoutTaken; split_ifs
  · split
    · exact h.timeout hs _ _ fun t ht => h.issuerTimeout (h.issuerTimeout ht _) _
    · exact hs
  · exact hs

theorem stallExpiryTaken : P (stallExpiryTaken s) := by
  obtain ⟨w, l, p, hw⟩ := stallExpiryTaken_eq s
  rw [hw]; exact h.other hs rfl

theorem takeLimits : P (takeLimits s) := by
  have hport : P (takePortLimit s) := by
    rcases takePortLimit_cases s with he | he | ⟨l, he⟩ | he <;> rw [he]
    · exact hs
    · exact h.operationTimeoutTaken hs
    · exact h.suspendTimeoutTaken hs l
    · exact h.innerTimeoutTaken hs
  have hstall : P (takeStallLimit (takePortLimit s)) := by
    unfold takeStallLimit; split_ifs
    · exact h.stallExpiryTaken hport
    · exact hport
  rw [takeLimits_eq]
  rcases takeGapLimit_cases (takeStallLimit (takePortLimit s)) with he | he <;> rw [he]
  · exact hstall
  · exact h.other hstall rfl

/-! ### Commands -/

theorem markAll : P (markAll s) := by
  obtain ⟨q, hq⟩ := markAll_eq s
  rw [hq]; exact h.other hs rfl

theorem commandMove {u : State} (hu : CommandMove s u) : P u := by
  cases hu
  case markAll => exact h.markAll hs
  case markRegion r => obtain ⟨q, hq⟩ := markRegion_queues r s; rw [hq]; exact h.other hs rfl
  case purge r _ => exact h.removeEntries hs r _
  case hold =>
    have hmark : P (Machine.markAll (s.setMc { s.mc with refused := 0, mode := .holding })) := h.markAll (h.other hs rfl)
    unfold enterHolding refuseStalled; dsimp only; split
    · exact h.completeAccess (h.mc (h.stall hmark _) _) _ _
    · exact hmark
  case release => exact h.other hs rfl
  case load => exact h.other hs rfl
  case store => exact h.other hs rfl
  case protect => exact h.other hs rfl
  case job => exact h.other hs rfl
  case clear => exact h.other hs rfl

theorem move {u : State} (hu : Move s u) : P u := by
  cases hu
  case select p =>
    unfold selectActive; split
    · exact h.arrive hs p
    · exact h.other hs rfl
  case deselect => unfold selectInactive; split <;> exact h.other hs rfl
  case flushLevel high =>
    unfold takeFlushLevel; dsimp only; split_ifs
    · exact h.markAll (h.other hs rfl)
    · exact h.other hs rfl
  case gap d => unfold gapTimeoutTaken; split_ifs <;> exact h.other hs rfl
  case stall d => exact h.stallExpiryTaken (h.other hs rfl)
  case pass d => exact h.other hs rfl
  case wordEnd k pass w => exact h.reportEnd hs k pass w
  case eraseEnd pass => exact h.reportEraseEnd hs pass
  case acknowledged => exact h.reportAcknowledgement hs
  case opTimeout d => exact h.operationTimeoutTaken (h.other hs rfl)
  case suspTimeout l d => exact h.suspendTimeoutTaken (h.elapse hs d) l
  case innerTimeout d => exact h.innerTimeoutTaken (h.other hs rfl)
  case pulse d => exact h.endPulse (h.other hs rfl)
  case command hc => exact h.commandMove hs hc

theorem beginStartUp (pins : ReleasePins) : P (beginStartUp pins s) := by
  unfold Machine.beginStartUp; dsimp only
  generalize hu : Machine.claimCopyRead _ _ = u
  have hread : u.reader = s.reader := by rw [← hu]; rfl
  split_ifs
  · exact h.arrive (h.other hs hread) _
  · exact h.other hs hread

end ReadMoves

/-- The moves keep the read assembler's law (R48). -/
theorem readMoves_readerLawful : ReadMoves State.ReaderLawful where
  other hs hr := by rw [State.ReaderLawful, hr]; exact hs
  reading {s} hw hs := by
    have hheld : s.reader.access ≠ none := fun hn => by simp [hs.mpr hn] at hw
    exact ⟨by simp, fun hn => absurd hn hheld⟩
  taken _ hx := hx

theorem step_keeps_readerLawful {s t : State} (hs : s.ReaderLawful) (ht : step s = .next t) : t.ReaderLawful := by
  have h := readMoves_readerLawful
  refine step_keeps_of_moves (fun _ _ hs => h.other hs rfl) (fun _ _ hs => h.other hs rfl) (fun _ _ hs => h.other hs rfl)
    (fun _ _ hs => h.other hs rfl) (fun _ hs => h.other hs rfl) (fun _ _ hu _ hs => h.move hs hu) (fun _ _ hs => h.finish hs)
    (fun _ _ hs => h.takeLimits (h.other hs rfl)) (fun c s _ hs => ?_) (fun s => ?_) (fun _ pins _ hs => h.beginStartUp hs pins)
    hs ht
  · unfold effectInReset; split <;> exact h.other hs rfl
  · exact fun _ => ⟨fun _ => rfl, fun _ => rfl⟩

/-- Settles O14: the laws of the port with those of array loss, and the read assembler's, each kept by every move. -/
theorem stepKeepsPortLawful : Obligations.StepKeepsPortLawful :=
  fun _ _ ht => ⟨fun hs => step_keeps_portLawful hs ht, fun hs => step_keeps_readerLawful hs ht⟩

end Sys2Proof.Machine

/-! Settles O20, O22 and O23: FLUSH, HOLD and RELEASE. Their rules are moves of marks and of the mode, and the end of
their event leaves both: a selection outside CLEARING touches no field of the mode controller. -/

namespace Sys2Proof.Machine

/-! ### A setup command that the part hears -/

/-- An answer is a change of the setup port: a reply that is due under SELECTED, none under BROADCAST (R177). -/
theorem answer_dropPart {s t : State} (ht : t.setup = s.setup.dropPart) (r : Reply) :
    answer s.setup.selection r t = t.setSetup (s.answers r).setup := by
  have hself : t.setSetup t.setup = t := rfl
  unfold answer State.answers State.replies
  split_ifs <;> simp only [ht, State.setSetup_setup]
  rw [← ht, hself]

/-- A setup command that its mode and length suit, under a selection that executes it, has its rule's effect, and the setup
port its rule's answer (R176 to R178). -/
theorem exec_instr_hears {c : SetupCommand} {p : List Byte} {s : State} (h : s.Hears) (hp : p.length ≤ 250)
    (hacts : s.setup.selection = .broadcast → c.broadcastActs = true) (hmode : c.allowedIn s.mc.mode = true)
    (hlength : c.lengthSuits p.length = true) :
    exec (c.instr p) s = .next (refresh ((runCommand c p (s.setSetup s.setup.dropPart)).2.setSetup
      (s.answers (runCommand c p (s.setSetup s.setup.dropPart)).1).setup)) := by
  obtain ⟨hawake, hsel, hquiet⟩ := h
  rw [exec_instr_awake c p hawake, completeFrame_quiet hsel hquiet,
    executeFrame_command c s.setup.selection (s := s.setSetup s.setup.dropPart) hp hacts hmode hlength,
    answer_dropPart (runCommand_setup c p _)]

/-! ### The mode controller in selections -/

/-- Claims and grants leave the mode controller. -/
theorem claims_mc (v : ModeControl) : Claims fun t => t.mc = v :=
  { engine := fun _ _ h => h, reading := fun _ h => h, port := fun _ _ _ _ _ _ h => h }

theorem completeAccess_mc (e : Bool) (d : Option Word) (s : State) : (completeAccess e d s).mc = s.mc := by
  unfold completeAccess; split_ifs <;> rfl

theorem grant_mc (s : State) : (grant s).mc = s.mc := (claims_mc s.mc).grant rfl

theorem raiseHostClaim_mc (o : ArrayOp) (s : State) : (raiseHostClaim o s).mc = s.mc :=
  (claims_mc s.mc).considerSuspend ((claims_mc s.mc).grant rfl)

/-- What a held access does when its hold goes leaves the mode controller (R57, R110). -/
theorem releaseHolds_mc (x : Nat) (s : State) : (releaseHolds x s).mc = s.mc := by
  have hread : (releaseHeldRead x s).mc = s.mc := by
    unfold releaseHeldRead; split
    · split_ifs
      · split
        · exact raiseHostClaim_mc _ _
        · exact completeAccess_mc _ _ _
      · rfl
    · rfl
  refine Eq.trans ?_ hread
  unfold releaseHolds
  generalize releaseHeldRead x s = u
  unfold releaseHeldWrite; split
  · split_ifs
    · split
      · exact raiseHostClaim_mc _ _
      · exact completeAccess_mc _ _ _
    · rfl
  · rfl

/-- A selection outside CLEARING leaves the mode controller, and every selection the refused count and the FLUSH level. -/
theorem selectOnce_mc {s t : State} (ht : selectOnce s = some t) :
    (s.mc.mode ≠ .clearing → t.mc = s.mc) ∧ t.mc.refused = s.mc.refused ∧ t.mc.flushHigh = s.mc.flushHigh := by
  have hclaims := claims_mc s.mc
  have hkept : t.mc = s.mc → (s.mc.mode ≠ .clearing → t.mc = s.mc) ∧ t.mc.refused = s.mc.refused
      ∧ t.mc.flushHigh = s.mc.flushHigh := fun h => ⟨fun _ => h, by rw [h], by rw [h]⟩
  unfold selectOnce at ht
  split_ifs at ht with _ _ _ hclear
  · cases ht
    refine hkept ?_
    unfold startUpdate; dsimp only; split_ifs
    · rfl
    · exact hclaims.startTry (s := State.setEngine (s.setCru _) _) rfl
  · cases ht
    refine hkept ?_
    unfold startJob; dsimp only; split_ifs
    · rfl
    · exact releaseHolds_mc _ (s.setEngine _)
  · cases ht
    refine ⟨fun h => absurd hclear h, ?_⟩
    unfold startClearStep; dsimp only; split_ifs <;> exact ⟨rfl, rfl⟩
  · obtain ⟨r, -, rfl⟩ := Option.map_eq_some_iff.mp ht
    refine hkept ?_
    unfold startCommit; dsimp only; split
    · rfl
    · split_ifs
      · exact hclaims.engineRead (s := State.setEngine (gatherEntries _ _ (s.setEngine _)) _) rfl _
      · exact hclaims.enterLoad (s := State.setEngine (gatherEntries _ _ (s.setEngine _)) _) rfl

theorem selectItems_mc (n : Nat) (s : State) :
    (s.mc.mode ≠ .clearing → (selectItems n s).mc = s.mc) ∧ (selectItems n s).mc.refused = s.mc.refused
      ∧ (selectItems n s).mc.flushHigh = s.mc.flushHigh := by
  induction n generalizing s with
  | zero => exact ⟨fun _ => rfl, rfl, rfl⟩
  | succ n ih =>
    unfold selectItems; split
    · obtain ⟨hmc, hrefused, hflush⟩ := selectOnce_mc ‹_›
      obtain ⟨hmc', hrefused', hflush'⟩ := ih _
      exact ⟨fun h => (hmc' (by rw [hmc h]; exact h)).trans (hmc h), hrefused'.trans hrefused, hflush'.trans hflush⟩
    · exact ⟨fun _ => rfl, rfl, rfl⟩

/-- The end of an event outside CLEARING changes the mode controller by the drain test alone (R158). -/
theorem settle_mc {s : State} (h : s.mc.mode ≠ .clearing) : (settle s).mc = (drain s).mc := by
  have hdrain : (drain s).mc.mode ≠ .clearing := by
    unfold drain; split_ifs
    · simp
    · exact h
  exact (grant_mc _).trans ((selectItems_mc _ _).1 hdrain)

/-- The end of an event leaves the refused count and the FLUSH level in every mode. -/
theorem settle_refused_flushHigh (s : State) :
    (settle s).mc.refused = s.mc.refused ∧ (settle s).mc.flushHigh = s.mc.flushHigh := by
  have hdrain : (drain s).mc.refused = s.mc.refused ∧ (drain s).mc.flushHigh = s.mc.flushHigh := by
    unfold drain; split_ifs <;> exact ⟨rfl, rfl⟩
  obtain ⟨-, hrefused, hflush⟩ := selectItems_mc selectionsPerEvent (drain s)
  unfold settle
  rw [grant_mc]
  exact ⟨hrefused.trans hdrain.1, hflush.trans hdrain.2⟩

/-! ### Contents and marks at the end of an event -/

theorem settle_contents (s : State) (r : Nat) : (settle s).contents r = s.contents r :=
  congrFun (congrArg Staged.contents (settle_staged s)) r

theorem settle_marked (s : State) (r : Nat) : (settle s).marked r = s.marked r :=
  congrFun (congrArg Staged.marked (settle_staged s)) r

theorem settle_stall (s : State) : (settle s).stall = s.stall := congrArg Staged.stall (settle_staged s)

/-! ### Flush marks (R36) -/

/-- Marking changes flush marks alone. -/
theorem markRegion_queue (r r' : Nat) (s : State) : (markRegion r s).queue r' = s.queue r' := by
  unfold markRegion; split_ifs
  · rw [updateQueue_queue]; split_ifs with hr
    · rw [hr]; rfl
    · rfl
  · rfl

/-- A region is marked when it is STAGED and holds entries. -/
theorem markRegion_marked (r r' : Nat) (s : State) : (markRegion r s).marked r'
    = (s.marked r' || (r == r' && s.hasPolicy r' .staged && decide (0 < s.count r'))) := by
  unfold markRegion
  by_cases hr : r' = r
  · subst hr
    split_ifs with hc
    · have hqueue : ∃ q, s.queues[r']? = some q := by
        cases hn : s.queues[r']? with
        | none => simp [State.count, State.queue, hn] at hc
        | some q => exact ⟨q, rfl⟩
      obtain ⟨q, hq⟩ := hqueue
      simp [updateQueue_marked, hq, hc]
    · simp [hc]
  · have hne : (r == r') = false := by simpa using fun h => hr h.symm
    split_ifs
    · rw [updateQueue_marked, if_neg hr, hne]; simp
    · simp [hne]

theorem markRegion_hasPolicy (r r' : Nat) (p : Policy) (s : State) : (markRegion r s).hasPolicy r' p = s.hasPolicy r' p := by
  obtain ⟨q, hq⟩ := markRegion_queues r s
  rw [hq]; rfl

theorem markRegion_count (r r' : Nat) (s : State) : (markRegion r s).count r' = s.count r' :=
  congrArg List.length (markRegion_queue r r' s)

/-- The marks of several regions, one after another. -/
theorem foldl_markRegion (l : List Nat) (r : Nat) (s : State) :
    (l.foldl (fun t i => markRegion i t) s).queue r = s.queue r
      ∧ (l.foldl (fun t i => markRegion i t) s).marked r
        = (s.marked r || (l.contains r && s.hasPolicy r .staged && decide (0 < s.count r))) := by
  induction l generalizing s with
  | nil => simp
  | cons i l ih =>
    obtain ⟨hqueue, hmarked⟩ := ih (markRegion i s)
    refine ⟨hqueue.trans (markRegion_queue i r s), hmarked.trans ?_⟩
    rw [markRegion_marked, markRegion_hasPolicy, markRegion_count, List.contains_cons]
    have hcomm : (i == r) = (r == i) := by simp [Bool.beq_eq_decide_eq, eq_comm]
    rw [hcomm]
    cases s.marked r <;> cases r == i <;> simp +contextual

theorem markAll_queue (r : Nat) (s : State) : (markAll s).queue r = s.queue r := (foldl_markRegion _ r s).1

/-- FLUSH ALL marks every STAGED region that holds entries. -/
theorem markAll_marked (r : Nat) (s : State) :
    (markAll s).marked r = (s.marked r || (s.hasPolicy r .staged && decide (0 < s.count r))) := by
  refine (foldl_markRegion _ r s).2.trans ?_
  by_cases hr : r < s.queues.length
  · simp [hr]
  · have hcount : s.count r = 0 := by
      have hn : s.queues[r]? = none := by simpa using hr
      simp [State.count, State.queue, hn]
    simp [hcount]

theorem contents_of_queue {s t : State} {r : Nat} (h : t.queue r = s.queue r) : t.contents r = s.contents r := by
  unfold State.contents; rw [h]

@[simp] theorem refresh_contents (s : State) (r : Nat) : (refresh s).contents r = s.contents r := rfl
@[simp] theorem refresh_marked (s : State) (r : Nat) : (refresh s).marked r = s.marked r := rfl
@[simp] theorem setSetup_contents (s : State) (x : SetupPort) (r : Nat) : (s.setSetup x).contents r = s.contents r := rfl
@[simp] theorem setSetup_marked (s : State) (x : SetupPort) (r : Nat) : (s.setSetup x).marked r = s.marked r := rfl

/-- `u` is `s` with the STAGED regions among those named that hold entries marked. -/
structure Marks (names : Nat → Bool) (s u : State) : Prop where
  queues : ∃ q, u = s.setQueues q
  queue  : ∀ r, u.queue r = s.queue r
  marked : ∀ r, u.marked r = (s.marked r || (names r && s.hasPolicy r .staged && decide (0 < s.count r)))

theorem marks_none (s : State) : Marks (fun _ => false) s s := ⟨⟨s.queues, rfl⟩, fun _ => rfl, by simp⟩

theorem marks_region (r : Nat) (s : State) : Marks (fun r' => r == r') s (markRegion r s) :=
  ⟨markRegion_queues r s, fun r' => markRegion_queue r r' s, fun r' => markRegion_marked r r' s⟩

theorem marks_all (s : State) : Marks (fun _ => true) s (markAll s) :=
  ⟨markAll_eq s, fun r => markAll_queue r s, fun r => by simpa using markAll_marked r s⟩

/-- With no select waiting the end of an event leaves what marking made of contents and marks, and the FLUSH level. -/
theorem Marks.finish {names : Nat → Bool} {s u : State} (h : Marks names s u) (hres : s.host.reselect = false) :
    (∀ r, (finish u).contents r = s.contents r)
      ∧ (∀ r, (finish u).marked r = (s.marked r || (names r && s.hasPolicy r .staged && decide (0 < s.count r))))
      ∧ (finish u).mc.flushHigh = s.mc.flushHigh := by
  obtain ⟨⟨q, rfl⟩, hqueue, hmarked⟩ := h
  rw [finish_eq_settle (s := s.setQueues q) hres]
  exact ⟨fun r => (settle_contents _ r).trans (contents_of_queue (hqueue r)),
    fun r => (settle_marked _ r).trans (hmarked r), (settle_refused_flushHigh _).2⟩

/-! ### The statements -/

/-- A FLUSH that names a region, or all, marks the regions named. -/
theorem runFlush_marks {s : State} {b : Byte} (h : b.toNat = 255 ∨ b.toNat < s.regions.length) :
    ∃ u, runFlush [b] s = (plainReply codeOk, finish u) ∧ Marks (fun r => b.toNat = 255 || b.toNat == r) s u := by
  have hbyte : byteAt [b] 0 = b.toNat := rfl
  simp only [runFlush, hbyte]
  by_cases hb : b.toNat = 255
  · rw [if_pos hb]
    exact ⟨_, rfl, by simpa [hb] using marks_all s⟩
  · rw [if_neg hb, if_pos (h.resolve_left hb)]
    exact ⟨_, rfl, by simpa [hb] using marks_region _ s⟩

/-- FLUSH and its reply, by what its byte names. -/
theorem exec_flush {s : State} (b : Byte) (hs : s.Hears) (hres : s.host.reselect = false)
    (hmode : s.mc.mode = .run ∨ s.mc.mode = .holding ∨ s.mc.mode = .held) :
    if b.toNat = 255 ∨ b.toNat < s.regions.length then
      ∃ t, exec (.flush [b]) s = .next t ∧ t.setup = (s.answers { code := 0x80, payload := [] }).setup
        ∧ (∀ r, t.contents r = s.contents r)
        ∧ ∀ r, t.marked r = (s.marked r
          || ((b.toNat = 255 || b.toNat == r) && s.hasPolicy r .staged && decide (0 < s.count r)))
    else exec (.flush [b]) s = .next (refresh (s.answers { code := 0x84, payload := [0x03, 0xFF] })) := by
  have hrun := exec_instr_hears (c := .flush) (p := [b]) hs (by simp) (fun _ => rfl)
    (by rcases hmode with h | h | h <;> rw [h] <;> rfl) rfl
  simp only [runCommand, SetupCommand.instr] at hrun
  split_ifs with hnamed
  · obtain ⟨u, hu, hmarks⟩ := runFlush_marks (s := s.setSetup s.setup.dropPart) hnamed
    obtain ⟨hcontents, hmarked, -⟩ := hmarks.finish hres
    rw [hu] at hrun
    refine ⟨_, hrun, ?_, fun r => ?_, fun r => ?_⟩
    · rw [refresh_setup, State.setSetup_setup]; rfl
    · rw [refresh_contents, setSetup_contents, hcontents, setSetup_contents]
    · rw [refresh_marked, setSetup_marked, hmarked]; rfl
  · obtain ⟨hb, hlt⟩ := not_or.mp hnamed
    have hreply : runFlush [b] (s.setSetup s.setup.dropPart)
        = (invalidReply .region none, s.setSetup s.setup.dropPart) := by
      have hbyte : byteAt [b] 0 = b.toNat := rfl
      have hregions : (s.setSetup s.setup.dropPart).regions = s.regions := rfl
      simp only [runFlush, hbyte, hregions]
      rw [if_neg hb, if_neg hlt]
    rw [hrun, hreply]
    congr 2
    unfold State.answers; split_ifs <;> rfl

/-- A change of the FLUSH level marks with its rise, and not with its fall. -/
theorem takeFlushLevel_marks (high : Bool) (s : State) :
    Marks (fun _ => high) (s.setMc { s.mc with flushHigh := high }) (takeFlushLevel high s) := by
  cases high with
  | false => exact marks_none _
  | true => exact marks_all _

/-- Settles O20: the marks that FLUSH or the level sets, the end of the event leaves. -/
theorem flushMarksRegions : Obligations.FlushMarksRegions := by
  refine ⟨fun s b hs hres hmode => exec_flush b hs hres hmode, fun s high hawake hres => ?_⟩
  obtain ⟨hcontents, hmarked, hflush⟩ := (takeFlushLevel_marks high s).finish hres
  refine ⟨_, exec_awake hawake (by simp) (by simp), ?_, fun r => ?_, fun r => ?_⟩
  · rw [refresh_flushHigh, effect, hflush]; rfl
  · rw [refresh_contents, effect, hcontents]; rfl
  · rw [refresh_marked, effect, hmarked]; rfl

/-- Every queue is empty just when no region has an entry. -/
theorem queuesEmpty_iff (s : State) : s.queuesEmpty = true ↔ ∀ r, s.queue r = [] := by
  unfold State.queuesEmpty State.queue
  rw [List.all_eq_true]
  constructor
  · intro h r
    cases hq : s.queues[r]? with
    | none => rfl
    | some q => simpa using h q (List.mem_of_getElem? hq)
  · intro h q hq
    obtain ⟨r, hr⟩ := List.getElem?_of_mem hq
    simpa [hr] using h r

theorem queuesEmpty_of_queue {s t : State} (h : ∀ r, t.queue r = s.queue r) : t.queuesEmpty = s.queuesEmpty := by
  rw [Bool.eq_iff_iff, queuesEmpty_iff, queuesEmpty_iff]
  simp [h]

/-- Settles O23: the move sets the mode alone, and the end of its event leaves counts, marks and entries. -/
theorem releaseReturnsToRun : Obligations.ReleaseReturnsToRun := by
  intro s hs hmode hres
  have hrun := exec_instr_hears (c := .release) (p := []) hs (by simp) (fun _ => rfl)
    (by rcases hmode with h | h <;> rw [h] <;> rfl) rfl
  simp only [runCommand, runRelease, SetupCommand.instr] at hrun
  generalize hu : State.setMc (s.setSetup s.setup.dropPart) _ = u at hrun
  have hres' : u.host.reselect = false := by rw [← hu]; exact hres
  have hmc : (settle u).mc = { s.mc with mode := .run } := by
    have hrunning : u.mc = { s.mc with mode := .run } := by rw [← hu]; rfl
    have hdrain : drain u = u := if_neg (by simp [hrunning])
    rw [settle_mc (by simp [hrunning]), hdrain, hrunning]
  have himage : (finish u).image = s.image := by rw [finish_image, ← hu]; rfl
  rw [finish_eq_settle hres'] at hrun himage
  refine ⟨_, hrun, ?_, ?_, ?_, ?_, ?_, fun r => ⟨?_, ?_⟩⟩
  · rw [refresh_setup, State.setSetup_setup]; rfl
  · rw [refresh_mode, State.setSetup_mc, hmc]
  · rw [refresh_refused, State.setSetup_mc, hmc]
  · rw [refresh_image, State.setSetup_image, himage]
  · rw [refresh_stall, State.setSetup_stall, settle_stall, ← hu]; rfl
  · rw [refresh_contents, setSetup_contents, settle_contents, ← hu]; rfl
  · rw [refresh_marked, setSetup_marked, settle_marked, ← hu]; rfl

/-- The host port after a refused completion: a BUSY access ends with HERR#, or with HCS# gone leaves the port IDLE (R209). -/
def HostPort.refused (p : HostPort) : HostPort :=
  if p.state = .busy then
    (if p.select then { p with state := .done, data := none, herr := true }
      else { p with state := .idle, access := none, data := none, herr := false })
  else p

/-- What the entry into HOLDING makes of the state before the end of its event: marks, the mode with the count, and a
stalled write refused (R157, R29). -/
structure HoldEntered (s u : State) : Prop where
  mode   : u.mc = { s.mc with refused := if s.stall.isSome then 1 else 0, mode := .holding }
  stall  : u.stall = none
  host   : u.host = if s.stall.isSome then s.host.refused else s.host
  queue  : ∀ r, u.queue r = s.queue r
  marked : ∀ r, u.marked r = (s.marked r || (s.hasPolicy r .staged && decide (0 < s.count r)))
  rest   : u.reader = s.reader ∧ u.port = s.port ∧ u.engine = s.engine

/-- A refused write's completion with no select waiting. -/
theorem completeAccess_refused {s : State} (h : s.host.reselect = false) :
    completeAccess true none s = s.setHost s.host.refused := by
  unfold completeAccess HostPort.refused
  by_cases hb : s.host.state = .busy
  · by_cases hsel : s.host.select = true
    · rw [if_pos hb, if_pos (by simp [hsel, h]), if_pos hb, if_pos hsel]
    · rw [if_pos hb, if_neg (by simp [hsel]), if_pos hb, if_neg hsel]
  · rw [if_neg hb, if_neg hb]; rfl

theorem enterHolding_entered {s : State} (h : s.host.reselect = false) : HoldEntered s (enterHolding s) := by
  have hmarks := marks_all (s.setMc { s.mc with refused := 0, mode := .holding })
  unfold enterHolding
  generalize markAll _ = u at hmarks
  obtain ⟨⟨q, rfl⟩, hqueue, hmarked⟩ := hmarks
  have hall : ∀ r, ((s.setMc { s.mc with refused := 0, mode := .holding }).setQueues q).marked r
      = (s.marked r || (s.hasPolicy r .staged && decide (0 < s.count r))) := fun r => (hmarked r).trans (by simp; rfl)
  unfold refuseStalled
  cases hstall : s.stall with
  | none =>
    simp only [State.setQueues_stall, State.setMc_stall, hstall]
    exact ⟨by simp [hstall], hstall, by simp [hstall], hqueue, hall, rfl, rfl, rfl⟩
  | some w =>
    simp only [State.setQueues_stall, State.setMc_stall, hstall]
    rw [completeAccess_refused (by exact h)]
    exact ⟨by simp [hstall, countRefused], rfl, by simp [hstall]; rfl, hqueue, hall, rfl, rfl, rfl⟩

/-- Settles O22: the drain test ends the entry into HOLDING; the end of the event leaves the rest of it. -/
theorem holdOpensHolding : Obligations.HoldOpensHolding := by
  intro s hs hmode hres hread hdirect
  have hrun := exec_instr_hears (c := .hold) (p := []) hs (by simp) (fun _ => rfl) (by rw [hmode]; rfl) rfl
  have hentered : HoldEntered s (enterHolding (s.setSetup s.setup.dropPart)) :=
    let h := enterHolding_entered (s := s.setSetup s.setup.dropPart) hres
    ⟨h.mode, h.stall, h.host, h.queue, h.marked, h.rest⟩
  simp only [runCommand, runHold, SetupCommand.instr] at hrun
  generalize enterHolding _ = u at hrun hentered
  obtain ⟨hmc, hstall, hhost, hqueue, hmarked, hreader, hport, hengine⟩ := hentered
  have hres' : u.host.reselect = false := by
    rw [hhost]; unfold HostPort.refused; split_ifs <;> exact hres
  have hmc' : (settle u).mc = { s.mc with
      refused := if s.stall.isSome then 1 else 0
      mode := if s.queuesEmpty = true ∧ s.engine.item ≠ .regionCommit then .held else .holding } := by
    rw [settle_mc (by simp [hmc]), drain, hengine, queuesEmpty_of_queue hqueue]
    by_cases h1 : s.queuesEmpty = true ∧ s.engine.item ≠ .regionCommit
    · rw [if_pos ⟨by rw [hmc], h1⟩, if_pos h1, State.setMc_mc, hmc]
    · rw [if_neg fun h => h1 h.2, if_neg h1, hmc]
  rw [finish_eq_settle hres'] at hrun
  refine ⟨_, hrun, ?_, ?_, ?_, ?_, fun r => ?_, fun r => ?_, ?_⟩
  · rw [refresh_setup, State.setSetup_setup]; rfl
  · rw [refresh_mode, State.setSetup_mc, hmc']
  · rw [refresh_refused, State.setSetup_mc, hmc']
  · rw [refresh_stall, State.setSetup_stall, settle_stall, hstall]
  · rw [refresh_contents, setSetup_contents, settle_contents, contents_of_queue (hqueue r)]
  · rw [refresh_marked, setSetup_marked, settle_marked, hmarked]
  · rw [refresh_host, State.setSetup_host, settle_host (by rw [hreader]; exact hread) (by rw [hport, hdirect]; rfl), hhost]
    unfold HostPort.refused
    by_cases h1 : s.stall.isSome = true <;> by_cases h2 : s.host.state = .busy <;> simp [h1, h2]

end Sys2Proof.Machine

/-! Settles O34, O40, O53 and O57: the gap and stall limits, what the mode decides of an access, and feasibility. -/

namespace Sys2Proof.Machine

/-! ### Feasibility and target (R71) -/

theorem targetWord_getLsbD (m : LaneMask) (d o : Word) (i : Nat) (hi : i < 16) :
    (targetWord m d o).getLsbD i = if m.bits.getLsbD i then d.getLsbD i else o.getLsbD i := by
  have h := overlay_getElem m d o i hi
  simpa only [targetWord, BitVec.getLsbD_eq_getElem hi] using h

/-- An entry is feasible just when no lane bit of its data is 1 over a 0. -/
theorem feasible_iff (m : LaneMask) (d o : Word) : feasible m d o = true
    ↔ ∀ i < 16, m.bits.getLsbD i = true → d.getLsbD i = true → o.getLsbD i = true := by
  rw [feasible, beq_iff_eq]
  constructor
  · intro h i _ hm hd
    have hbit := congrArg (BitVec.getLsbD · i) h
    simpa [hm, hd] using hbit
  · intro h
    refine BitVec.eq_of_getLsbD_eq fun i hi => ?_
    have hbit := h i hi
    simp only [BitVec.getLsbD_and]
    cases hm : m.bits.getLsbD i <;> cases hd : d.getLsbD i <;> simp_all

/-- Settles O57, bit by bit. -/
theorem feasibleTargets : Obligations.FeasibleTargets := by
  intro m d o
  refine ⟨feasible_iff m d o, fun i hi => targetWord_getLsbD m d o i hi, fun hfeasible hlanes => ?_⟩
  have htarget : targetWord m d o = o &&& d := by
    refine BitVec.eq_of_getLsbD_eq fun i hi => ?_
    have hlane : (d ||| m.bits).getLsbD i = true := by rw [hlanes]; exact (by decide : ∀ i < 16, (0xFFFF : Word).getLsbD i = true) i hi
    have hbit := (feasible_iff m d o).mp hfeasible i hi
    rw [targetWord_getLsbD m d o i hi, BitVec.getLsbD_and]
    rw [BitVec.getLsbD_or] at hlane
    cases hm : m.bits.getLsbD i <;> cases hd : d.getLsbD i <;> simp_all
  refine ⟨htarget, ?_⟩
  rw [htarget]
  refine BitVec.eq_of_getLsbD_eq fun i _ => ?_
  simp

/-! ### What the mode decides of an access (R11 to R13) -/

/-- In STARTUP an arrival is held. -/
theorem exec_hostAccessArrival_startup {s : State} (hfree : s.HostFree) (hrests : s.Rests) (hmode : s.mc.mode = .startup)
    (p : HostPins) : exec (.hostAccessArrival p) s = .next (refresh (s.setHost (HostPort.holds p))) := by
  obtain ⟨hawake, hidle, -⟩ := hfree
  have hselect : selectActive p s = arrive p s := by unfold selectActive; rw [hidle]
  have harrive : arrive p s = s.setHost (HostPort.holds p) := if_pos hmode
  rw [exec_awake hawake (by simp) (by simp), effect, hselect, harrive,
    finish_of_rests (hrests.setHost (by simp [HostPort.holds]))]

/-- The refused count is nothing that the end of an event waits for. -/
theorem State.Rests.setRefused {s : State} (h : s.Rests) (n : Nat) : (s.setMc { s.mc with refused := n }).Rests := h

/-- Settles O40, by the modes: STARTUP holds, OFFLINE refuses, and the holding modes refuse and count a write. -/
theorem modeDecidesAccess : Obligations.ModeDecidesAccess := by
  intro s p hfree hrests
  refine ⟨fun hmode => exec_hostAccessArrival_startup hfree hrests hmode p, fun hmode hin => ?_, fun hmode hin hwrite => ?_⟩
  · refine exec_hostAccessArrival_answered hfree (by simp [hmode]) hrests ?_
    have hclassify : classify p (s.setHost (HostPort.holds p)) = refuseSilently p (s.setHost (HostPort.holds p)) := by
      have hoff : (s.setHost (HostPort.holds p)).mc.mode = .offline := hmode
      rw [classify, if_neg (Nat.not_le.mpr (by exact hin)), classifyInside, if_pos hoff]
    rw [hclassify, refuseSilently]
    split_ifs
    · exact completeAccess_setHost_holds p true none s
    · exact failRead_setHost_holds p s
  · refine exec_hostAccessArrival_answered (t := s.setMc { s.mc with refused := min 65535 (s.mc.refused + 1) }) hfree
      (by rcases hmode with h | h | h <;> simp [h]) (hrests.setRefused _) ?_
    have hcounted : (p.write && (s.mc.mode == .holding || s.mc.mode == .held || s.mc.mode == .clearing)) = true := by
      rcases hmode with h | h | h <;> simp [h, hwrite]
    have hoff : (s.setHost (HostPort.holds p)).mc.mode ≠ .offline := by
      rcases hmode with h | h | h <;> simp [h]
    rw [classify, if_neg (Nat.not_le.mpr (by exact hin)), classifyInside, if_neg hoff, if_pos (by exact hcounted)]
    exact completeAccess_setHost_holds p true none (countRefused s)

/-! ### The gap limit (R174, R214) -/

/-- The ticks to the fifth millisecond tick from the timer's start end on that tick. -/
theorem time_at_gapLimit {s : State} {g : Nat} (hg : g < 5) :
    s.time + s.ticksToMs (5 - g) = (s.time / 1000 + (5 - g)) * 1000 := by
  have hpos : 5 - g ≠ 0 := by omega
  rw [State.ticksToMs, if_neg hpos]
  omega

/-- Settles O34: the timer's limit drops the part of the frame, and the end of the event leaves the setup port. -/
theorem gapTimeoutDiscardsPartialFrame : Obligations.GapTimeoutDiscardsPartialFrame := by
  intro s g hawake htimer hg
  have hticks : s.ticksToGapLimit = s.ticksToMs (5 - g) := by rw [State.ticksToGapLimit, htimer]; rfl
  have htaken : gapTimeoutTaken (elapse s.ticksToGapLimit s)
      = (elapse s.ticksToGapLimit s).setSetup (elapse s.ticksToGapLimit s).setup.dropPart :=
    if_pos (by simp [elapse, htimer])
  refine ⟨_, exec_awake hawake (by simp) (by simp), ?_, ?_⟩
  · rw [refresh_setup, effect, finish_setup, htaken]; rfl
  · rw [refresh_time, effect, finish_time, htaken, State.setSetup_time, ← time_at_gapLimit hg, ← hticks]; rfl

/-! ### The stall limit (R26, R28) -/

/-- Settles O53: the report and the completion are the whole move, and the end of the event leaves them. -/
theorem stallExpiryDropsTheWrite : Obligations.StallExpiryDropsTheWrite := by
  intro s p w g hawake hstall hhost hreader hdirect hregion _ hgen
  have hticks : s.ticksToStallLimit = g.stallLimit * 100 - w.timer := by
    rw [State.ticksToStallLimit, hstall]
    simp only [State.stallTicks, hregion]; rfl
  have htaken : stallExpiryTaken (elapse s.ticksToStallLimit s)
      = (report { kind := .writeDropped, region := some w.region, addr := some w.addr }
        ((elapse s.ticksToStallLimit s).setStall none)).setHost (HostPort.presents p none true) := by
    have hw : (elapse s.ticksToStallLimit s).stall = some { w with timer := w.timer + s.ticksToStallLimit } := by
      simp [elapse, hstall]
    rw [stallExpiryTaken, hw]
    exact completeAccess_held (by exact hhost) true none
  have hexec := exec_awake (c := .stallLimitExpiry) hawake (by simp) (by simp)
  rw [effect, htaken] at hexec
  generalize hd : s.ticksToStallLimit = d at hexec hticks
  generalize hu : State.setHost _ _ = u at hexec
  have hfinish : finish u = settle u := finish_eq_settle (by rw [← hu]; rfl)
  have hreader' : u.reader.state ≠ .eraseHold := by
    have hsame : u.reader = s.reader := by rw [← hu]; rfl
    rw [hsame, hreader]; simp
  have hdirect' : u.port.direct.isNone = true := by
    rw [← hu]; exact congrArg Option.isNone hdirect
  have htime : u.time = s.time + d := by rw [← hu]; rfl
  rw [hfinish] at hexec
  have htime' : (settle u).time = s.time + d := (congrArg Outer.time (settle_outer u)).trans htime
  refine ⟨_, hexec, ?_, ?_, ?_, fun r => ⟨?_, ?_⟩, ?_⟩
  · rw [refresh_stall, settle_stall, ← hu]; rfl
  · rw [refresh_host, settle_host hreader' hdirect', ← hu]; rfl
  · rw [refresh_time, htime', hticks]
  · rw [refresh_contents, settle_contents, ← hu]; rfl
  · rw [refresh_marked, settle_marked, ← hu]; rfl
  · rw [refresh_records, refresh_time, htime', settle_log (by rw [← hu]; exact hgen) hreader' hdirect', ← hu]; rfl

end Sys2Proof.Machine

/-! Settles O55: the selection of a due region. -/

namespace Sys2Proof.Machine

/-! ### Round-robin order (R68) -/

/-- The turn of region r after the last served one, counted from 0. -/
def turnOf (n : Nat) (last : Option Nat) (r : Nat) : Nat :=
  match last with
  | none => r
  | some l => (r + n - 1 - l) % n

theorem roundRobin_length (n : Nat) (last : Option Nat) : (roundRobin n last).length = n := by
  unfold roundRobin; split <;> simp

/-- The i-th region in round-robin order is in range, and its turn is i. -/
theorem roundRobin_getElem {n : Nat} {last : Option Nat} (hl : ∀ l, last = some l → l < n) {i : Nat}
    (hi : i < (roundRobin n last).length) :
    (roundRobin n last)[i] < n ∧ turnOf n last (roundRobin n last)[i] = i := by
  have hin : i < n := by rwa [roundRobin_length] at hi
  cases last with
  | none => simpa [roundRobin, turnOf] using hin
  | some l =>
    have hln := hl l rfl
    have hget : (roundRobin n (some l))[i] = (l + 1 + i) % n := by simp [roundRobin]
    rw [hget]
    refine ⟨Nat.mod_lt _ (by omega), ?_⟩
    have hcase : (l + 1 + i) % n = l + 1 + i ∧ l + 1 + i < n ∨ (l + 1 + i) % n = l + 1 + i - n ∧ n ≤ l + 1 + i := by
      by_cases h : l + 1 + i < n
      · exact .inl ⟨Nat.mod_eq_of_lt h, h⟩
      · refine .inr ⟨?_, by omega⟩
        rw [Nat.mod_eq_sub_mod (by omega), Nat.mod_eq_of_lt (by omega)]
    unfold turnOf
    dsimp only
    rcases hcase with ⟨h, hlt⟩ | ⟨h, hge⟩ <;> rw [h]
    · have hsum : l + 1 + i + n - 1 - l = i + n := by omega
      rw [hsum, Nat.add_mod_right, Nat.mod_eq_of_lt hin]
    · have hsum : l + 1 + i - n + n - 1 - l = i := by omega
      rw [hsum, Nat.mod_eq_of_lt hin]

/-- Every region in range has its place, at its turn. -/
theorem roundRobin_turn {n : Nat} {last : Option Nat} (hl : ∀ l, last = some l → l < n) {r : Nat} (hr : r < n) :
    ∃ h : turnOf n last r < (roundRobin n last).length, (roundRobin n last)[turnOf n last r] = r := by
  have hturn : turnOf n last r < n := by
    unfold turnOf; split
    · exact hr
    · exact Nat.mod_lt _ (by omega)
  refine ⟨by rwa [roundRobin_length], ?_⟩
  cases last with
  | none => simp [roundRobin, turnOf]
  | some l =>
    have hln := hl l rfl
    have hget : (roundRobin n (some l))[turnOf n (some l) r]'(by rwa [roundRobin_length])
        = (l + 1 + (r + n - 1 - l) % n) % n := by simp [roundRobin, turnOf]
    rw [hget]
    by_cases h : r ≤ l
    · have hmod : (r + n - 1 - l) % n = r + n - 1 - l := Nat.mod_eq_of_lt (by omega)
      have hsum : l + 1 + (r + n - 1 - l) = r + n := by omega
      rw [hmod, hsum, Nat.add_mod_right, Nat.mod_eq_of_lt hr]
    · have hmod : (r + n - 1 - l) % n = r - 1 - l := by
        rw [Nat.mod_eq_sub_mod (by omega), Nat.mod_eq_of_lt (by omega)]; omega
      have hsum : l + 1 + (r - 1 - l) = r := by omega
      rw [hmod, hsum, Nat.mod_eq_of_lt hr]

/-- The first in round-robin order of the regions that a test holds of. -/
theorem find?_roundRobin {n : Nat} {last : Option Nat} (hl : ∀ l, last = some l → l < n) {p : Nat → Bool} {r : Nat}
    (h : (roundRobin n last).find? p = some r) :
    p r = true ∧ r < n ∧ ∀ r' < n, p r' = true → turnOf n last r ≤ turnOf n last r' := by
  obtain ⟨hp, i, hi, hget, hfirst⟩ := List.find?_eq_some_iff_getElem.mp h
  obtain ⟨hlt, hturn⟩ := roundRobin_getElem hl hi
  rw [hget] at hlt hturn
  refine ⟨hp, hlt, fun r' hr' hp' => ?_⟩
  obtain ⟨hj, hgetj⟩ := roundRobin_turn hl hr'
  by_contra hless
  have hnot := hfirst (turnOf n last r') (by omega)
  rw [hgetj, hp'] at hnot
  simp at hnot

theorem find?_roundRobin_eq_none {n : Nat} {last : Option Nat} (hl : ∀ l, last = some l → l < n) {p : Nat → Bool} :
    (roundRobin n last).find? p = none ↔ ∀ r < n, p r = false := by
  rw [List.find?_eq_none]
  constructor
  · intro h r hr
    obtain ⟨hi, hget⟩ := roundRobin_turn hl hr
    have := h r (by rw [← hget]; exact List.getElem_mem hi)
    simpa using this
  · intro h r hr
    obtain ⟨i, hi, hget⟩ := List.getElem_of_mem hr
    have := h r (by rw [← hget]; exact (roundRobin_getElem hl hi).1)
    simp [this]

/-! ### Classes (R67) -/

/-- The classes of due regions, in their order. -/
theorem dueClass_mem {s : State} {r c : Nat} (h : s.dueClass r = some c) : c ∈ [1, 2, 3, 4, 5] := by
  unfold State.dueClass at h
  split_ifs at h <;> cases h <;> simp

/-- A selection of rank 4: nothing is due, or the first of the lowest class. -/
theorem dueRegion_eq_none {s : State} (hl : ∀ l, s.engine.lastServed = some l → l < s.regions.length) :
    s.dueRegion = none ↔ ∀ r < s.regions.length, s.dueClass r = none := by
  unfold State.dueRegion
  dsimp only
  rw [List.findSome?_eq_none_iff]
  constructor
  · intro h r hr
    cases hc : s.dueClass r with
    | none => rfl
    | some c =>
      have hnot := (find?_roundRobin_eq_none hl).mp (h c (dueClass_mem hc)) r hr
      simp [hc] at hnot
  · intro h c _
    exact (find?_roundRobin_eq_none hl).mpr fun r hr => by simp [h r hr]

theorem dueRegion_eq_some {s : State} (hl : ∀ l, s.engine.lastServed = some l → l < s.regions.length) {r : Nat}
    (h : s.dueRegion = some r) : r < s.regions.length ∧ ∃ c, s.dueClass r = some c
      ∧ ∀ r' c', r' < s.regions.length → s.dueClass r' = some c' → c ≤ c'
        ∧ (c' = c → turnOf s.regions.length s.engine.lastServed r ≤ turnOf s.regions.length s.engine.lastServed r') := by
  unfold State.dueRegion at h
  dsimp only at h
  obtain ⟨before, c, after, hsplit, hfound, hbefore⟩ := List.findSome?_eq_some_iff.mp h
  obtain ⟨hclass, hr, hfirst⟩ := find?_roundRobin hl hfound
  refine ⟨hr, c, by simpa using hclass, fun r' c' hr' hc' => ⟨?_, ?_⟩⟩
  · have hsorted : (before ++ c :: after).Pairwise (· < ·) := by rw [← hsplit]; decide
    have hmem : c' ∈ before ++ c :: after := by rw [← hsplit]; exact dueClass_mem hc'
    obtain ⟨-, hafter, -⟩ := List.pairwise_append.mp hsorted
    rcases List.mem_append.mp hmem with hb | hb
    · have hnot := (find?_roundRobin_eq_none hl).mp (hbefore c' hb) r' hr'
      simp [hc'] at hnot
    · rcases List.mem_cons.mp hb with rfl | ha
      · exact le_rfl
      · exact le_of_lt ((List.pairwise_cons.mp hafter).1 c' ha)
  · rintro rfl
    exact hfirst r' hr' (by simp [hc'])

theorem dueClass_eq (s : State) (r : Nat) : s.dueClass r = if s.hasPolicy r .staged = false ∨ s.count r = 0 then none
    else if ∃ w, s.stall = some w ∧ w.region = r then some 1
    else if s.levelCode r = 3 then some 2
    else if s.levelCode r = 2 then some 3
    else if s.marked r = true then some 4
    else if s.aged r = true then some 5
    else none := by
  have hstalled : s.stalled r = true ↔ ∃ w, s.stall = some w ∧ w.region = r := by
    unfold State.stalled; split <;> simp [*]
  unfold State.dueClass
  simp only [Bool.or_eq_true, Bool.not_eq_true', beq_iff_eq, hstalled]

/-- The level code (R32). -/
theorem levelCode_eq {s : State} {r : Nat} {g : RegionRec} (hg : s.region? r = some g) :
    s.levelCode r = if s.count r = 0 ∨ g.blocks = 0 then 0
      else if 64 * g.blocks ≤ s.count r then 3
      else if 64 * g.blocks ≤ s.count r + g.af then 2
      else 1 := by
  have hcap : s.capacity r = 64 * g.blocks := by rw [State.capacity, hg]; exact Nat.mul_comm _ _
  have hzero : 64 * g.blocks = 0 ↔ g.blocks = 0 := by omega
  unfold State.levelCode
  simp only [hcap, hg, Option.map_some, Option.getD_some, hzero, Nat.sub_le_iff_le_add]

theorem ageLimit_eq_some {c l : Nat} : ageLimit c = some l ↔ (c, l) ∈ [(1, 2), (2, 16), (3, 128), (4, 1024)] := by
  unfold ageLimit
  split <;> simp_all <;> omega

/-- A STAGED region is aged by the ticks since its head age stamp (R35). -/
theorem aged_iff {s : State} {r : Nat} {g : RegionRec} (hg : s.region? r = some g) :
    s.aged r = true ↔ g.policy = .staged ∧ ∃ h l, s.headStamp r = some h
      ∧ (g.ageCode, l) ∈ [(1, 2), (2, 16), (3, 128), (4, 1024)]
      ∧ l ≤ (s.time / 1000 + 2 ^ 32 - h.toNat) % 2 ^ 32 := by
  have hticks : ∀ h : BitVec 32, (s.msTick - h).toNat = (s.time / 1000 + 2 ^ 32 - h.toNat) % 2 ^ 32 := fun h => by
    have := h.isLt
    rw [State.msTick, BitVec.toNat_sub, BitVec.toNat_ofNat]
    omega
  unfold State.aged
  rw [hg]
  cases hh : s.headStamp r with
  | none => simp
  | some h =>
    simp only [← ageLimit_eq_some]
    cases hl : ageLimit g.ageCode with
    | none => simp
    | some l => simp [hticks]

/-- Settles O55: order and classes of due regions, and what each class asks. -/
theorem regionSelectionOrder : Obligations.RegionSelectionOrder := by
  refine ⟨fun s hl => ⟨dueRegion_eq_none hl, fun r hr => ?_⟩,
    fun s r => ⟨dueClass_eq s r, fun g hg => ⟨levelCode_eq hg, aged_iff hg⟩⟩⟩
  obtain ⟨hlt, c, hc, hlowest⟩ := dueRegion_eq_some hl hr
  refine ⟨hlt, c, hc, fun r' c' hr' hc' => ?_⟩
  obtain ⟨hle, hturn⟩ := hlowest r' c' hr' hc'
  refine ⟨hle, fun heq => ?_⟩
  have := hturn heq
  unfold turnOf at this
  split <;> simp_all

end Sys2Proof.Machine

/-! Settles O42: what classification hands on to a region, and the staged write. -/

namespace Sys2Proof.Machine

/-! ### From an arrival to its rule -/

theorem hasPolicy_unique {s : State} {r : Nat} {q q' : Policy} (h : s.hasPolicy r q = true) (hne : q ≠ q') :
    s.hasPolicy r q' = false := by
  unfold State.hasPolicy at h ⊢
  split at h
  · rw [beq_iff_eq] at h
    rw [h]
    simpa using hne
  · simp at h

/-- A write on some lane of a live, unprotected sector in RUN is its region's write (R17). -/
theorem classify_write {s : State} {p : HostPins} {r psec : Nat} {m : LaneMask} (hmode : s.mc.mode = .run)
    (hin : sectorOf p.addr < s.window) (hregion : s.regionOf (sectorOf p.addr) = some r)
    (hpolicy : s.hasPolicy r .readonly = false) (hprot : s.map.protects (sectorOf p.addr) = false)
    (hlive : s.map.translate (sectorOf p.addr) = some psec) (hwrite : writesLanes p m) :
    classify p s = if s.hasPolicy r .direct then directWrite r p.addr psec m p.data s
      else stagedWrite r p.addr m p.data s := by
  obtain ⟨hw, hlanes⟩ := hwrite
  obtain ⟨g, hg⟩ := classify_inRegion hin hregion (by simp [hmode]) fun _ => hmode
  rw [hg, classifyInRegion, hlive]
  dsimp only
  rw [if_pos hw, classifyWrite, if_neg (by simp [hprot]), if_neg (by simp [hpolicy]), hlanes]

/-- A read inside the window of a live sector is taken, in every mode that reads (R48). -/
theorem classify_read {s : State} {p : HostPins} {r psec : Nat} {g : RegionRec} (hmode : s.mc.mode ≠ .offline)
    (hread : p.write = false) (hin : sectorOf p.addr < s.window) (hregion : s.regionOf (sectorOf p.addr) = some r)
    (hg : s.region? r = some g) (hlive : s.map.translate (sectorOf p.addr) = some psec) :
    classify p s = takeRead { addr := p.addr, region := r, policy := g.policy, psec := psec } s := by
  rw [classify, if_neg (Nat.not_le.mpr hin), classifyInside, if_neg hmode, hread, if_neg (by simp), hregion]
  dsimp only
  rw [hg]
  dsimp only
  rw [classifyInRegion, hlive]
  dsimp only
  rw [hread, if_neg (by simp)]

/-! ### Staged writes (R22) -/

theorem Entry.waits_iff (e : Entry) : e.waits = true ↔ e.state = .waiting := by
  unfold Entry.waits; simp

/-- A WAITING entry stands at an address. -/
theorem waitingAt_isSome {s : State} {r : Nat} {a : HostAddr} :
    (s.waitingAt r a).isSome = true ↔ ∃ e ∈ s.queue r, e.state = .waiting ∧ e.addr = a := by
  simp [State.waitingAt, List.find?_isSome, Entry.waits_iff]

/-- Coalescing leaves the marks. -/
theorem coalesce_marked (r : Nat) (a : HostAddr) (m : LaneMask) (d : Word) (s : State) (r' : Nat) :
    (coalesce r a m d s).marked r' = s.marked r' := by
  unfold coalesce
  rw [updateQueue_marked]
  split_ifs with h
  · rw [h]; rfl
  · rfl

/-- An appended entry is marked by a high FLUSH (R37). -/
theorem appendEntry_marked (r : Nat) (a : HostAddr) (m : LaneMask) (d : Word) {s : State} (hr : r < s.queues.length)
    (r' : Nat) : (appendEntry r a m d s).marked r' = if r' = r then (s.marked r || s.mc.flushHigh) else s.marked r' := by
  unfold appendEntry
  rw [updateQueue_marked]
  split_ifs with h
  · simp [State.marked, List.getElem?_eq_getElem hr]
  · rfl

/-- A move of one region's queue and of the host port, with the stall as it may leave it: what the end of an event makes of
it (R22). -/
theorem settle_host_stall {u : State} (hreader : u.reader.state = .idle) (hdirect : u.port.direct = none) :
    (settle u).host = u.host ∧ (settle u).stall = u.stall :=
  ⟨settle_host (by rw [hreader]; simp) (by rw [hdirect]; rfl), settle_stall u⟩

/-- An arrival whose classification leaves no select waiting ends with the end of its event. -/
theorem exec_hostAccessArrival_settles {s u : State} {p : HostPins} (hfree : s.HostFree) (hmode : s.mc.mode ≠ .startup)
    (hu : classify p (s.setHost (HostPort.holds p)) = u) (hres : u.host.reselect = false) :
    exec (.hostAccessArrival p) s = .next (refresh (settle u)) := by
  rw [exec_hostAccessArrival_classify hfree hmode, hu, finish_eq_settle hres]

/-- What an arrival makes of the queues and the host port when its event leaves the staged writes. -/
theorem staged_next {s u : State} {r : Nat} (hothers : ∀ r', r' ≠ r → u.queue r' = s.queue r') :
    ∀ r', r' ≠ r → (refresh (settle u)).contents r' = s.contents r' := fun r' hr' => by
  rw [refresh_contents, settle_contents, contents_of_queue (hothers r' hr')]

/-- Settles O42, by the three outcomes of a staged write. -/
theorem stagedWriteCoalescesAppendsOrStalls : Obligations.StagedWriteCoalescesAppendsOrStalls := by
  intro s p r m hfree hstages hwrite hr
  obtain ⟨hmode, hin, hregion, hstaged, hlive, hprot⟩ := hstages
  obtain ⟨-, -, -, hreader, hstall, hdirect⟩ := id hfree
  obtain ⟨psec, hpsec⟩ := Option.isSome_iff_exists.mp hlive
  have hclassify : classify p (s.setHost (HostPort.holds p)) = stagedWrite r p.addr m p.data (s.setHost (HostPort.holds p)) := by
    rw [classify_write (by exact hmode) (by exact hin) (by exact hregion) (by exact hasPolicy_unique hstaged (by simp))
      (by exact hprot) (by exact hpsec) hwrite]
    have hd : (s.setHost (HostPort.holds p)).hasPolicy r .direct = false := hasPolicy_unique (s := s) hstaged (by simp)
    rw [hd, if_neg Bool.false_ne_true]
  rw [stagedWrite] at hclassify
  have hstartup : s.mc.mode ≠ .startup := by simp [hmode]
  by_cases hwaits : ∃ e ∈ s.queue r, e.state = .waiting ∧ e.addr = p.addr
  · rw [if_pos (by exact waitingAt_isSome.mpr hwaits), completeAccess_held rfl] at hclassify
    refine ⟨_, exec_hostAccessArrival_settles hfree hstartup hclassify rfl, ?_, ?_⟩
    · exact staged_next fun r' hr' => (coalesce_queue r p.addr m p.data s r').trans (if_neg hr')
    · rw [if_pos hwaits]
      generalize hu : State.setHost (coalesce _ _ _ _ _) _ = u
      have hsame : u.host = HostPort.presents p none false ∧ u.reader = s.reader ∧ u.port = s.port ∧ u.stall = s.stall := by
        rw [← hu]; exact ⟨rfl, rfl, rfl, rfl⟩
      obtain ⟨hhost, hreader', hport', hstall'⟩ := hsame
      obtain ⟨h1, h2⟩ := settle_host_stall (u := u) (by rw [hreader', hreader]) (by rw [hport', hdirect])
      have hqueue : u.queue r = (s.queue r).map fun e => if e.waits && e.addr == p.addr then e.coalesced m p.data else e := by
        rw [← hu]; exact (coalesce_queue r p.addr m p.data s r).trans (if_pos rfl)
      have hmark : u.marked r = s.marked r := by rw [← hu]; exact coalesce_marked r p.addr m p.data s r
      refine ⟨by rw [refresh_host, h1, hhost], by rw [refresh_stall, h2, hstall', hstall],
        by rw [refresh_marked, settle_marked, hmark], ?_⟩
      rw [refresh_contents, settle_contents, State.contents, hqueue, List.map_map]
      refine List.map_congr_left fun e _ => ?_
      simp only [Function.comp_apply, Bool.and_eq_true, Entry.waits_iff, beq_iff_eq]
      split_ifs <;> rfl
  · rw [if_neg (by exact fun h => hwaits (waitingAt_isSome.mp h))] at hclassify
    by_cases hroom : s.count r < s.capacity r
    · rw [if_pos (by exact hroom), completeAccess_held rfl] at hclassify
      refine ⟨_, exec_hostAccessArrival_settles hfree hstartup hclassify rfl, ?_, ?_⟩
      · exact staged_next fun r' hr' => (appendEntry_queue r p.addr m p.data s hr r').trans (if_neg hr')
      · rw [if_neg hwaits, if_pos hroom]
        generalize hu : State.setHost (appendEntry _ _ _ _ _) _ = u
        have hsame : u.host = HostPort.presents p none false ∧ u.reader = s.reader ∧ u.port = s.port ∧ u.stall = s.stall := by
          rw [← hu]; exact ⟨rfl, rfl, rfl, rfl⟩
        obtain ⟨hhost, hreader', hport', hstall'⟩ := hsame
        obtain ⟨h1, h2⟩ := settle_host_stall (u := u) (by rw [hreader', hreader]) (by rw [hport', hdirect])
        have hqueue : u.queue r = s.queue r ++ [s.newEntry r p.addr m p.data] := by
          rw [← hu]; exact (appendEntry_queue r p.addr m p.data s hr r).trans (if_pos rfl)
        have hmark : u.marked r = (s.marked r || s.mc.flushHigh) := by
          rw [← hu]; exact (appendEntry_marked r p.addr m p.data hr r).trans (if_pos rfl)
        refine ⟨by rw [refresh_host, h1, hhost], by rw [refresh_stall, h2, hstall', hstall],
          by rw [refresh_marked, settle_marked, hmark], ?_⟩
        rw [refresh_contents, settle_contents, State.contents, hqueue, List.map_append]; rfl
    · rw [if_neg (by exact hroom)] at hclassify
      refine ⟨_, exec_hostAccessArrival_settles hfree hstartup hclassify rfl, ?_, ?_⟩
      · exact staged_next fun _ _ => rfl
      · rw [if_neg hwaits, if_neg hroom]
        generalize hu : State.setStall _ _ = u
        have hsame : u.host = HostPort.holds p ∧ u.reader = s.reader ∧ u.port = s.port ∧ u.contents r = s.contents r
            ∧ u.stall = some { region := r, addr := p.addr, mask := m, data := p.data, timer := 0 } := by
          rw [← hu]; exact ⟨rfl, rfl, rfl, rfl, rfl⟩
        obtain ⟨hhost, hreader', hport', hcont', hstall'⟩ := hsame
        obtain ⟨h1, h2⟩ := settle_host_stall (u := u) (by rw [hreader', hreader]) (by rw [hport', hdirect])
        refine ⟨by rw [refresh_host, h1, hhost], ?_, by rw [refresh_contents, settle_contents, hcont'],
          by rw [refresh_stall, h2, hstall']⟩
        rw [State.hwait, refresh_host, h1, hhost]; rfl

end Sys2Proof.Machine

/-! Settles O21: PURGE and the stalled write that it lets in. -/

namespace Sys2Proof.Machine

/-! ### PURGE (R44, R185) -/

/-- An access that has been answered is left by the end of an event: a hold that goes completes nothing more. -/
theorem settle_host_answered {s : State} (h : s.host.state ≠ .busy) : (settle s).host = s.host := by
  have hclaims : ∀ p, Claims fun t => t.host = p := fun p =>
    { engine := fun _ _ h => h, reading := fun _ h => h, port := fun _ _ _ _ _ _ h => h }
  have hholds : ∀ x (t : State), t.host = s.host → (releaseHolds x t).host = s.host := fun x t ht => by
    have hcompletes : ∀ e d (u : State), u.host = s.host → (completeAccess e d u).host = s.host := fun e d u hu => by
      rw [completeAccess_not_busy (by rw [hu]; exact h), hu]
    have hraise : ∀ o (u : State), (raiseHostClaim o u).host = u.host := fun o u =>
      (hclaims u.host).considerSuspend ((hclaims u.host).grant rfl)
    have hread : (releaseHeldRead x t).host = s.host := by
      unfold releaseHeldRead; split
      · split_ifs
        · split
          · exact (hraise _ _).trans ht
          · exact hcompletes _ _ _ ht
        · exact ht
      · exact ht
    unfold releaseHolds
    generalize releaseHeldRead x t = u at hread ⊢
    unfold releaseHeldWrite; split
    · split_ifs
      · split
        · exact (hraise _ _).trans hread
        · exact hcompletes _ _ _ hread
      · exact hread
    · exact hread
  have hwork : Work fun t => t.host = s.host :=
    { hclaims s.host with
      failed := fun _ _ _ _ h => h, gather := fun _ _ _ h => h, map := fun _ _ h => h, cru := fun _ _ _ h => h
      control := fun _ _ _ h => h, held := fun _ h => h, holds := hholds }
  exact hwork.settle rfl

/-- What a region keeps is marked as before while something is left (R38). -/
theorem keepEntries_marked (r : Nat) (keep : Entry → Bool) (s : State) (r' : Nat) : (keepEntries r keep s).marked r'
    = if r' = r then s.marked r && !((s.queue r).filter keep).isEmpty else s.marked r' := by
  unfold keepEntries
  rw [updateQueue_marked]
  split_ifs with h
  · cases hq : s.queues[r]? <;> simp [State.marked, State.queue, hq]
  · rfl

/-- A write stalled on a region that has room is appended there and accepted (R27). -/
theorem stalledMayAppend_room {s : State} {w : StalledWrite} (hw : s.stall = some w)
    (hroom : s.count w.region < s.capacity w.region) : stalledMayAppend w.region s
      = completeAccess false none ((appendEntry w.region w.addr w.mask w.data s).setStall none) := by
  unfold stalledMayAppend
  rw [hw]
  exact if_pos ⟨rfl, hroom⟩

theorem stalledMayAppend_none {s : State} (r : Nat) (h : s.stall = none) : stalledMayAppend r s = s := by
  unfold stalledMayAppend; rw [h]

/-- Other regions are as they were after a region may have taken its stalled write. -/
theorem stalledMayAppend_others {s : State} {r r' : Nat} (hr : r' ≠ r) :
    (stalledMayAppend r s).queue r' = s.queue r' ∧ (stalledMayAppend r s).marked r' = s.marked r' := by
  unfold stalledMayAppend; split
  · split_ifs
    · obtain ⟨x, hx⟩ := completeAccess_eq false none ((appendEntry r _ _ _ s).setStall none)
      rw [hx]
      exact ⟨(updateQueue_queue r r' _ s).trans (if_neg hr), (updateQueue_marked r r' _ s).trans (if_neg hr)⟩
    · exact ⟨rfl, rfl⟩
  · exact ⟨rfl, rfl⟩

theorem purgeRegion_others {s : State} {r r' : Nat} (hr : r' ≠ r) :
    (purgeRegion r s).queue r' = s.queue r' ∧ (purgeRegion r s).marked r' = s.marked r' := by
  obtain ⟨hq, hm⟩ := stalledMayAppend_others (s := keepEntries r (fun e => !e.waits) s) hr
  exact ⟨hq.trans ((keepEntries_queue r _ s r').trans (if_neg hr)),
    hm.trans ((keepEntries_marked r _ s r').trans (if_neg hr))⟩

/-- With no write stalled, PURGE keeps the COMMITTING entries. -/
theorem purgeRegion_unstalled {s : State} (r : Nat) (h : s.stall = none) : (purgeRegion r s).stall = none
    ∧ (purgeRegion r s).queue r = (s.queue r).filter (fun e => !e.waits)
    ∧ (purgeRegion r s).marked r = (s.marked r && !((s.queue r).filter fun e => !e.waits).isEmpty) := by
  have heq : purgeRegion r s = keepEntries r (fun e => !e.waits) s :=
    stalledMayAppend_none (s := keepEntries r (fun e => !e.waits) s) r h
  rw [heq]
  exact ⟨h, (keepEntries_queue r _ s r).trans (if_pos rfl), (keepEntries_marked r _ s r).trans (if_pos rfl)⟩

/-- The write stalled on the purged region is appended to what is kept, where that leaves room. -/
theorem purgeRegion_stalled {s : State} {w : StalledWrite} (hw : s.stall = some w) (hr : w.region < s.queues.length)
    (hroom : ((s.queue w.region).filter fun e => !e.waits).length < s.capacity w.region) :
    (purgeRegion w.region s).stall = none
      ∧ (purgeRegion w.region s).queue w.region
        = (s.queue w.region).filter (fun e => !e.waits) ++ [s.newEntry w.region w.addr w.mask w.data]
      ∧ (purgeRegion w.region s).marked w.region
        = ((s.marked w.region && !((s.queue w.region).filter fun e => !e.waits).isEmpty) || s.mc.flushHigh)
      ∧ ∀ p, s.host = HostPort.holds p → (purgeRegion w.region s).host = HostPort.presents p none false := by
  obtain ⟨hstall, hqueue, hmarked, hlength, hhost⟩ : (keepEntries w.region (fun e => !e.waits) s).stall = some w
      ∧ (keepEntries w.region (fun e => !e.waits) s).queue w.region = (s.queue w.region).filter (fun e => !e.waits)
      ∧ (keepEntries w.region (fun e => !e.waits) s).marked w.region
        = (s.marked w.region && !((s.queue w.region).filter fun e => !e.waits).isEmpty)
      ∧ w.region < (keepEntries w.region (fun e => !e.waits) s).queues.length
      ∧ (keepEntries w.region (fun e => !e.waits) s).host = s.host :=
    ⟨hw, (keepEntries_queue _ _ s _).trans (if_pos rfl), (keepEntries_marked _ _ s _).trans (if_pos rfl),
      by simpa [keepEntries, updateQueue] using hr, rfl⟩
  have hcap : (keepEntries w.region (fun e => !e.waits) s).capacity w.region = s.capacity w.region := rfl
  have hnew : (keepEntries w.region (fun e => !e.waits) s).newEntry w.region w.addr w.mask w.data
      = s.newEntry w.region w.addr w.mask w.data := rfl
  have hflush : (keepEntries w.region (fun e => !e.waits) s).mc = s.mc := rfl
  have heq : purgeRegion w.region s = _ := stalledMayAppend_room hstall (by rw [State.count, hqueue, hcap]; exact hroom)
  rw [heq]
  generalize keepEntries w.region (fun e => !e.waits) s = u at *
  obtain ⟨x, hx⟩ := completeAccess_eq false none ((appendEntry w.region w.addr w.mask w.data u).setStall none)
  refine ⟨by rw [hx]; rfl, ?_, ?_, fun p hp => ?_⟩
  · rw [hx, ← hqueue, ← hnew]
    exact (appendEntry_queue w.region w.addr w.mask w.data u hlength w.region).trans (if_pos rfl)
  · rw [hx, ← hmarked, ← hflush]
    exact (appendEntry_marked w.region w.addr w.mask w.data hlength w.region).trans (if_pos rfl)
  · rw [completeAccess_held (p := p) (by exact hhost.trans hp)]; rfl

theorem purgeRegion_reselect {r : Nat} {s : State} (h : s.host.reselect = false) :
    (purgeRegion r s).host.reselect = false := by
  have hclosed : (stalledMayAppend r (keepEntries r (fun e => !e.waits) s)).host.reselect = false := by
    unfold stalledMayAppend; split
    · split_ifs
      · exact (congrArg Staged.reselect (completeAccess_staged false none _)).trans h
      · exact h
    · exact h
  exact hclosed

/-- Settles O21: what PURGE makes of the queues, the end of its event leaves. -/
theorem purgeDiscardsWaitingEntries : Obligations.PurgeDiscardsWaitingEntries := by
  intro s b hs hres hmode kept mark
  obtain ⟨hawake, hsel, hquiet⟩ := hs
  have hhears : s.Hears := ⟨hawake, by rw [hsel]; simp, hquiet⟩
  have hrun := exec_instr_hears (c := .purge) (p := [b]) hhears (by simp) (by rw [hsel]; simp)
    (by rcases hmode with h | h <;> rw [h] <;> rfl) rfl
  have hbyte : byteAt [b] 0 = b.toNat := rfl
  have hregions : (s.setSetup s.setup.dropPart).regions = s.regions := rfl
  have hanswers : ∀ r, s.answers r = s.replies r := fun r => if_pos hsel
  simp only [runCommand, runPurge, SetupCommand.instr, hbyte, hregions, hanswers] at hrun
  split_ifs with hb
  · rw [if_pos hb] at hrun
    dsimp only at hrun
    rw [finish_eq_settle (purgeRegion_reselect (by exact hres))] at hrun
    refine ⟨_, hrun, ?_, fun r hr => ⟨?_, ?_⟩, fun hstall => ⟨?_, ?_, ?_⟩, fun w hw hwb hlen hroom => ⟨?_, ?_, ?_, fun p hp => ?_⟩⟩
    · rw [refresh_setup, State.setSetup_setup]; rfl
    · rw [refresh_contents, setSetup_contents, settle_contents, contents_of_queue (purgeRegion_others hr).1]; rfl
    · rw [refresh_marked, setSetup_marked, settle_marked, (purgeRegion_others hr).2]; rfl
    · rw [refresh_stall, State.setSetup_stall, settle_stall, (purgeRegion_unstalled _ (by exact hstall)).1]
    · rw [refresh_contents, setSetup_contents, settle_contents, State.contents, (purgeRegion_unstalled _ (by exact hstall)).2.1]; rfl
    · rw [refresh_marked, setSetup_marked, settle_marked, (purgeRegion_unstalled _ (by exact hstall)).2.2]; rfl
    all_goals
      rw [← hwb] at hlen
      have hroom' : ((s.queue w.region).filter fun e => !e.waits).length < s.capacity w.region := by rw [hwb]; exact hroom
      obtain ⟨h1, h2, h3, h4⟩ := purgeRegion_stalled (s := s.setSetup s.setup.dropPart) hw hlen hroom'
      rw [hwb] at h1 h2 h3 h4
    · rw [refresh_stall, State.setSetup_stall, settle_stall, h1]
    · rw [refresh_contents, setSetup_contents, settle_contents, State.contents, h2, List.map_append]; rfl
    · rw [refresh_marked, setSetup_marked, settle_marked, h3]; rfl
    · rw [refresh_host, State.setSetup_host, settle_host_answered (by rw [h4 p hp]; simp [HostPort.presents]), h4 p hp]
  · rw [if_neg hb] at hrun
    rw [hrun]; rfl

end Sys2Proof.Machine

/-! Settles O43, O44 and O49: what a host claim meets at the array port, a read's and a direct write's. -/

namespace Sys2Proof.Machine

/-! ### The host claim (R95 to R97, R100) -/

theorem considerSuspend_of_claim {s : State} (he : s.eraseRunning = true) (hc : s.port.hostClaim.isSome = true) :
    considerSuspend s = if s.port.suspCount < s.suspendLimit then
      s.setPort { s.port with state := .suspending, ackTimer := 0 } else s := by
  unfold considerSuspend
  rw [he, hc]
  simp

theorem eraseRunning_running {s : State} (h : s.eraseRunning = true) : s.port.state = .running := by
  unfold State.eraseRunning at h
  rw [Bool.and_eq_true, beq_iff_eq] at h
  exact h.1

/-- A host claim meets a RUNNING ERASE (R97). -/
theorem raiseHostClaim_erase {s : State} (o : ArrayOp) (he : s.eraseRunning = true) : raiseHostClaim o s
    = if s.port.suspCount < s.suspendLimit
      then s.setPort { s.port with hostClaim := some o, state := .suspending, ackTimer := 0 }
      else s.setPort { s.port with hostClaim := some o } := by
  have hgrant : grant (s.setPort { s.port with hostClaim := some o }) = s.setPort { s.port with hostClaim := some o } :=
    if_neg (by simp [eraseRunning_running he])
  have hraise : raiseHostClaim o s = considerSuspend (grant (s.setPort { s.port with hostClaim := some o })) := rfl
  rw [hraise, hgrant, considerSuspend_of_claim (by exact he) rfl]
  rfl

/-- A host claim in a port that is not FREE (R96, R97, R100). -/
theorem raiseHostClaim_busy {s : State} (o : ArrayOp) (h : s.port.state ≠ .free) : raiseHostClaim o s
    = if s.eraseRunning = true ∧ s.port.suspCount < s.suspendLimit
      then s.setPort { s.port with hostClaim := some o, state := .suspending, ackTimer := 0 }
      else s.setPort { s.port with hostClaim := some o } := by
  cases he : s.eraseRunning with
  | false => rw [raiseHostClaim_waits o h he, if_neg (by simp)]
  | true => rw [raiseHostClaim_erase o he]; simp

/-- Where nothing waits, no select waits at an IDLE host port. -/
theorem State.Rests.reselect {s : State} (h : s.Rests) (hi : s.host.state = .idle) : s.host.reselect = false := by
  obtain ⟨-, -, -, hselect⟩ := h
  by_contra hr
  exact hselect ⟨hi, by simpa using hr⟩

/-- Nothing that waits for the end of an event waits in a port that is not FREE. -/
theorem State.Rests.ofPort {s t : State} (h : s.Rests) (hengine : t.engine = s.engine) (hmc : t.mc = s.mc)
    (hcru : t.cru = s.cru) (hdue : t.dueRegion = s.dueRegion) (hqueues : t.queues = s.queues)
    (hport : t.port.state ≠ .free) (hhost : t.host.state = .idle → t.host.reselect = false) : t.Rests := by
  obtain ⟨hwork, hdrain, -, -⟩ := h
  refine ⟨?_, ?_, fun hf => absurd hf hport, fun hi => by simp [hhost hi.1] at hi⟩
  · have : t.hasWork = s.hasWork := by unfold State.hasWork State.maySelect; rw [hengine, hmc, hcru, hdue]
    rw [this]; exact hwork
  · unfold State.queuesEmpty at hdrain ⊢
    rw [hengine, hmc, hqueues]; exact hdrain

/-! ### The acknowledgement of a suspension (R98) -/

/-- The array's acknowledgement grants a read's claim. -/
theorem reportAcknowledgement_read {s : State} {x : ReadAccess} (hport : s.port.state = .suspending)
    (hclaim : s.port.hostClaim = some x.op) : reportAcknowledgement s = (s.setReader { s.reader with
        state := if s.reader.state = .portWait then .reading else s.reader.state }).setPort
      { s.port with state := .suspended, consecutive := 0, inner := some { op := x.op, timer := 0, issued := true } } := by
  have hclaim' : (clearConsecutive s).port.hostClaim = some x.op := hclaim
  rw [reportAcknowledgement, if_pos hport, issueInner, hclaim']
  have hcount : countAttempt x.op (clearConsecutive s) = clearConsecutive s := rfl
  dsimp only
  rw [hcount, readIssued]
  by_cases hw : s.reader.state = .portWait
  · rw [if_pos (by simp [clearConsecutive, ReadAccess.op, hw]), if_pos hw]; rfl
  · rw [if_neg (by simp [clearConsecutive, hw]), if_neg hw]; rfl

/-- It grants a direct write's claim with its attempt counted. -/
theorem reportAcknowledgement_direct {s : State} {d : DirectWrite} (hport : s.port.state = .suspending)
    (hclaim : s.port.hostClaim = some d.op) (hd : s.port.direct = some d) : reportAcknowledgement s = s.setPort
      { s.port with state := .suspended, consecutive := 0, direct := some { d with attempts := d.attempts + 1 }
                    inner := some { op := d.op, timer := 0, issued := true } } := by
  have hclaim' : (clearConsecutive s).port.hostClaim = some d.op := hclaim
  rw [reportAcknowledgement, if_pos hport, issueInner, hclaim']
  have hcount : countAttempt d.op (clearConsecutive s) = s.setPort
      { s.port with consecutive := 0, direct := some { d with attempts := d.attempts + 1 } } := by
    unfold countAttempt clearConsecutive
    simp only [DirectWrite.op, State.setPort_port, hd, Option.map_some]
    rfl
  dsimp only
  rw [hcount, readIssued, if_neg (by simp [DirectWrite.op])]
  rfl

/-- Settles O49: the claim, and the two grants of an acknowledgement, after which nothing waits in the port. -/
theorem suspendServesHostClaim : Obligations.SuspendServesHostClaim := by
  refine ⟨fun s o he _ => raiseHostClaim_erase o he, fun s x hawake hrests hport hclaim => ?_,
    fun s d hawake hrests hport hclaim hd => ?_⟩
  · rw [exec_awake hawake (by simp) (by simp), effect, reportAcknowledgement_read hport hclaim,
      finish_of_rests (by exact hrests.ofPort rfl rfl rfl rfl rfl (by simp) hrests.reselect)]
  · rw [exec_awake hawake (by simp) (by simp), effect, reportAcknowledgement_direct hport hclaim hd,
      finish_of_rests (by exact hrests.ofPort rfl rfl rfl rfl rfl (by simp) hrests.reselect)]

/-! ### Direct writes (R17, R108 to R110) -/

/-- A FREE port grants a direct write as its first attempt (R95, R109). -/
theorem claimDirect_free {s : State} {d : DirectWrite} (h : s.port.state = .free) (hheld : d.held = false)
    (hattempts : d.attempts = 0) : claimDirect d s = s.setPort
      { s.port with state := .running, hostClaim := some d.op, direct := some { d with attempts := 1 }
                    op := some { op := d.op, timer := 0, issued := decide (s.port.arst = .inactive) } } := by
  obtain ⟨region, addr, psec, value, attempts, held⟩ := d
  obtain rfl : held = false := hheld
  obtain rfl : attempts = 0 := hattempts
  unfold claimDirect
  dsimp only
  rw [raiseHostClaim_free _ (by exact h) (by simp [DirectWrite.op])]
  unfold issueOp
  dsimp only
  rw [readIssued, if_neg (by simp [DirectWrite.op])]
  rfl

/-- Settles O44: the hold, and the claim by the port's state, after which nothing waits. -/
theorem directWriteIsProgrammedOrHeld : Obligations.DirectWriteIsProgrammedOrHeld := by
  intro s p r psec m hfree hrests hmode hin hregion hpolicy hprot hlive hwrite d
  have hstartup : s.mc.mode ≠ .startup := by simp [hmode]
  have hclassify : classify p (s.setHost (HostPort.holds p))
      = directWrite r p.addr psec m p.data (s.setHost (HostPort.holds p)) := by
    rw [classify_write (by exact hmode) (by exact hin) (by exact hregion) (by exact hasPolicy_unique hpolicy (by simp))
      (by exact hprot) (by exact hlive) hwrite, if_pos (by exact hpolicy)]
  have hexec := exec_hostAccessArrival_classify hfree hstartup p
  rw [hclassify, directWrite] at hexec
  have hrests' : (s.setHost (HostPort.holds p)).Rests := hrests.setHost (by simp [HostPort.holds])
  refine ⟨fun hheld => ?_, fun hfreejob => ?_⟩
  · rw [if_pos (by exact hheld)] at hexec
    rw [hexec, finish_of_rests (by exact hrests')]; rfl
  · rw [if_neg (by rw [show (s.setHost (HostPort.holds p)).jobHeld _ = s.jobHeld _ from rfl, hfreejob]; simp)] at hexec
    dsimp only
    have hrests'' : ∀ x : ArrayPort, x.state ≠ .free → ((s.setHost (HostPort.holds p)).setPort x).Rests := fun x hx =>
      hrests'.ofPort rfl rfl rfl rfl rfl hx (by simp [HostPort.holds])
    split_ifs with hport hsusp
    · rw [claimDirect_free (by exact hport) rfl rfl, finish_of_rests (by exact hrests'' _ (by simp))] at hexec
      exact hexec
    · unfold claimDirect at hexec
      dsimp only at hexec
      rw [raiseHostClaim_busy _ (by exact hport), if_pos (by exact hsusp),
        finish_of_rests (by exact hrests'' _ (by simp))] at hexec
      exact hexec
    · unfold claimDirect at hexec
      dsimp only at hexec
      rw [raiseHostClaim_busy _ (by exact hport), if_neg (by exact hsusp),
        finish_of_rests (by exact hrests'' _ (by exact hport))] at hexec
      exact hexec

/-! ### Reads (R48 to R51, R56, R58, R59) -/

/-- A FREE port grants a read at once, and its READ is issued (R51, R95). -/
theorem claimRead_free {s : State} (x : ReadAccess) (h : s.port.state = .free) (ha : s.port.arst = .inactive) :
    claimRead x s = (s.setReader { state := .reading, access := some x }).setPort
      { s.port with state := .running, hostClaim := some x.op, op := some { op := x.op, timer := 0, issued := true } } := by
  have hcount : ∀ u, countAttempt x.op u = u := fun _ => rfl
  unfold claimRead
  rw [raiseHostClaim_free _ (by exact h) (by simp [ReadAccess.op]), issueOp, hcount]
  simp only [State.setReader_port, State.setPort_port, ha, beq_self_eq_true]
  rw [readIssued, if_pos (by simp [ReadAccess.op])]
  simp only [State.setReader, State.setPort]
  rfl

/-- During an ARST# pulse the READ that is granted waits for its end (R212). -/
theorem claimRead_pulse {s : State} (x : ReadAccess) (h : s.port.state = .free) (ha : s.port.arst ≠ .inactive) :
    claimRead x s = (s.setReader { state := .portWait, access := some x }).setPort
      { s.port with state := .running, hostClaim := some x.op, op := some { op := x.op, timer := 0, issued := false } } := by
  have hcount : ∀ u, countAttempt x.op u = u := fun _ => rfl
  have hissued : (s.port.arst == .inactive) = false := by simp [ha]
  unfold claimRead
  rw [raiseHostClaim_free _ (by exact h) (by simp [ReadAccess.op]), issueOp, hcount]
  simp only [State.setReader_port, State.setPort_port, hissued]
  rw [readIssued, if_neg (by simp)]
  rfl

/-- Both lanes covered, the array's word does not show (R50). -/
theorem overlayEntry_covered {c w : Option Entry} (h : entryBits c ||| entryBits w = 0xFFFF) (a b : Word) :
    overlayEntry w (overlayEntry c a) = overlayEntry w (overlayEntry c b) := by
  refine BitVec.eq_of_getElem_eq fun i hi => ?_
  have hbit : (entryBits c ||| entryBits w)[i] = true := by rw [h]; exact ffff_getElem i hi
  have hover : ∀ (e : Option Entry) (v : Word), (overlayEntry e v)[i]
      = if (entryBits e)[i] then ((e.map (·.data)).getD 0)[i] else v[i] := fun e v => by
    cases e with
    | none => simp [overlayEntry, entryBits]
    | some x => exact overlay_getElem x.mask x.data v i hi
  rw [BitVec.getElem_or] at hbit
  rw [hover w, hover w, hover c, hover c]
  cases hw : (entryBits w)[i] with
  | true => simp
  | false => rw [hw, Bool.or_false] at hbit; simp [hbit]

/-- What a fast read of a STAGED region answers (R49, R50). -/
theorem assemble_fast {s : State} {x : ReadAccess} (h : x.policy = .staged) (base : Word) : s.assemble x base
    = overlayEntry (s.waitingAt x.region x.addr) (overlayEntry (s.committingAt x.region x.addr)
      (if s.mergeHit (sectorOf x.addr) then s.engine.mergeWord (offsetOf x.addr) else base)) := if_pos h

/-- A fast read answers at once, with the assembler IDLE as it was. -/
theorem takeRead_fast {s : State} {p : HostPins} {x : ReadAccess} (hreader : s.reader = { state := .idle, access := none })
    (hheld : s.eraseHeld (sectorOf x.addr) = false) (hfast : s.fastRead x = true) :
    takeRead x (s.setHost (HostPort.holds p)) = s.setHost (HostPort.presents p (some (s.assemble x 0xFFFF)) false) := by
  have hidle : ∀ y, (s.setHost y).setReader { state := .idle, access := none } = s.setHost y := fun y => by
    rw [← hreader]; rfl
  rw [takeRead, if_neg (by exact fun h => by simp [show s.eraseHeld (sectorOf x.addr) = true from h] at hheld),
    if_pos (by exact hfast), endRead, hidle, completeAccess_held rfl]
  rfl

/-- Settles O43: the hold, the two ways to be fast, and the claim by the port's state. -/
theorem readIsFastOrClaimsThePort : Obligations.ReadIsFastOrClaimsThePort := by
  intro s p r psec g hfree haccess hrests hmode hread hin hregion hg hlive x o waiting committing covered claims
  have hstartup : s.mc.mode ≠ .startup := by rcases hmode with h | h | h | h <;> simp [h]
  have hclassify : classify p (s.setHost (HostPort.holds p)) = takeRead x (s.setHost (HostPort.holds p)) :=
    classify_read (by rcases hmode with h | h | h | h <;> simp [h]) hread hin hregion hg hlive
  have hexec := exec_hostAccessArrival_classify hfree hstartup p
  have hrests' : (s.setHost (HostPort.holds p)).Rests := hrests.setHost (by simp [HostPort.holds])
  have hreader : s.reader = { state := .idle, access := none } := by
    obtain ⟨-, -, -, hidle, -⟩ := hfree
    rw [← hidle, ← haccess]
  have hfast : ∀ w, s.eraseHeld (sectorOf p.addr) = false → s.fastRead x = true → s.assemble x 0xFFFF = w →
      exec (.hostAccessArrival p) s = .next (refresh (s.setHost (HostPort.presents p (some w) false))) :=
    fun w hheld hf hw => exec_hostAccessArrival_answered hfree hstartup hrests
      (by rw [hclassify, takeRead_fast (x := x) hreader hheld hf, hw])
  by_cases hheld : s.eraseHeld (sectorOf p.addr) = true
  · rw [if_pos hheld]
    rw [hclassify, takeRead, if_pos (by exact hheld), finish_of_rests (by exact hrests')] at hexec
    exact hexec
  rw [if_neg hheld]
  have hheld' : s.eraseHeld (sectorOf p.addr) = false := by simpa using hheld
  by_cases hhit : g.policy = .staged ∧ s.mergeHit (sectorOf p.addr) = true
  · rw [if_pos hhit]
    refine hfast _ hheld' (by simp [State.fastRead, x, hhit]) ?_
    rw [assemble_fast hhit.1, if_pos (by exact hhit.2)]
  rw [if_neg hhit]
  by_cases hcov : g.policy = .staged ∧ covered
  · rw [if_pos hcov]
    intro base
    refine hfast _ hheld' ?_ ?_
    · have : (entryBits (s.committingAt r p.addr) ||| entryBits (s.waitingAt r p.addr)) = 0xFFFF := hcov.2
      simp [State.fastRead, x, hcov.1, this]
    · rw [assemble_fast hcov.1]
      exact overlayEntry_covered hcov.2 _ _
  rw [if_neg hcov]
  have hslow : ¬s.fastRead x = true := by
    intro hf
    unfold State.fastRead at hf
    rw [Bool.and_eq_true, Bool.or_eq_true, beq_iff_eq, beq_iff_eq] at hf
    exact hf.2.elim (fun h => hhit ⟨hf.1, h⟩) fun h => hcov ⟨hf.1, h⟩
  rw [hclassify, takeRead, if_neg (by exact hheld), if_neg (by exact hslow)] at hexec
  have hrests'' : ∀ y (v : ArrayPort), v.state ≠ .free →
      (((s.setHost (HostPort.holds p)).setReader y).setPort v).Rests := fun y v hv =>
    hrests'.ofPort rfl rfl rfl rfl rfl hv (by simp [HostPort.holds])
  by_cases hport : s.port.state = .free
  · rw [if_pos hport]
    by_cases ha : s.port.arst = .inactive
    · rw [if_pos ha]
      rw [claimRead_free x (by exact hport) (by exact ha), finish_of_rests (by exact hrests'' _ _ (by simp))] at hexec
      exact hexec
    · rw [if_neg ha]
      rw [claimRead_pulse x (by exact hport) (by exact ha), finish_of_rests (by exact hrests'' _ _ (by simp))] at hexec
      exact hexec
  rw [if_neg hport]
  rw [claimRead, raiseHostClaim_busy _ (by exact hport)] at hexec
  by_cases hsusp : s.eraseRunning = true ∧ s.port.suspCount < s.suspendLimit
  · rw [if_pos hsusp]
    rw [if_pos (by exact hsusp), finish_of_rests (by exact hrests'' _ _ (by simp))] at hexec
    exact hexec
  · rw [if_neg hsusp]
    rw [if_neg (by exact hsusp), finish_of_rests (by exact hrests'' _ _ (by exact hport))] at hexec
    exact hexec

end Sys2Proof.Machine

/-! Settles O58: setup image validation. The checks of Table 8-3 are a chain; the two that carry a sum or a run along are
read off by the region at fault, and an accepted run tiles its window. -/

namespace Sys2Proof.Machine

/-! ### Fields of image bytes -/

theorem byteAt_eq (b : List Byte) (i : Nat) : byteAt b i = (b[i]?.getD 0).toNat := by
  rw [byteAt, List.getD_eq_getElem?_getD]

/-- A field of two bytes, low byte first. -/
theorem field_two (b : List Byte) (o : Nat) : field b o 2 = byteAt b o + 256 * byteAt b (o + 1) := by
  have hdrop : ∀ i, (b.drop o)[i]? = b[o + i]? := fun i => by rw [List.getElem?_drop]
  have h0 := hdrop 0
  have h1 := hdrop 1
  unfold field
  rw [byteAt_eq, byteAt_eq, ← h1, ← Nat.add_zero o, ← h0, Nat.add_zero]
  rcases b.drop o with _ | ⟨x, _ | ⟨y, t⟩⟩ <;> simp [leNat]

/-! ### The chain of checks (Table 8-3) -/

/-- The checks before the region records pass. -/
structure HeadPasses (sparesBad : Nat → Bool) (b : List Byte) : Prop where
  long    : 4 ≤ b.length
  length  : b.length = 4 + 10 * byteAt b 1
  version : byteAt b 0 = 1
  some    : byteAt b 1 ≠ 0
  most    : byteAt b 1 ≤ 16
  spares  : sparesBad (byteAt b 2) = false
  suspend : byteAt b 3 ≤ 15

/-- Past the head, the checks of the region records in order decide. -/
theorem validateImage_of_head {sparesBad : Nat → Bool} {b : List Byte} (h : HeadPasses sparesBad b) :
    validateImage sparesBad b =
      match tilingFault (windowOf (byteAt b 2)) 0 0 (rawRegions b (byteAt b 1)) with
      | some r => .invalid .tiling (some r)
      | none =>
      match blocksFault 0 0 (rawRegions b (byteAt b 1)) with
      | some r => .invalid .blocks (some r)
      | none =>
      match afFault (rawRegions b (byteAt b 1)) with
      | some r => .invalid .af (some r)
      | none =>
      match ageFault (rawRegions b (byteAt b 1)) with
      | some r => .invalid .age (some r)
      | none =>
      match stallFault (rawRegions b (byteAt b 1)) with
      | some r => .invalid .stall (some r)
      | none => .valid (imageOf b) := by
  obtain ⟨hlong, hlength, hversion, hsome, hmost, hspares, hsuspend⟩ := h
  unfold validateImage
  dsimp only
  rw [if_neg (by omega), if_neg (by simp [hversion]), if_neg (by omega), if_neg (by simp [hspares]), if_neg (by omega)]
    <;> rfl

/-- An accepted image passes every check, and is the one its bytes spell. -/
theorem validateImage_eq_valid {sparesBad : Nat → Bool} {b : List Byte} {im : SetupImage}
    (h : validateImage sparesBad b = .valid im) : HeadPasses sparesBad b ∧ im = imageOf b
      ∧ tilingFault (windowOf (byteAt b 2)) 0 0 (rawRegions b (byteAt b 1)) = none
      ∧ blocksFault 0 0 (rawRegions b (byteAt b 1)) = none ∧ afFault (rawRegions b (byteAt b 1)) = none
      ∧ ageFault (rawRegions b (byteAt b 1)) = none ∧ stallFault (rawRegions b (byteAt b 1)) = none := by
  have hhead : HeadPasses sparesBad b := by
    unfold validateImage at h
    dsimp only at h
    split_ifs at h with h1 h2 h3 h4 h5
    exact ⟨by omega, by omega, by simpa using h2, by omega, by omega, by simpa using h4, by omega⟩
  refine ⟨hhead, ?_⟩
  rw [validateImage_of_head hhead] at h
  cases ht : tilingFault (windowOf (byteAt b 2)) 0 0 (rawRegions b (byteAt b 1)) with
  | some r => simp [ht] at h
  | none =>
    cases hb : blocksFault 0 0 (rawRegions b (byteAt b 1)) with
    | some r => simp [ht, hb] at h
    | none =>
      cases ha : afFault (rawRegions b (byteAt b 1)) with
      | some r => simp [ht, hb, ha] at h
      | none =>
        cases hg : ageFault (rawRegions b (byteAt b 1)) with
        | some r => simp [ht, hb, ha, hg] at h
        | none =>
          cases hs : stallFault (rawRegions b (byteAt b 1)) with
          | some r => simp [ht, hb, ha, hg, hs] at h
          | none => simp [ht, hb, ha, hg, hs] at h; exact ⟨h.symm, rfl, rfl, rfl, rfl, rfl⟩

/-! ### The run that tiles the window -/

/-- A run without a fault from `start` covers every sector up to W by just one of its regions, and nothing below. -/
theorem tilingFault_none_tiles {w : Nat} (rs : List RawRegion) {i start : Nat} (h : tilingFault w i start rs = none) :
    (∀ g ∈ rs, start ≤ g.first ∧ 0 < g.count ∧ g.first + g.count ≤ w)
      ∧ ∀ x, start ≤ x → x < w → ∃ r < rs.length, ∀ r' g, rs[r']? = some g →
        (g.first ≤ x ∧ x < g.first + g.count ↔ r' = r) := by
  induction rs generalizing i start with
  | nil =>
    unfold tilingFault at h
    split_ifs at h with he
    exact ⟨by simp, fun x h1 h2 => by omega⟩
  | cons g t ih =>
    unfold tilingFault at h
    split_ifs at h with hc
    obtain ⟨hfirst, hcount, hend⟩ : g.first = start ∧ g.count ≠ 0 ∧ g.first + g.count ≤ w := by
      simpa only [not_or, not_not, not_lt] using hc
    obtain ⟨hbelow, htiles⟩ := ih h
    refine ⟨?_, fun x hx hw => ?_⟩
    · intro g' hg'
      rcases List.mem_cons.mp hg' with rfl | hmem
      · omega
      · have := hbelow g' hmem; omega
    · by_cases hin : x < g.first + g.count
      · refine ⟨0, by simp, fun r' g' hr' => ?_⟩
        cases r' with
        | zero =>
          obtain rfl : g = g' := by simpa using hr'
          simp; omega
        | succ r' =>
          have := hbelow g' (List.mem_of_getElem? (by simpa using hr'))
          simp; omega
      · obtain ⟨r, hr, hone⟩ := htiles x (by omega) hw
        refine ⟨r + 1, by simpa using hr, fun r' g' hr' => ?_⟩
        cases r' with
        | zero =>
          obtain rfl : g = g' := by simpa using hr'
          simp; omega
        | succ r' =>
          have := hone r' g' (by simpa using hr')
          simpa using this

/-- Blocks without a fault: STAGED regions own some and others none, and the sum does not pass the store's. -/
theorem blocksFault_none {rs : List RawRegion} {i sum : Nat} (hsum : sum ≤ 32) (h : blocksFault i sum rs = none) :
    sum + (rs.map (·.blocks)).sum ≤ 32
      ∧ ∀ g ∈ rs, g.policyByte ≤ 2 ∧ (0 < g.blocks ↔ g.policyByte = 0) := by
  induction rs generalizing i sum with
  | nil => simpa using hsum
  | cons g t ih =>
    unfold blocksFault at h
    split_ifs at h with hc
    have hstore : storeBlocks = 32 := rfl
    obtain ⟨h1, h2, h3, h4⟩ : ¬2 < g.policyByte ∧ ¬(g.policyByte = 0 ∧ g.blocks = 0)
        ∧ ¬(g.policyByte ≠ 0 ∧ 0 < g.blocks) ∧ ¬storeBlocks < sum + g.blocks := by
      simpa only [not_or] using hc
    obtain ⟨htotal, hrest⟩ := ih (by omega) h
    refine ⟨by simp only [List.map_cons, List.sum_cons]; omega, fun g' hg' => ?_⟩
    rcases List.mem_cons.mp hg' with rfl | hmem
    · omega
    · exact hrest g' hmem

/-! ### Faults by their region -/

/-- A run's fault in the region records f i, f (i + 1), … up to N: out of step with the one before, empty, past W, or the
last one short of W. -/
def tilingBad (f : Nat → RawRegion) (w n r : Nat) : Prop :=
  (f r).first ≠ (if r = 0 then 0 else (f (r - 1)).first + (f (r - 1)).count) ∨ (f r).count = 0
    ∨ w < (f r).first + (f r).count ∨ (r + 1 = n ∧ (f r).first + (f r).count ≠ w)

/-- Where the next region must start. -/
def runEnd (f : Nat → RawRegion) (i : Nat) : Nat := if i = 0 then 0 else (f (i - 1)).first + (f (i - 1)).count

theorem tilingFault_first {f : Nat → RawRegion} {w n r : Nat} (hr : tilingBad f w n r) (k : Nat) {i : Nat} (hir : i ≤ r)
    (hrn : r < i + k) (hn : i + k = n) (hbefore : ∀ j, i ≤ j → j < r → ¬tilingBad f w n j) :
    tilingFault w i (runEnd f i) ((List.range' i k).map f) = some r := by
  induction k generalizing i with
  | zero => omega
  | succ k ih =>
    rw [List.range'_succ, List.map_cons, tilingFault]
    by_cases heq : i = r
    · subst heq
      split_ifs with hc
      · rfl
      · obtain ⟨h1, h2, h3⟩ : (f i).first = runEnd f i ∧ (f i).count ≠ 0 ∧ ¬w < (f i).first + (f i).count := by
          simpa only [not_or, not_not] using hc
        rcases hr with h | h | h | ⟨hlast, h⟩
        · exact absurd h1 h
        · exact absurd h h2
        · exact absurd h h3
        · have hk : k = 0 := by omega
          subst hk
          rw [List.range'_zero, List.map_nil, tilingFault, if_neg h]
          rfl
    · have hgood := hbefore i le_rfl (by omega)
      obtain ⟨h1, h2, h3, -⟩ : ¬(f i).first ≠ runEnd f i ∧ ¬(f i).count = 0 ∧ ¬w < (f i).first + (f i).count
          ∧ ¬(i + 1 = n ∧ (f i).first + (f i).count ≠ w) := by
        simpa only [tilingBad, runEnd, not_or] using hgood
      rw [if_neg (by simp only [not_or]; exact ⟨h1, h2, h3⟩)]
      have hnext : (f i).first + (f i).count = runEnd f (i + 1) := by simp [runEnd]
      rw [hnext]
      exact ih (by omega) (by omega) (by omega) fun j hj => hbefore j (by omega)

theorem tilingFault_passes {f : Nat → RawRegion} {w n : Nat} (k : Nat) {i : Nat} (hn : i + k = n)
    (hend : i = n → runEnd f i = w) (hgood : ∀ j, i ≤ j → j < n → ¬tilingBad f w n j) :
    tilingFault w i (runEnd f i) ((List.range' i k).map f) = none := by
  induction k generalizing i with
  | zero =>
    rw [List.range'_zero, List.map_nil, tilingFault, if_pos (hend (by omega))]
  | succ k ih =>
    rw [List.range'_succ, List.map_cons, tilingFault]
    obtain ⟨h1, h2, h3, h4⟩ : ¬(f i).first ≠ runEnd f i ∧ ¬(f i).count = 0 ∧ ¬w < (f i).first + (f i).count
        ∧ ¬(i + 1 = n ∧ (f i).first + (f i).count ≠ w) := by
      simpa only [tilingBad, runEnd, not_or] using hgood i le_rfl (by omega)
    rw [if_neg (by simp only [not_or]; exact ⟨h1, h2, h3⟩)]
    have hnext : (f i).first + (f i).count = runEnd f (i + 1) := by simp [runEnd]
    rw [hnext]
    refine ih (by omega) (fun h => ?_) fun j hj => hgood j (by omega)
    rw [← hnext]
    by_contra hne
    exact h4 ⟨h, hne⟩

/-- A region record's fault of blocks, with the sum of the records before it. -/
def blocksBad (f : Nat → RawRegion) (r : Nat) : Prop :=
  2 < (f r).policyByte ∨ ((f r).policyByte = 0 ∧ (f r).blocks = 0) ∨ ((f r).policyByte ≠ 0 ∧ 0 < (f r).blocks)
    ∨ 32 < ((List.range (r + 1)).map fun j => (f j).blocks).sum

/-- The blocks of the records before the i-th. -/
def blocksBefore (f : Nat → RawRegion) (i : Nat) : Nat := ((List.range i).map fun j => (f j).blocks).sum

theorem blocksBefore_succ (f : Nat → RawRegion) (i : Nat) :
    blocksBefore f (i + 1) = blocksBefore f i + (f i).blocks := by
  simp [blocksBefore, List.range_succ]

theorem blocksFault_cons (f : Nat → RawRegion) (i : Nat) (t : List RawRegion) :
    (blocksBad f i → blocksFault i (blocksBefore f i) (f i :: t) = some i)
      ∧ (¬blocksBad f i → blocksFault i (blocksBefore f i) (f i :: t) = blocksFault (i + 1) (blocksBefore f (i + 1)) t) := by
  have hbad : blocksBad f i ↔ 2 < (f i).policyByte ∨ ((f i).policyByte = 0 ∧ (f i).blocks = 0)
      ∨ ((f i).policyByte ≠ 0 ∧ 0 < (f i).blocks) ∨ storeBlocks < blocksBefore f i + (f i).blocks := by
    rw [← blocksBefore_succ]; rfl
  rw [hbad, blocksBefore_succ, blocksFault]
  exact ⟨fun h => if_pos h, fun h => if_neg h⟩

theorem blocksFault_first {f : Nat → RawRegion} {r : Nat} (hr : blocksBad f r) (k : Nat) {i : Nat} (hir : i ≤ r)
    (hrn : r < i + k) (hbefore : ∀ j, i ≤ j → j < r → ¬blocksBad f j) :
    blocksFault i (blocksBefore f i) ((List.range' i k).map f) = some r := by
  induction k generalizing i with
  | zero => omega
  | succ k ih =>
    obtain ⟨hfault, hpass⟩ := blocksFault_cons f i ((List.range' (i + 1) k).map f)
    rw [List.range'_succ, List.map_cons]
    by_cases heq : i = r
    · subst heq
      exact hfault hr
    · rw [hpass (hbefore i le_rfl (by omega))]
      exact ih (by omega) (by omega) fun j hj => hbefore j (by omega)

theorem blocksFault_passes {f : Nat → RawRegion} (k : Nat) {i : Nat} (hgood : ∀ j, i ≤ j → j < i + k → ¬blocksBad f j) :
    blocksFault i (blocksBefore f i) ((List.range' i k).map f) = none := by
  induction k generalizing i with
  | zero => rfl
  | succ k ih =>
    obtain ⟨-, hpass⟩ := blocksFault_cons f i ((List.range' (i + 1) k).map f)
    rw [List.range'_succ, List.map_cons, hpass (hgood i le_rfl (by omega))]
    exact ih fun j hj hk => hgood j (by omega) (by omega)

/-- The first record that a test holds of. -/
theorem findIdx?_map_range {f : Nat → RawRegion} {p : RawRegion → Bool} {n r : Nat} (hr : r < n) (hp : p (f r) = true)
    (hbefore : ∀ j < r, p (f j) = false) : ((List.range n).map f).findIdx? p = some r := by
  rw [List.findIdx?_eq_some_iff_getElem]
  exact ⟨by simpa using hr, by simpa using hp, fun j hj => by simpa using hbefore j hj⟩

theorem findIdx?_map_range_none {f : Nat → RawRegion} {p : RawRegion → Bool} {n : Nat} (h : ∀ r < n, p (f r) = false) :
    ((List.range n).map f).findIdx? p = none := by
  rw [List.findIdx?_eq_none_iff]
  simpa using h

/-! ### The region records of image bytes -/

theorem rawRegions_eq (b : List Byte) (n : Nat) : rawRegions b n = (List.range' 0 n).map (rawRegionAt b) := by
  rw [rawRegions, List.range_eq_range']

theorem blocksFault_of_passes {b : List Byte} (h : ∀ r < byteAt b 1, ¬blocksBad (rawRegionAt b) r) :
    blocksFault 0 0 (rawRegions b (byteAt b 1)) = none := by
  rw [rawRegions_eq]
  exact blocksFault_passes (byteAt b 1) (i := 0) fun j _ hj => h j (by omega)

theorem afFault_of_passes {b : List Byte} (h : ∀ r < byteAt b 1,
    ¬((rawRegionAt b r).policyByte = 0 ∧ 64 * (rawRegionAt b r).blocks ≤ (rawRegionAt b r).af)) :
    afFault (rawRegions b (byteAt b 1)) = none :=
  findIdx?_map_range_none fun j hj => by simpa [blockEntries, Nat.mul_comm] using h j hj

theorem ageFault_of_passes {b : List Byte} (h : ∀ r < byteAt b 1, ¬4 < (rawRegionAt b r).ageCode) :
    ageFault (rawRegions b (byteAt b 1)) = none :=
  findIdx?_map_range_none fun j hj => by simpa using h j hj

section
variable {sparesBad : Nat → Bool} {b : List Byte} (h : HeadPasses sparesBad b)
include h

/-- The checks of the region records, by the first region at fault of each (Table 8-3). -/
theorem validateImage_tiling {r : Nat} (hr : r < byteAt b 1)
    (hbad : tilingBad (rawRegionAt b) (windowOf (byteAt b 2)) (byteAt b 1) r)
    (hbefore : ∀ j < r, ¬tilingBad (rawRegionAt b) (windowOf (byteAt b 2)) (byteAt b 1) j) :
    validateImage sparesBad b = .invalid .tiling (some r) := by
  rw [validateImage_of_head h, rawRegions_eq]
  have hfault := tilingFault_first hbad (byteAt b 1) (i := 0) (by omega) (by omega) (by omega) fun j _ hj => hbefore j hj
  rw [runEnd, if_pos rfl] at hfault
  rw [hfault]

variable (htiles : ∀ r < byteAt b 1, ¬tilingBad (rawRegionAt b) (windowOf (byteAt b 2)) (byteAt b 1) r)
include htiles

theorem tilingFault_of_passes : tilingFault (windowOf (byteAt b 2)) 0 0 (rawRegions b (byteAt b 1)) = none := by
  have hsome := h.some
  have hpass := tilingFault_passes (f := rawRegionAt b) (w := windowOf (byteAt b 2)) (byteAt b 1) (i := 0) (by omega)
    (fun h0 => absurd h0.symm hsome) fun j _ hj => htiles j hj
  rw [runEnd, if_pos rfl] at hpass
  rw [rawRegions_eq, hpass]

theorem validateImage_blocks {r : Nat} (hr : r < byteAt b 1) (hbad : blocksBad (rawRegionAt b) r)
    (hbefore : ∀ j < r, ¬blocksBad (rawRegionAt b) j) : validateImage sparesBad b = .invalid .blocks (some r) := by
  have hfault := blocksFault_first hbad (byteAt b 1) (i := 0) (by omega) (by omega) fun j _ hj => hbefore j hj
  rw [validateImage_of_head h, tilingFault_of_passes h htiles, rawRegions_eq]
  dsimp only
  rw [show blocksFault 0 0 _ = some r from hfault]

variable (hblocks : ∀ r < byteAt b 1, ¬blocksBad (rawRegionAt b) r)
include hblocks

theorem validateImage_af {r : Nat} (hr : r < byteAt b 1)
    (hbad : (rawRegionAt b r).policyByte = 0 ∧ 64 * (rawRegionAt b r).blocks ≤ (rawRegionAt b r).af)
    (hbefore : ∀ j < r, ¬((rawRegionAt b j).policyByte = 0 ∧ 64 * (rawRegionAt b j).blocks ≤ (rawRegionAt b j).af)) :
    validateImage sparesBad b = .invalid .af (some r) := by
  have hfault : afFault (rawRegions b (byteAt b 1)) = some r :=
    findIdx?_map_range hr (by simpa [blockEntries, Nat.mul_comm] using hbad)
      fun j hj => by simpa [blockEntries, Nat.mul_comm] using hbefore j hj
  rw [validateImage_of_head h, tilingFault_of_passes h htiles, blocksFault_of_passes hblocks, hfault]

variable (hafs : ∀ r < byteAt b 1,
  ¬((rawRegionAt b r).policyByte = 0 ∧ 64 * (rawRegionAt b r).blocks ≤ (rawRegionAt b r).af))
include hafs

theorem validateImage_age {r : Nat} (hr : r < byteAt b 1) (hbad : 4 < (rawRegionAt b r).ageCode)
    (hbefore : ∀ j < r, ¬4 < (rawRegionAt b j).ageCode) : validateImage sparesBad b = .invalid .age (some r) := by
  have hfault : ageFault (rawRegions b (byteAt b 1)) = some r :=
    findIdx?_map_range hr (by simpa using hbad) fun j hj => by simpa using hbefore j hj
  rw [validateImage_of_head h, tilingFault_of_passes h htiles, blocksFault_of_passes hblocks,
    afFault_of_passes hafs, hfault]

variable (hages : ∀ r < byteAt b 1, ¬4 < (rawRegionAt b r).ageCode)
include hages

theorem validateImage_stall {r : Nat} (hr : r < byteAt b 1) (hbad : (rawRegionAt b r).stallLimit = 0)
    (hbefore : ∀ j < r, ¬(rawRegionAt b j).stallLimit = 0) : validateImage sparesBad b = .invalid .stall (some r) := by
  have hfault : stallFault (rawRegions b (byteAt b 1)) = some r :=
    findIdx?_map_range hr (by simpa using hbad) fun j hj => by simpa using hbefore j hj
  rw [validateImage_of_head h, tilingFault_of_passes h htiles, blocksFault_of_passes hblocks,
    afFault_of_passes hafs, ageFault_of_passes hages, hfault]

theorem validateImage_accepts (hstalls : ∀ r < byteAt b 1, ¬(rawRegionAt b r).stallLimit = 0) :
    validateImage sparesBad b = .valid (imageOf b) := by
  have hnone : stallFault (rawRegions b (byteAt b 1)) = none :=
    findIdx?_map_range_none fun j hj => by simpa using hstalls j hj
  rw [validateImage_of_head h, tilingFault_of_passes h htiles, blocksFault_of_passes hblocks,
    afFault_of_passes hafs, ageFault_of_passes hages, hnone]

end

/-! ### The statement -/

theorem judged_policy_staged (g : RawRegion) : g.judged.policy = .staged ↔ g.policyByte = 0 := by
  unfold RawRegion.judged
  split_ifs with h1 h2 <;> simp [h1]

/-- What validation accepts is in range and tiles its window (R162). -/
theorem validateImage_valid_lawful {sparesBad : Nat → Bool} {b : List Byte} {im : SetupImage}
    (hspares : ∀ n, 32 < n → sparesBad n = true) (hvalid : validateImage sparesBad b = .valid im) :
    im.version = 1 ∧ 1 ≤ im.regions.length ∧ im.regions.length ≤ 16 ∧ im.spares ≤ 32 ∧ im.suspendLimit ≤ 15
      ∧ b.length = 4 + 10 * im.regions.length
      ∧ (∀ x, x < 1022 - im.spares → ∃ r, r < im.regions.length ∧
          ∀ r' (g : RegionRec), im.regions[r']? = some g → (g.covers x = true ↔ r' = r))
      ∧ (im.regions.map (·.blocks)).sum ≤ 32
      ∧ ∀ g ∈ im.regions, (0 < g.blocks ↔ g.policy = .staged) ∧ (g.policy = .staged → g.af < g.blocks * 64)
          ∧ g.ageCode ≤ 4 ∧ 0 < g.stallLimit ∧ 0 < g.count ∧ g.first + g.count ≤ 1022 - im.spares := by
  obtain ⟨hhead, rfl, htiling, hblocks, haf, hage, hstall⟩ := validateImage_eq_valid hvalid
  have hlength : (imageOf b).regions.length = byteAt b 1 := by simp [imageOf, rawRegions]
  have hsome := hhead.some
  have hlow : byteAt b 2 ≤ 32 := by
    by_contra hgt
    have := hspares (byteAt b 2) (by omega)
    simp [hhead.spares] at this
  obtain ⟨hrun, htiles⟩ := tilingFault_none_tiles _ htiling
  obtain ⟨hsum, hown⟩ := blocksFault_none (by omega) hblocks
  rw [hlength]
  refine ⟨hhead.version, by omega, hhead.most, hlow, hhead.suspend, hhead.length, fun x hx => ?_, ?_, ?_⟩
  · obtain ⟨r, hr, hone⟩ := htiles x (by omega) hx
    refine ⟨r, by simpa [rawRegions] using hr, fun r' g hg => ?_⟩
    obtain ⟨raw, hraw, rfl⟩ : ∃ raw, (rawRegions b (byteAt b 1))[r']? = some raw ∧ raw.judged = g := by
      simpa [imageOf] using hg
    rw [← hone r' raw hraw]
    exact decide_eq_true_iff
  · have hmap : (imageOf b).regions.map (·.blocks) = (rawRegions b (byteAt b 1)).map (·.blocks) := by
      simp [imageOf, RawRegion.judged]
    rw [hmap]; omega
  · intro g hg
    obtain ⟨raw, hraw, rfl⟩ := List.mem_map.mp hg
    obtain ⟨-, hpolicy⟩ := hown raw hraw
    obtain ⟨-, hcount, hend⟩ := hrun raw hraw
    have haf' := List.findIdx?_eq_none_iff.mp haf raw hraw
    have hage' := List.findIdx?_eq_none_iff.mp hage raw hraw
    have hstall' := List.findIdx?_eq_none_iff.mp hstall raw hraw
    rw [judged_policy_staged]
    refine ⟨hpolicy, fun h0 => ?_, by simpa [RawRegion.judged] using hage', ?_, hcount, hend⟩
    · have hroom : ¬raw.blocks * 64 ≤ raw.af := fun hle => by simp [h0, blockEntries, hle] at haf'
      exact Nat.lt_of_not_le hroom
    · simpa [RawRegion.judged, Nat.pos_iff_ne_zero] using hstall'

/-- Settles O58: what passes is lawful, the checks decide in their order, and what SPARES asks. -/
theorem validImagesTileTheWindow : Obligations.ValidImagesTileTheWindow := by
  refine ⟨fun sparesBad b im hspares hvalid => validateImage_valid_lawful hspares hvalid, fun sparesBad b => ?_,
    fun s n => ⟨by simp [sparesTooMany], ?_⟩⟩
  · have hfirst : ∀ r, byteAt b (4 + 10 * r) + 256 * byteAt b (4 + 10 * r + 1)
        = (rawRegionAt b r).first := fun r => by simp only [rawRegionAt, field_two]
    have hcount : ∀ r, byteAt b (6 + 10 * r) + 256 * byteAt b (6 + 10 * r + 1)
        = (rawRegionAt b r).count := fun r => by
      have : 6 + 10 * r = 4 + 10 * r + 2 := by omega
      simp only [rawRegionAt, field_two, this]
    have haf : ∀ r, byteAt b (10 + 10 * r) + 256 * byteAt b (10 + 10 * r + 1)
        = (rawRegionAt b r).af := fun r => by
      have : 10 + 10 * r = 4 + 10 * r + 6 := by omega
      simp only [rawRegionAt, field_two, this]
    have hpolicy : ∀ r, byteAt b (8 + 10 * r) = (rawRegionAt b r).policyByte := fun r => by
      have : 8 + 10 * r = 4 + 10 * r + 4 := by omega
      simp only [rawRegionAt, this]
    have hblocks : ∀ r, byteAt b (9 + 10 * r) = (rawRegionAt b r).blocks := fun r => by
      have : 9 + 10 * r = 4 + 10 * r + 5 := by omega
      simp only [rawRegionAt, this]
    have hage : ∀ r, byteAt b (12 + 10 * r) = (rawRegionAt b r).ageCode := fun r => by
      have : 12 + 10 * r = 4 + 10 * r + 8 := by omega
      simp only [rawRegionAt, this]
    have hstall : ∀ r, byteAt b (13 + 10 * r) = (rawRegionAt b r).stallLimit := fun r => by
      have : 13 + 10 * r = 4 + 10 * r + 9 := by omega
      simp only [rawRegionAt, this]
    have hbyte : ∀ i, (b[i]?.getD 0).toNat = byteAt b i := fun i => (byteAt_eq b i).symm
    dsimp only
    simp only [hbyte]
    simp only [hfirst, hcount, haf, hpolicy, hblocks, hage, hstall, decide_eq_true_eq, decide_eq_false_iff_not]
    split_ifs with h1 h2 h3 h4 h5
    · unfold validateImage; dsimp only; rw [if_pos h1]
    · unfold validateImage; dsimp only; rw [if_neg h1, if_pos h2]
    · unfold validateImage; dsimp only; rw [if_neg h1, if_neg h2, if_pos h3]
    · unfold validateImage; dsimp only; rw [if_neg h1, if_neg h2, if_neg h3, if_pos h4]
    · unfold validateImage; dsimp only; rw [if_neg h1, if_neg h2, if_neg h3, if_neg h4, if_pos h5]
    · have hhead : HeadPasses sparesBad b :=
        ⟨by omega, by omega, by simpa using h2, by omega, by omega, by simpa using h4, by omega⟩
      refine ⟨fun r hr => validateImage_tiling hhead hr, fun ht => ⟨fun r hr => validateImage_blocks hhead ht hr,
        fun hb => ⟨fun r hr => validateImage_af hhead ht hb hr, fun ha => ⟨fun r hr => validateImage_age hhead ht hb ha hr,
        fun hg => ⟨fun r hr => validateImage_stall hhead ht hb ha hg hr, fun hs => ?_⟩⟩⟩⟩⟩
      rw [validateImage_accepts hhead ht hb ha hg hs]
      simp [imageOf, rawRegions, RawRegion.judged, hhead.version, Function.comp_def]
  · unfold State.sparesRefused
    simp

end Sys2Proof.Machine

/-! Settles O59: a control record's words read back. The record's fields stand at their offsets in its bytes, and in every
run of its words that reaches past them. -/

namespace Sys2Proof.Machine

/-! ### Slices -/

/-- The bytes `x` stand at offset `o` of `b`. -/
def Slice (b : List Byte) (o : Nat) (x : List Byte) : Prop := ∃ a c, b = a ++ x ++ c ∧ a.length = o

theorem Slice.field {b x : List Byte} {o : Nat} (h : Slice b o x) : field b o x.length = leNat x := by
  obtain ⟨a, c, rfl, rfl⟩ := h
  simp [Machine.field]

theorem Slice.take_drop {b x : List Byte} {o : Nat} (h : Slice b o x) : (b.drop o).take x.length = x := by
  obtain ⟨a, c, rfl, rfl⟩ := h
  simp

theorem Slice.byteAt {b : List Byte} {o : Nat} {x : Byte} (h : Slice b o [x]) : byteAt b o = x.toNat := by
  obtain ⟨a, c, rfl, rfl⟩ := h
  simp [Machine.byteAt, List.getD_eq_getElem?_getD]

/-- A slice of a slice. -/
theorem Slice.trans {b x y : List Byte} {o i : Nat} (h : Slice b o x) (hy : Slice x i y) : Slice b (o + i) y := by
  obtain ⟨a, c, rfl, rfl⟩ := h
  obtain ⟨a', c', rfl, rfl⟩ := hy
  exact ⟨a ++ a', c' ++ c, by simp, by simp⟩

/-- A run of the bytes that reaches past a slice holds it. -/
theorem Slice.take {b x : List Byte} {o n : Nat} (h : Slice b o x) (hn : o + x.length ≤ n) : Slice (b.take n) o x := by
  obtain ⟨a, c, rfl, rfl⟩ := h
  refine ⟨a, c.take (n - (a ++ x).length), ?_, rfl⟩
  rw [List.take_append, List.take_of_length_le (by simpa using hn)]

theorem Slice.le {b x : List Byte} {o : Nat} (h : Slice b o x) : o + x.length ≤ b.length := by
  obtain ⟨a, c, rfl, rfl⟩ := h
  simp

theorem flatMap_length_const {α : Type} (f : α → List Byte) {w : Nat} (hf : ∀ a, (f a).length = w) (l : List α) :
    (l.flatMap f).length = w * l.length := by
  induction l with
  | nil => simp
  | cons a t ih => simp [hf, ih, Nat.mul_succ, Nat.add_comm]

/-- The k-th block of a run of equally long blocks. -/
theorem slice_flatMap {α : Type} (f : α → List Byte) {w : Nat} (hf : ∀ a, (f a).length = w) {l : List α} {k : Nat}
    (hk : k < l.length) : Slice (l.flatMap f) (w * k) (f l[k]) := by
  refine ⟨(l.take k).flatMap f, (l.drop (k + 1)).flatMap f, ?_, ?_⟩
  · calc l.flatMap f = (l.take k ++ l.drop k).flatMap f := by rw [List.take_append_drop]
      _ = (l.take k).flatMap f ++ f l[k] ++ (l.drop (k + 1)).flatMap f := by
        rw [List.flatMap_append, List.drop_eq_getElem_cons hk, List.flatMap_cons, List.append_assoc]
  · rw [flatMap_length_const f hf, List.length_take, Nat.min_eq_left (by omega)]

/-! ### Words and bytes -/

/-- The low and high byte of a word put together from two bytes. -/
theorem wordsToBytes_pair (x y : Byte) (t : List Word) : wordsToBytes ((y ++ x : BitVec 16) :: t) = x :: y :: wordsToBytes t := by
  have hbit : ∀ i, (y ++ x : BitVec 16).getLsbD i = if i < 8 then x.getLsbD i else y.getLsbD (i - 8) := fun i =>
    BitVec.getLsbD_append (n := 8) (m := 8)
  have hlow : ((y ++ x : BitVec 16)).setWidth 8 = x := by
    refine BitVec.eq_of_getLsbD_eq fun i hi => ?_
    rw [BitVec.getLsbD_setWidth, hbit, if_pos hi]
    simp [hi]
  have hhigh : (((y ++ x : BitVec 16)) >>> 8).setWidth 8 = y := by
    refine BitVec.eq_of_getLsbD_eq fun i hi => ?_
    rw [BitVec.getLsbD_setWidth, BitVec.getLsbD_ushiftRight, hbit, if_neg (by omega)]
    simp [hi]
  simp only [wordsToBytes, List.flatMap_cons, hlow, hhigh]
  rfl

/-- The words of bytes spell them again, with FFh after an odd number of them (R137). -/
theorem wordsToBytes_bytesToWords (b : List Byte) : wordsToBytes (bytesToWords b)
    = b ++ (if b.length % 2 = 0 then [] else [0xFF]) := by
  induction b using bytesToWords.induct with
  | case1 => rfl
  | case2 x => exact wordsToBytes_pair x 0xFF []
  | case3 x y t ih =>
    rw [bytesToWords, wordsToBytes_pair, ih]
    have hpar : (x :: y :: t).length % 2 = t.length % 2 := by simp only [List.length_cons]; omega
    rw [hpar]
    rfl

theorem bytesToWords_length (b : List Byte) : (bytesToWords b).length = (b.length + 1) / 2 := by
  induction b using bytesToWords.induct with
  | case1 => rfl
  | case2 x => simp [bytesToWords]
  | case3 x y t ih => simp only [bytesToWords, List.length_cons, ih]; omega

theorem wordsToBytes_take (ws : List Word) (k : Nat) : wordsToBytes (ws.take k) = (wordsToBytes ws).take (2 * k) := by
  induction ws generalizing k with
  | nil => simp [wordsToBytes]
  | cons w t ih =>
    cases k with
    | zero => simp [wordsToBytes]
    | succ k =>
      have h2 : 2 * (k + 1) = 2 * k + 1 + 1 := by omega
      have hcons : ∀ u : List Word, wordsToBytes (w :: u) = w.setWidth 8 :: (w >>> 8).setWidth 8 :: wordsToBytes u :=
        fun _ => rfl
      rw [List.take_succ_cons, hcons, hcons, ih, h2, List.take_succ_cons, List.take_succ_cons]

/-! ### The fields of a record's bytes (section 13.4) -/

theorem encodeRegion_length (g : RegionRec) : (encodeRegion g).length = 10 := by simp [encodeRegion]

theorem encodeRange_length (p : ProtRange) : (encodeRange p).length = 4 := by simp [encodeRange]

theorem encodeRemap_length (e : RemapEntry) : (encodeRemap e).length = 3 := by simp [encodeRemap]

/-- The offsets of a record's fields: length of the image, protection ranges and remap entries. -/
structure RecordAt (b : List Byte) (r : ControlRecord) (li p m : Nat) : Prop where
  tag        : Slice b 0 (leBytes 2 recordTag)
  generation : Slice b 2 (leBytes 4 r.generation)
  imageSize  : Slice b 6 [BitVec.ofNat 8 li]
  image      : Slice b 7 (encodeImage r.image)
  ranges     : Slice b (7 + li) [BitVec.ofNat 8 p]
  protection : Slice b (8 + li) (r.protection.flatMap encodeRange)
  entries    : Slice b (8 + li + 4 * p) [BitVec.ofNat 8 m]
  remap      : Slice b (9 + li + 4 * p) (r.remap.flatMap encodeRemap)
  bad        : Slice b (9 + li + 4 * p + 3 * m) (leBytes 4 r.bad.toNat)
  body       : Slice b 0 (recordBody r)
  crc        : Slice b (13 + li + 4 * p + 3 * m) (leBytes 2 (crc16 (recordBody r)).toNat)

theorem recordBody_length (r : ControlRecord) : (recordBody r).length
    = 13 + (encodeImage r.image).length + 4 * r.protection.length + 3 * r.remap.length := by
  simp [recordBody, encodeMap, flatMap_length_const encodeRange encodeRange_length,
    flatMap_length_const encodeRemap encodeRemap_length]
  omega

/-- A piece of bytes put together from pieces. -/
theorem slice_flatten {ls : List (List Byte)} {k o : Nat} (hk : k < ls.length) (ho : (ls.take k).flatten.length = o) :
    Slice ls.flatten o ls[k] := by
  refine ⟨(ls.take k).flatten, (ls.drop (k + 1)).flatten, ?_, ho⟩
  calc ls.flatten = (ls.take k ++ ls.drop k).flatten := by rw [List.take_append_drop]
    _ = (ls.take k).flatten ++ ls[k] ++ (ls.drop (k + 1)).flatten := by
      rw [List.flatten_append, List.drop_eq_getElem_cons hk, List.flatten_cons, List.append_assoc]

/-- The fields of a record's body, one after another (R137). -/
def recordPieces (r : ControlRecord) : List (List Byte) :=
  [leBytes 2 recordTag, leBytes 4 r.generation, [BitVec.ofNat 8 (encodeImage r.image).length], encodeImage r.image,
    [BitVec.ofNat 8 r.protection.length], r.protection.flatMap encodeRange, [BitVec.ofNat 8 r.remap.length],
    r.remap.flatMap encodeRemap, leBytes 4 r.bad.toNat]

theorem recordBody_eq (r : ControlRecord) : recordBody r = (recordPieces r).flatten := by
  simp [recordBody, recordPieces, encodeMap]

/-- The bytes of a record, padded or not, hold its fields at their offsets. -/
theorem recordAt_recordBytes (r : ControlRecord) (pad : List Byte) : RecordAt (recordBytes r ++ pad) r
    (encodeImage r.image).length r.protection.length r.remap.length := by
  have hp := flatMap_length_const encodeRange encodeRange_length r.protection
  have hm := flatMap_length_const encodeRemap encodeRemap_length r.remap
  have hbody : Slice (recordBytes r ++ pad) 0 (recordBody r) :=
    ⟨[], leBytes 2 (crc16 (recordBody r)).toNat ++ pad, by simp [recordBytes], rfl⟩
  have hpiece : ∀ (k : Nat) (hk : k < (recordPieces r).length) {o}, ((recordPieces r).take k).flatten.length = o →
      Slice (recordBytes r ++ pad) o (recordPieces r)[k] := fun k hk o ho => by
    have hin := slice_flatten hk ho
    rw [← recordBody_eq] at hin
    simpa using hbody.trans hin
  refine ⟨hpiece 0 (by simp [recordPieces]) rfl, hpiece 1 (by simp [recordPieces]) ?_,
    hpiece 2 (by simp [recordPieces]) ?_, hpiece 3 (by simp [recordPieces]) ?_, hpiece 4 (by simp [recordPieces]) ?_,
    hpiece 5 (by simp [recordPieces]) ?_, hpiece 6 (by simp [recordPieces]) ?_, hpiece 7 (by simp [recordPieces]) ?_,
    hpiece 8 (by simp [recordPieces]) ?_, hbody, ⟨recordBody r, pad, rfl, recordBody_length r⟩⟩
  all_goals simp [recordPieces, hp, hm]
  all_goals omega

/-- A number stands little-endian at an offset. -/
theorem Slice.field_leBytes {b : List Byte} {o k v : Nat} (h : Slice b o (leBytes k v)) (hv : v < 256 ^ k) :
    Machine.field b o k = v := by
  have hf := h.field
  rwa [leBytes_length, leNat_leBytes k v hv] at hf

theorem Slice.byteAt_ofNat {b : List Byte} {o v : Nat} (h : Slice b o [BitVec.ofNat 8 v]) (hv : v < 256) :
    Machine.byteAt b o = v := by
  rw [h.byteAt, BitVec.toNat_ofNat]
  exact Nat.mod_eq_of_lt hv

/-! ### The judgement of a run of the words (R139, R149) -/

/-- The lengths that a record may have (Table 7-2). -/
structure LengthsFit (r : ControlRecord) (n : Nat) : Prop where
  generation : r.generation ≤ 0xFFFFFFFE
  regions    : (encodeImage r.image).length = 4 + 10 * n ∧ 1 ≤ n ∧ n ≤ 16
  count      : Machine.byteAt (encodeImage r.image) 1 = n
  protection : r.protection.length ≤ 8
  remap      : r.remap.length ≤ 64

theorem LengthsFit.possible {r : ControlRecord} {n : Nat} (h : LengthsFit r n) :
    imageLengthPossible (encodeImage r.image).length = true := by
  obtain ⟨hlen, hlow, hhigh⟩ := h.regions
  unfold imageLengthPossible
  rw [List.any_eq_true]
  exact ⟨n - 1, List.mem_range.mpr (by omega), by rw [hlen]; simp; omega⟩

/-- A limit that a field read so far keeps does not end the reading. -/
theorem not_limit_passed {i n a b : Nat} (h : i < n → b ≤ a) : ¬(decide (i < n) && decide (a < b)) = true := by
  rw [Bool.and_eq_true, decide_eq_true_eq, decide_eq_true_eq]
  exact fun ⟨hi, hlt⟩ => absurd (h hi) (Nat.not_le.mpr hlt)

/-- Every run of a record's bytes is read on until the last word, and then judged whole. -/
theorem judgeCopy_run {b : List Byte} {r : ControlRecord} {regions : Nat} {ws : List Word} {n : Nat}
    (hfit : LengthsFit r regions)
    (hrec : RecordAt b r (encodeImage r.image).length r.protection.length r.remap.length) (hn : n ≤ b.length)
    (hws : wordsToBytes ws = b.take n) :
    judgeCopy ws = if 14 + (encodeImage r.image).length + 4 * r.protection.length + 3 * r.remap.length < n
      then judgeWhole (b.take n) (encodeImage r.image).length r.protection.length r.remap.length else .reading := by
  obtain ⟨hlen, hlow, hhigh⟩ := hfit.regions
  have hprot := hfit.protection
  have hremap := hfit.remap
  have hgen := hfit.generation
  have hpossible := hfit.possible
  have hlength : (b.take n).length = n := by simpa using hn
  have htag : 1 < n → field (b.take n) 0 2 = recordTag := fun h =>
    (hrec.tag.take (by simp; omega)).field_leBytes (by decide)
  have hgeneration : 5 < n → field (b.take n) 2 4 = r.generation := fun h =>
    (hrec.generation.take (by simp; omega)).field_leBytes (by omega)
  have hsize : 6 < n → byteAt (b.take n) 6 = (encodeImage r.image).length := fun h =>
    (hrec.imageSize.take (by simp; omega)).byteAt_ofNat (by omega)
  have hcount : 8 < n → byteAt (b.take n) 8 = regions := fun h => by
    have hone : Slice (encodeImage r.image) 1 [BitVec.ofNat 8 r.image.regions.length] :=
      ⟨[BitVec.ofNat 8 r.image.version], _, rfl, rfl⟩
    have hin := (hrec.image.trans hone).take (n := n) (by simp; omega)
    rw [hin.byteAt, ← hone.byteAt, hfit.count]
  have hranges : 7 + (encodeImage r.image).length < n →
      byteAt (b.take n) (7 + (encodeImage r.image).length) = r.protection.length := fun h =>
    (hrec.ranges.take (by simp; omega)).byteAt_ofNat (by omega)
  have hentries : 8 + (encodeImage r.image).length + 4 * r.protection.length < n →
      byteAt (b.take n) (8 + (encodeImage r.image).length + 4 * r.protection.length) = r.remap.length := fun h =>
    (hrec.entries.take (by simp; omega)).byteAt_ofNat (by omega)
  generalize b.take n = c at *
  generalize (encodeImage r.image).length = li at *
  unfold judgeCopy
  dsimp only
  rw [hws, hlength]
  rw [if_neg (by simpa using htag), if_neg (not_limit_passed (a := generationLimit) fun h => (hgeneration h).le.trans hgen),
    if_neg (by
      rw [Bool.and_eq_true, decide_eq_true_eq]
      rintro ⟨h, hnot⟩
      rw [hsize h, hpossible] at hnot
      simp at hnot),
    if_neg (by
      rw [Bool.and_eq_true, decide_eq_true_eq]
      rintro ⟨h, hnot⟩
      rw [hsize (by omega), hcount h, hlen] at hnot
      simp at hnot)]
  by_cases h8 : 8 < n
  · rw [if_neg (by simpa using h8), hsize (by omega)]
    by_cases h7 : 7 + li < n
    · rw [hranges h7, if_neg (not_limit_passed (a := protectionLimit) fun _ => hprot), if_neg (by simpa using h7)]
      by_cases h9 : 8 + li + 4 * r.protection.length < n
      · rw [hentries h9, if_neg (not_limit_passed (a := remapLimit) fun _ => hremap), if_neg (by simpa using h9)]
        simp only [decide_eq_true_eq]
      · have hshort : ¬14 + li + 4 * r.protection.length + 3 * r.remap.length < n := by omega
        rw [if_neg (by simp [h9]), if_pos (by simpa using h9), if_neg hshort]
    · have hshort : ¬14 + li + 4 * r.protection.length + 3 * r.remap.length < n := by omega
      rw [if_neg (by simp [h7]), if_pos (by simpa using h7), if_neg hshort]
  · have hshort : ¬14 + li + 4 * r.protection.length + 3 * r.remap.length < n := by omega
    rw [if_pos (by simpa using h8), if_neg hshort]

/-! ### The record read back -/

/-- What the tables of a valid record meet (Table 7-2). -/
theorem tablesValid_iff (r : ControlRecord) : tablesValid r = true ↔
    (∀ p ∈ r.protection, 1 ≤ p.count ∧ p.first + p.count ≤ 1022)
      ∧ (∀ e ∈ r.remap, e.sector < windowOf r.image.spares) ∧ (r.remap.map (·.sector)).Nodup
      ∧ (∀ e ∈ r.remap, ∀ i, e.target = some i → i < r.image.spares ∧ r.bad.getLsbD i = false)
      ∧ (r.remap.filterMap (·.target)).Nodup := by
  unfold tablesValid
  simp only [Bool.and_eq_true, List.all_eq_true, decide_eq_true_eq, Bool.not_eq_true', List.mem_filterMap,
    forall_exists_index, and_imp, and_assoc]
  exact ⟨fun ⟨h1, h2, h3, h4, h5⟩ => ⟨h1, h2, h3, fun e he i hi => h4 i e he hi, h5⟩,
    fun ⟨h1, h2, h3, h4, h5⟩ => ⟨h1, h2, h3, fun i e he hi => h4 e he i hi, h5⟩⟩

theorem rangeAt_encodeRange {b : List Byte} {o : Nat} {p : ProtRange} (h : Slice b o (encodeRange p))
    (hfirst : p.first < 65536) (hcount : p.count < 65536) : rangeAt b o = p := by
  have h1 := (h.trans (i := 0) (y := leBytes 2 p.first) ⟨[], leBytes 2 p.count, rfl, rfl⟩).field_leBytes (by omega)
  have h2 := (h.trans (i := 2) (y := leBytes 2 p.count) ⟨leBytes 2 p.first, [], by simp [encodeRange], by simp⟩).field_leBytes
    (by omega)
  rw [rangeAt, ← Nat.add_zero o, h1, Nat.add_zero, h2]

theorem remapAt_encodeRemap {b : List Byte} {o : Nat} {e : RemapEntry} (h : Slice b o (encodeRemap e))
    (hsector : e.sector < 65536) (htarget : ∀ i, e.target = some i → i < 255) : remapAt b o = e := by
  have h1 := (h.trans (i := 0) (y := leBytes 2 e.sector) ⟨[], _, rfl, rfl⟩).field_leBytes (by omega)
  have h2 := (h.trans (i := 2) (y := [(e.target.map (BitVec.ofNat 8)).getD 0xFF])
    ⟨leBytes 2 e.sector, [], by simp [encodeRemap], by simp⟩).byteAt
  obtain ⟨sector, target⟩ := e
  rw [remapAt, ← Nat.add_zero o, h1, Nat.add_zero, h2]
  cases target with
  | none => rfl
  | some i =>
    have hi := htarget i rfl
    have hmod : i % 256 = i := Nat.mod_eq_of_lt (by omega)
    simp [hmod]; omega

/-- The list of the entries read at their offsets. -/
theorem map_range_eq {α : Type} {l : List α} {f : Nat → α} (h : ∀ k (hk : k < l.length), f k = l[k]) :
    (List.range l.length).map f = l := by
  refine List.ext_getElem (by simp) fun k h1 h2 => ?_
  simpa using h k h2

/-- A record's whole bytes are judged valid and give the record back. -/
theorem judgeWhole_recordBytes {b : List Byte} {r : ControlRecord}
    (hrec : RecordAt b r (encodeImage r.image).length r.protection.length r.remap.length)
    (hgen : r.generation ≤ 0xFFFFFFFE) (himage : validateImage sparesTooMany (encodeImage r.image) = .valid r.image)
    (htables : tablesValid r = true) :
    judgeWhole b (encodeImage r.image).length r.protection.length r.remap.length = .valid r := by
  obtain ⟨hprot, hremap, -, htargets, -⟩ := (tablesValid_iff r).mp htables
  obtain ⟨hhead, himageOf, -⟩ := validateImage_eq_valid himage
  have hspares : r.image.spares ≤ 32 := by
    have hs := hhead.spares
    have heq : r.image.spares = byteAt (encodeImage r.image) 2 := congrArg SetupImage.spares himageOf
    rw [heq]
    simpa [sparesTooMany] using hs
  have hwin : windowOf r.image.spares ≤ 1022 := Nat.sub_le _ _
  have himageBytes : (b.drop 7).take (encodeImage r.image).length = encodeImage r.image := hrec.image.take_drop
  have hbody : b.take (13 + (encodeImage r.image).length + 4 * r.protection.length + 3 * r.remap.length)
      = recordBody r := by
    rw [← recordBody_length]; simpa using hrec.body.take_drop
  have hcrc := hrec.crc.field_leBytes (crc16 (recordBody r)).isLt
  have hrecord : recordOf b (encodeImage r.image).length r.protection.length r.remap.length = r := by
    have h1 := hrec.generation.field_leBytes (by omega)
    have h2 : (List.range r.protection.length).map (fun k => rangeAt b (8 + (encodeImage r.image).length + 4 * k))
        = r.protection := map_range_eq fun k hk => by
      obtain ⟨hlow, hhigh⟩ := hprot _ (List.getElem_mem hk)
      exact rangeAt_encodeRange (hrec.protection.trans (slice_flatMap encodeRange encodeRange_length hk)) (by omega) (by omega)
    have h3 : (List.range r.remap.length).map (fun k => remapAt b (9 + (encodeImage r.image).length
        + 4 * r.protection.length + 3 * k)) = r.remap := map_range_eq fun k hk => by
      have hsector := hremap _ (List.getElem_mem hk)
      exact remapAt_encodeRemap (hrec.remap.trans (slice_flatMap encodeRemap encodeRemap_length hk)) (by omega)
        fun i hi => by have := (htargets _ (List.getElem_mem hk) i hi).1; omega
    have h4 := hrec.bad.field_leBytes r.bad.isLt
    rw [recordOf, h1, h2, h3, h4, himageBytes, ← himageOf]
    simp
  unfold judgeWhole
  dsimp only
  rw [hbody, hcrc, if_neg (by simp), himageBytes, himage, hrecord]
  simp [htables]

/-- Settles O59: the words' bytes are the record's, padded; a shorter run ends before the CRC does. -/
theorem controlRecordReadsBack : Obligations.ControlRecordReadsBack := by
  intro r hgen hprot hremap himage htables
  obtain ⟨hhead, -⟩ := validateImage_eq_valid himage
  have hfit : LengthsFit r (byteAt (encodeImage r.image) 1) :=
    ⟨hgen, ⟨hhead.length, Nat.pos_of_ne_zero hhead.some, hhead.most⟩, rfl, hprot, hremap⟩
  have hwords := wordsToBytes_bytesToWords (recordBytes r)
  have hrec := recordAt_recordBytes r (if (recordBytes r).length % 2 = 0 then [] else [0xFF])
  have hlength : (recordBytes r).length
      = 15 + (encodeImage r.image).length + 4 * r.protection.length + 3 * r.remap.length := by
    rw [recordBytes, List.length_append, recordBody_length, leBytes_length]; omega
  have hle : (recordBytes r).length
      ≤ (recordBytes r ++ (if (recordBytes r).length % 2 = 0 then [] else [0xFF]) : List Byte).length := by simp
  have hwordCount : (recordWords r).length = ((recordBytes r).length + 1) / 2 := bytesToWords_length _
  generalize hb : (recordBytes r ++ (if (recordBytes r).length % 2 = 0 then [] else [0xFF]) : List Byte) = b at *
  refine ⟨?_, fun k hk => ?_⟩
  · have hrun := judgeCopy_run (n := b.length) hfit hrec le_rfl (ws := recordWords r)
      (by rw [List.take_length]; exact hwords)
    rw [hrun, if_pos (by omega), List.take_length]
    exact judgeWhole_recordBytes hrec hgen himage htables
  · have hshort : 2 * k ≤ b.length := by omega
    have hrun := judgeCopy_run (n := 2 * k) hfit hrec hshort (ws := (recordWords r).take k)
      (by rw [wordsToBytes_take]; exact congrArg (List.take (2 * k)) hwords)
    rw [hrun, if_neg (by omega)]

end Sys2Proof.Machine

/-! Settles O5: RESET. Every block is at its reset values by definition; the flash is read off word by word from the two
operations abandoned and the sector worked on. -/

namespace Sys2Proof.Machine

theorem FlashBank.abandoned_eq (m : FlashBank) (x : RunningOp) : m.abandoned (some x)
    = if x.issued = false then m else match x.op.kind with
      | .read => m
      | .program => m.write x.op.word ((m.read x.op.word).halfProgrammed x.op.value)
      | .erase => m.loseSector x.op.psec := by
  obtain ⟨⟨kind, psec, offset, value, issuer⟩, timer, issued⟩ := x
  cases issued <;> cases kind <;> rfl

/-- What an abandoned operation makes of a word (R92): nothing unless it was issued; an ERASE loses its sector, a PROGRAM
leaves its word half programmed. -/
theorem FlashBank.read_abandoned (m : FlashBank) (x : RunningOp) (a : Nat) : (m.abandoned (some x)).read a
    = if x.issued = true ∧ x.op.kind = .erase ∧ x.op.psec = a / 2048 then .unknown
      else if x.issued = true ∧ x.op.kind = .program ∧ x.op.word = a then (m.read a).halfProgrammed x.op.value
      else m.read a := by
  rw [FlashBank.abandoned_eq]
  by_cases hi : x.issued = false
  · rw [if_pos hi, if_neg (by simp [hi]), if_neg (by simp [hi])]
  have hi' : x.issued = true := by simpa using hi
  rw [if_neg hi]
  cases hk : x.op.kind with
  | read => simp
  | program =>
    dsimp only
    rw [FlashBank.read_write]
    by_cases ha : x.op.word = a
    · rw [if_pos ha, if_neg (by simp), if_pos ⟨hi', rfl, ha⟩, ha]
    · rw [if_neg ha, if_neg (by simp), if_neg fun h => ha h.2.2]
  | erase =>
    dsimp only
    rw [FlashBank.read_loseSector, show sectorWords = 2048 from rfl]
    by_cases hp : a / 2048 = x.op.psec
    · rw [if_pos hp, if_pos ⟨hi', rfl, hp.symm⟩]
    · rw [if_neg hp, if_neg fun h => hp h.2.2.symm, if_neg (by simp)]

/-- An operation that leaves a word leaves it as it was. -/
theorem FlashBank.read_abandoned_other {m : FlashBank} {r : Option RunningOp} {a : Nat}
    (h : ∀ x, r = some x → x.issued = true → (x.op.kind = .erase → x.op.psec ≠ a / 2048) ∧ (x.op.kind = .program → x.op.word ≠ a)) :
    (m.abandoned r).read a = m.read a := by
  cases r with
  | none => rfl
  | some x =>
    rw [m.read_abandoned x a, if_neg fun ⟨hi, hk, hp⟩ => (h x rfl hi).1 hk hp,
      if_neg fun ⟨hi, hk, hp⟩ => (h x rfl hi).2 hk hp]

/-- A second abandoned PROGRAM of the same value changes no more of a word. -/
theorem FlashWord.halfProgrammed_twice (x : FlashWord) (v : Word) :
    (x.halfProgrammed v).halfProgrammed v = x.halfProgrammed v := by
  unfold FlashWord.halfProgrammed
  congr 1
  · refine BitVec.eq_of_getLsbD_eq fun i hi => ?_
    simp only [BitVec.getLsbD_and, BitVec.getLsbD_or, BitVec.getLsbD_not, hi, decide_true, Bool.true_and]
    cases x.known.getLsbD i <;> cases v.getLsbD i <;> cases x.value.getLsbD i <;> rfl
  · rw [BitVec.and_assoc, BitVec.and_self]

/-- The sector that a work item loses to a reset (R155, Table 7-3). -/
def State.Loses (s : State) (p : Nat) : Prop := s.engine.itemPhys = some p
  ∧ s.engine.phase ∈ [Phase.erase, .writeback, .relocate, .jobErase, .clearErase, .controlErase]

theorem losesSector_iff (f : Phase) :
    f.losesSector = true ↔ f ∈ [Phase.erase, .writeback, .relocate, .jobErase, .clearErase, .controlErase] := by
  cases f <;> decide

theorem flashAfterReset_lost {s : State} {a : Nat} (h : s.Loses (a / 2048)) : s.flashAfterReset.read a = .unknown := by
  obtain ⟨hp, hf⟩ := h
  unfold State.flashAfterReset
  dsimp only
  rw [hp]
  dsimp only
  rw [if_pos ((losesSector_iff _).mpr hf), FlashBank.read_loseSector]
  exact if_pos rfl

/-- Elsewhere the flash is what the abandoned operations leave. -/
theorem flashAfterReset_kept {s : State} {a : Nat} (h : ¬s.Loses (a / 2048)) :
    s.flashAfterReset.read a = (abandonOps s).flash.read a := by
  unfold State.flashAfterReset
  dsimp only
  split
  · split_ifs with hf
    · rw [FlashBank.read_loseSector]
      exact if_neg fun hp => h ⟨by rw [show a / 2048 = _ from hp]; assumption, (losesSector_iff _).mp hf⟩
    · rfl
  · rfl

theorem abandonOps_read (s : State) (a : Nat) :
    (abandonOps s).flash.read a = ((s.flash.abandoned s.port.inner).abandoned s.port.op).read a := rfl

/-- A PROGRAM of the port that is abandoned, and nothing else at its word, leaves the word half programmed. -/
theorem abandonOps_program {s : State} {x : RunningOp} (hi : x.issued = true)
    (hx : s.port.op = some x ∨ s.port.inner = some x) (hk : x.op.kind = .program)
    (hothers : ∀ y, y.issued = true → s.port.op = some y ∨ s.port.inner = some y →
      y = x ∨ (y.op.kind = .erase ∧ y.op.psec ≠ x.op.word / 2048)) :
    (abandonOps s).flash.read x.op.word = (s.flash.read x.op.word).halfProgrammed x.op.value := by
  have hmine : ∀ m : FlashBank, (m.abandoned (some x)).read x.op.word = (m.read x.op.word).halfProgrammed x.op.value :=
    fun m => by rw [m.read_abandoned, if_neg (by simp [hk]), if_pos ⟨hi, hk, rfl⟩]
  have hleft : ∀ (m : FlashBank) r, (∀ y, r = some y → y.issued = true → y.op.kind = .erase ∧ y.op.psec ≠ x.op.word / 2048) →
      (m.abandoned r).read x.op.word = m.read x.op.word := fun m r hr => FlashBank.read_abandoned_other fun y hy hiy => by
    obtain ⟨hke, hp⟩ := hr y hy hiy
    exact ⟨fun _ => hp, fun hkp => by simp [hke] at hkp⟩
  rw [abandonOps_read]
  by_cases hop : s.port.op = some x
  · rw [hop, hmine]
    by_cases hin : s.port.inner = some x
    · rw [hin, hmine, FlashWord.halfProgrammed_twice]
    · rw [hleft _ _ fun y hy hiy => (hothers y hiy (.inr hy)).resolve_left fun he => hin (he ▸ hy)]
  · rw [hleft _ _ fun y hy hiy => (hothers y hiy (.inl hy)).resolve_left fun he => hop (he ▸ hy), hx.resolve_left hop, hmine]

/-- Settles O5: the blocks by definition, and the flash by sector and operation. -/
theorem resetReturnsToResetValues : Obligations.ResetReturnsToResetValues := by
  intro s
  refine ⟨resetPart s, rfl, rfl, ?_⟩
  intro loses abandons
  refine ⟨fun a h => flashAfterReset_lost h, fun a hlose hothers => ?_, fun x a hx hk hp hop => ?_,
    fun x hx hk hlose hothers => ?_⟩
  · refine (flashAfterReset_kept hlose).trans ?_
    rw [abandonOps_read, FlashBank.read_abandoned_other fun x hx hi => hothers x ⟨hi, .inl hx⟩,
      FlashBank.read_abandoned_other fun x hx hi => hothers x ⟨hi, .inr hx⟩]
  · by_cases hlose : s.Loses (a / 2048)
    · exact flashAfterReset_lost hlose
    · refine (flashAfterReset_kept hlose).trans ?_
      rw [abandonOps_read, hop, FlashBank.read_abandoned, if_pos ⟨hx.1, hk, hp⟩]
  · exact (flashAfterReset_kept hlose).trans
      (abandonOps_program hx.1 hx.2 hk fun y hi hy => hothers y ⟨hi, hy⟩)

end Sys2Proof.Machine

/-! What the end of an event does when the engine is at work, when it takes one item, and outside CLEARING; and with it
O24 and O26: SETUP_LOAD and PROTECT. -/

namespace Sys2Proof.Machine

/-! ### What a host claim and a grant change -/

/-- `t` differs from `s` at most in the port, the engine's attempt counts and the read assembler. -/
def Grants (s t : State) : Prop :=
  t = ((s.setEngine { s.engine with eraseAttempts := t.engine.eraseAttempts
                                    programAttempts := t.engine.programAttempts }).setPort t.port).setReader t.reader

theorem grants_issueOp (o : ArrayOp) (s : State) : Grants s (issueOp o s) := by
  unfold Grants issueOp readIssued countAttempt
  dsimp only
  split <;> split_ifs <;> rfl

/-- A grant changes the port, the engine's attempt counts and the read assembler's state alone. -/
theorem grants_grant (s : State) : Grants s (grant s) := by
  unfold grant
  split_ifs
  · split
    · exact grants_issueOp _ s
    · split
      · exact grants_issueOp _ s
      · rfl
  · rfl

theorem grant_frame (s : State) : ∃ ea pa p rd, grant s = ((s.setEngine { s.engine with
    eraseAttempts := ea, programAttempts := pa }).setPort p).setReader rd := ⟨_, _, _, _, grants_grant s⟩

@[simp] theorem grant_map (s : State) : (grant s).map = s.map := by rw [grants_grant s]; rfl
@[simp] theorem grant_cru (s : State) : (grant s).cru = s.cru := by rw [grants_grant s]; rfl
@[simp] theorem grant_log (s : State) : (grant s).log = s.log := by rw [grants_grant s]; rfl
@[simp] theorem grant_queues (s : State) : (grant s).queues = s.queues := by rw [grants_grant s]; rfl
@[simp] theorem grant_host (s : State) : (grant s).host = s.host := by rw [grants_grant s]; rfl
theorem grant_engine (s : State) : ∃ ea pa, (grant s).engine
    = { s.engine with eraseAttempts := ea, programAttempts := pa } := by
  obtain ⟨ea, pa, _, _, h⟩ := grant_frame s
  exact ⟨ea, pa, by rw [h]; rfl⟩
@[simp] theorem grant_phase (s : State) : (grant s).engine.phase = s.engine.phase := by
  obtain ⟨_, _, h⟩ := grant_engine s; rw [h]
@[simp] theorem grant_item (s : State) : (grant s).engine.item = s.engine.item := by
  obtain ⟨_, _, h⟩ := grant_engine s; rw [h]
@[simp] theorem grant_itemSector (s : State) : (grant s).engine.itemSector = s.engine.itemSector := by
  obtain ⟨_, _, h⟩ := grant_engine s; rw [h]
@[simp] theorem grant_itemPhys (s : State) : (grant s).engine.itemPhys = s.engine.itemPhys := by
  obtain ⟨_, _, h⟩ := grant_engine s; rw [h]
@[simp] theorem grant_lastServed (s : State) : (grant s).engine.lastServed = s.engine.lastServed := by
  obtain ⟨_, _, h⟩ := grant_engine s; rw [h]
@[simp] theorem grant_record (s : State) : (grant s).engine.record = s.engine.record := by
  obtain ⟨_, _, h⟩ := grant_engine s; rw [h]
@[simp] theorem grant_recordGen (s : State) : (grant s).engine.recordGen = s.engine.recordGen := by
  obtain ⟨_, _, h⟩ := grant_engine s; rw [h]
@[simp] theorem grant_try2 (s : State) : (grant s).engine.try2 = s.engine.try2 := by
  obtain ⟨_, _, h⟩ := grant_engine s; rw [h]
@[simp] theorem grant_jobPending (s : State) : (grant s).engine.jobPending = s.engine.jobPending := by
  obtain ⟨_, _, h⟩ := grant_engine s; rw [h]
@[simp] theorem grant_jobSector (s : State) : (grant s).engine.jobSector = s.engine.jobSector := by
  obtain ⟨_, _, h⟩ := grant_engine s; rw [h]
@[simp] theorem grant_lastJobResult (s : State) : (grant s).engine.lastJobResult = s.engine.lastJobResult := by
  obtain ⟨_, _, h⟩ := grant_engine s; rw [h]
@[simp] theorem grant_stopped (s : State) : (grant s).engine.stopped = s.engine.stopped := by
  obtain ⟨_, _, h⟩ := grant_engine s; rw [h]
@[simp] theorem grant_cursor (s : State) : (grant s).engine.cursor = s.engine.cursor := by
  obtain ⟨_, _, h⟩ := grant_engine s; rw [h]

/-- `t` differs from `s` at most in the host port, the read assembler, the array port and the fault log. -/
def HostSide (s t : State) : Prop := ∃ h rd p l, t = (((s.setHost h).setReader rd).setPort p).setLog l

theorem HostSide.refl (s : State) : HostSide s s := ⟨s.host, s.reader, s.port, s.log, rfl⟩

theorem HostSide.trans {s t u : State} (h : HostSide s t) (h' : HostSide t u) : HostSide s u := by
  obtain ⟨_, _, _, _, rfl⟩ := h
  obtain ⟨_, _, _, _, rfl⟩ := h'
  exact ⟨_, _, _, _, rfl⟩

theorem HostSide.mc {s t : State} (h : HostSide s t) : t.mc = s.mc := by obtain ⟨_, _, _, _, rfl⟩ := h; rfl
theorem HostSide.map {s t : State} (h : HostSide s t) : t.map = s.map := by obtain ⟨_, _, _, _, rfl⟩ := h; rfl
theorem HostSide.cru {s t : State} (h : HostSide s t) : t.cru = s.cru := by obtain ⟨_, _, _, _, rfl⟩ := h; rfl
theorem HostSide.engine {s t : State} (h : HostSide s t) : t.engine = s.engine := by obtain ⟨_, _, _, _, rfl⟩ := h; rfl
theorem HostSide.queues {s t : State} (h : HostSide s t) : t.queues = s.queues := by obtain ⟨_, _, _, _, rfl⟩ := h; rfl
theorem HostSide.image {s t : State} (h : HostSide s t) : t.image = s.image := by obtain ⟨_, _, _, _, rfl⟩ := h; rfl
theorem HostSide.flash {s t : State} (h : HostSide s t) : t.flash = s.flash := by obtain ⟨_, _, _, _, rfl⟩ := h; rfl
theorem HostSide.stall {s t : State} (h : HostSide s t) : t.stall = s.stall := by obtain ⟨_, _, _, _, rfl⟩ := h; rfl
theorem HostSide.setup {s t : State} (h : HostSide s t) : t.setup = s.setup := by obtain ⟨_, _, _, _, rfl⟩ := h; rfl
theorem HostSide.window {s t : State} (h : HostSide s t) : t.window = s.window := by obtain ⟨_, _, _, _, rfl⟩ := h; rfl

theorem hostSide_completeAccess (e : Bool) (d : Option Word) (s : State) : HostSide s (completeAccess e d s) := by
  obtain ⟨x, hx⟩ := completeAccess_eq e d s
  exact ⟨x, s.reader, s.port, s.log, hx⟩

theorem hostSide_port (s : State) (p : ArrayPort) : HostSide s (s.setPort p) := ⟨s.host, s.reader, p, s.log, rfl⟩

theorem hostSide_report (f : FaultReport) (s : State) : HostSide s (report f s) :=
  ⟨s.host, s.reader, s.port, _, rfl⟩

/-- The grant of a host's operation leaves the engine. -/
theorem hostSide_issueOp {o : ArrayOp} (ho : o.issuer.ofHost = true) (s : State) : HostSide s (issueOp o s) := by
  have hcount : HostSide s (countAttempt o s) := by
    unfold countAttempt
    split
    · simp_all [Issuer.ofHost]
    · simp_all [Issuer.ofHost]
    · exact hostSide_port _ _
    · exact .refl s
  obtain ⟨_, _, _, _, hc⟩ := hcount
  unfold issueOp readIssued
  dsimp only
  rw [hc]
  split_ifs <;> exact ⟨_, _, _, _, rfl⟩

/-- A host claim, with its grant or the SUSPEND that it asks for. -/
theorem hostSide_raiseHostClaim {o : ArrayOp} (ho : o.issuer.ofHost = true) (s : State) :
    HostSide s (raiseHostClaim o s) := by
  have hgrant : HostSide s (grant (s.setPort { s.port with hostClaim := some o })) := by
    unfold grant
    split_ifs
    · exact (hostSide_port _ _).trans (hostSide_issueOp ho _)
    · exact hostSide_port _ _
  refine hgrant.trans ?_
  unfold raiseHostClaim considerSuspend
  split_ifs
  · exact hostSide_port _ _
  · exact .refl _

/-- The accesses held on a sector go on without a touch of the rest of the part (R57, R110). -/
theorem hostSide_releaseHolds (x : Nat) (s : State) : HostSide s (releaseHolds x s) := by
  have hreader : ∀ (u : State) rd, HostSide u (u.setReader rd) := fun u rd => ⟨u.host, rd, u.port, u.log, rfl⟩
  have hread : HostSide s (releaseHeldRead x s) := by
    unfold releaseHeldRead; split
    · split_ifs
      · split
        · exact (hreader _ _).trans (hostSide_raiseHostClaim rfl _)
        · exact (hreader _ _).trans (hostSide_completeAccess _ _ _)
      · exact .refl s
    · exact .refl s
  refine hread.trans ?_
  unfold releaseHolds
  generalize releaseHeldRead x s = u
  unfold releaseHeldWrite; split
  · split_ifs
    · split
      · exact (hostSide_port _ _).trans (hostSide_raiseHostClaim rfl _)
      · exact ((hostSide_report _ _).trans (hostSide_port _ _)).trans (hostSide_completeAccess _ _ _)
    · exact .refl u
  · exact .refl u

/-! ### The end of an event by what the engine does -/

@[simp] theorem startTry_phase (s : State) : (startTry s).engine.phase = .controlErase := rfl
@[simp] theorem startTry_item (s : State) : (startTry s).engine.item = s.engine.item := rfl
@[simp] theorem startTry_map (s : State) : (startTry s).map = s.map := rfl
@[simp] theorem startTry_cru (s : State) : (startTry s).cru = s.cru := rfl

theorem drain_frame (s : State) : ∃ m, drain s = s.setMc { s.mc with mode := m } := by
  unfold drain; split_ifs
  · exact ⟨_, rfl⟩
  · exact ⟨s.mc.mode, rfl⟩

/-- HELD takes selections as HOLDING does. -/
theorem drain_maySelect (s : State) : (drain s).maySelect = s.maySelect := by
  unfold drain; split_ifs with h
  · simp [State.maySelect, h.1]
  · rfl

theorem drain_of_mode {s : State} (h : s.mc.mode ≠ .holding) : drain s = s := if_neg fun hm => h hm.1

theorem selectOnce_of_busy {s : State} (h : s.maySelect = false) : selectOnce s = none := by
  rw [selectOnce, if_pos (by simp [h])]

theorem maySelect_of_phase {s : State} (h : s.engine.phase ≠ .idle) : s.maySelect = false := by
  simp [State.maySelect, h]

/-- An engine at work, or stopped, takes nothing at the end of an event. -/
theorem settle_of_busy {s : State} (h : s.maySelect = false) : settle s = grant (drain s) := by
  unfold settle
  rw [selectItems_of_none (selectOnce_of_busy (by rw [drain_maySelect, h]))]

theorem selectItems_of_some {s t : State} (h : selectOnce s = some t) (n : Nat) :
    selectItems (n + 1) s = selectItems n t := by
  rw [selectItems, h]

/-- A selection whose item goes to work is the last of its event. -/
theorem settle_of_started {s t : State} (h : selectOnce (drain s) = some t) (hbusy : t.maySelect = false) :
    settle s = grant t := by
  unfold settle selectionsPerEvent
  rw [selectItems_of_some h, selectItems_of_none (selectOnce_of_busy hbusy)]

/-- With the update-pending flag set the CONTROL_UPDATE comes first (R66). -/
theorem selectOnce_update {s : State} (h : s.maySelect = true) (hp : s.cru.updatePending = true) :
    selectOnce s = some (startUpdate s) := by
  rw [selectOnce, if_neg (by simp [h]), if_pos hp]

/-- Below the generation limit a CONTROL_UPDATE goes to work with the live tables' record (R88). -/
theorem startUpdate_eq {s : State} (h : s.cru.generation < generationLimit) : startUpdate s
    = startTry ((s.setCru { s.cru with updatePending := false }).setEngine { s.engine with
        item := .controlUpdate, itemPhys := some (copySector (targetCopy s.cru.current)), try2 := false
        record := recordWords (s.liveRecord
          (s.image.getD { version := 0, spares := 0, suspendLimit := 0, regions := [] }))
        recordGen := s.cru.generation + 1 }) := by
  unfold startUpdate
  dsimp only
  rw [if_neg (by exact Nat.not_le.mpr h)]
  rfl

/-! ### What the end of an event leaves outside CLEARING -/

/-- `P` is kept by what ends an event outside CLEARING. -/
structure Calm (P : State → Prop) : Prop extends Claims P where
  update : ∀ s, s.cru.updatePending = true → P s → P (startUpdate s)
  gather : ∀ r x s, P s → P (gatherEntries r x s)
  held   : ∀ s, P s → P (s.setMc { s.mc with mode := .held })
  holds  : ∀ x s, P s → P (releaseHolds x s)

namespace Calm

variable {P : State → Prop} (h : Calm P) {s : State} (hs : P s)
include h hs

theorem startCommit (r : Nat) : P (startCommit r s) := by
  unfold Machine.startCommit; dsimp only
  split
  · exact h.endEmptyCommit (h.engine _ _ hs)
  · split_ifs
    · exact h.engineRead (h.engine _ _ (h.gather _ _ _ (h.engine _ _ hs))) _
    · exact h.enterLoad (h.engine _ _ (h.gather _ _ _ (h.engine _ _ hs)))

theorem startJob : P (startJob s) := by
  unfold Machine.startJob; dsimp only; split_ifs
  · exact h.engineErase (h.engine _ _ hs) _ _
  · exact h.holds _ _ (h.engine _ _ hs)

theorem selectOnce {t : State} (hm : s.mc.mode ≠ .clearing) (ht : selectOnce s = some t) : P t := by
  unfold Machine.selectOnce at ht
  split_ifs at ht with _ hp
  · cases ht; exact h.update s hp hs
  · cases ht; exact h.startJob hs
  · obtain ⟨r, -, rfl⟩ := Option.map_eq_some_iff.mp ht
    exact h.startCommit hs r

theorem selectItems (hm : s.mc.mode ≠ .clearing) (n : Nat) : P (selectItems n s) := by
  induction n generalizing s with
  | zero => exact hs
  | succ n ih =>
    unfold Machine.selectItems; split
    · rename_i t ht
      exact ih (h.selectOnce hs hm ht) (by rw [(selectOnce_mc ht).1 hm]; exact hm)
    · exact hs

theorem settle (hm : s.mc.mode ≠ .clearing) : P (settle s) := by
  refine h.grant (h.selectItems ?_ ?_ _) <;> unfold drain <;> split_ifs
  · exact h.held _ hs
  · exact hs
  · simp
  · exact hm

end Calm

theorem startUpdate_map (s : State) : (startUpdate s).map = s.map := by
  unfold startUpdate; dsimp only; split_ifs
  · rfl
  · exact startTry_map _

theorem releaseHolds_map (x : Nat) (s : State) : (releaseHolds x s).map = s.map := (hostSide_releaseHolds x s).map

theorem releaseHolds_cru (x : Nat) (s : State) : (releaseHolds x s).cru = s.cru := (hostSide_releaseHolds x s).cru

theorem releaseHolds_engine (x : Nat) (s : State) : (releaseHolds x s).engine = s.engine := (hostSide_releaseHolds x s).engine

/-- Outside CLEARING the end of an event leaves the sector map. -/
theorem settle_map {s : State} (h : s.mc.mode ≠ .clearing) : (settle s).map = s.map :=
  Calm.settle (P := fun t => t.map = s.map)
    { engine := fun _ _ h => h, reading := fun _ h => h, port := fun _ _ _ _ _ _ h => h
      update := fun t _ h => (startUpdate_map t).trans h, gather := fun _ _ _ h => h
      held := fun _ h => h, holds := fun x t h => (releaseHolds_map x t).trans h } rfl h

/-- What a selection starts leaves the last served region. -/
theorem selectOnce_lastServed {s t : State} (ht : selectOnce s = some t) :
    t.engine.lastServed = s.engine.lastServed := by
  unfold selectOnce at ht
  split_ifs at ht
  · cases ht
    unfold startUpdate; dsimp only; split_ifs <;> rfl
  · cases ht
    unfold startJob; dsimp only; split_ifs
    · rfl
    · unfold endJob; dsimp only; rw [releaseHolds_engine]; rfl
  · cases ht
    unfold startClearStep; dsimp only; split_ifs <;> rfl
  · obtain ⟨r, -, rfl⟩ := Option.map_eq_some_iff.mp ht
    unfold startCommit; dsimp only; split
    · rfl
    · split_ifs <;> rfl

theorem selectItems_lastServed (n : Nat) (s : State) : (selectItems n s).engine.lastServed = s.engine.lastServed := by
  induction n generalizing s with
  | zero => rfl
  | succ n ih =>
    unfold selectItems; split
    · exact (ih _).trans (selectOnce_lastServed ‹_›)
    · rfl

theorem drain_engine (s : State) : (drain s).engine = s.engine := by unfold drain; split_ifs <;> rfl
theorem drain_cru (s : State) : (drain s).cru = s.cru := by unfold drain; split_ifs <;> rfl

theorem settle_lastServed (s : State) : (settle s).engine.lastServed = s.engine.lastServed := by
  rw [settle, grant_lastServed, selectItems_lastServed, drain_engine]

/-- The end of an event adds no queue and removes none. -/
theorem work_queueCount (n : Nat) : Work fun t => t.queues.length = n :=
  { engine := fun _ _ h => h, reading := fun _ h => h, port := fun _ _ _ _ _ _ h => h, failed := fun _ _ _ _ h => h
    gather := fun _ _ _ h => by simpa [gatherEntries, updateQueue] using h
    map := fun _ _ h => h, cru := fun _ _ _ h => h, control := fun _ _ _ h => h, held := fun _ h => h
    holds := fun x s h => by obtain ⟨_, _, _, _, hx⟩ := hostSide_releaseHolds x s; rw [hx]; exact h }

/-! ### SETUP_LOAD (R161, R163, R188) -/

theorem contents_eq_nil {s : State} {r : Nat} : s.contents r = [] ↔ s.queue r = [] := by
  simp [State.contents]

/-- The queues of an image that has just been applied hold nothing and carry no mark. -/
theorem emptyQueues_at {s : State} {im : SetupImage} (h : s.queues = emptyQueues im) (r : Nat) :
    s.queue r = [] ∧ s.marked r = false := by
  unfold State.queue State.marked
  rw [h, emptyQueues, List.getElem?_map]
  cases im.regions[r]? <;> exact ⟨rfl, rfl⟩

@[simp] theorem refresh_count (s : State) (r : Nat) : (refresh s).count r = s.count r := rfl
@[simp] theorem setSetup_count (s : State) (x : SetupPort) (r : Nat) : (s.setSetup x).count r = s.count r := rfl
@[simp] theorem refresh_queuesEmpty (s : State) : (refresh s).queuesEmpty = s.queuesEmpty := rfl
@[simp] theorem setSetup_queuesEmpty (s : State) (x : SetupPort) : (s.setSetup x).queuesEmpty = s.queuesEmpty := rfl

/-- Settles O24: what is not valid changes nothing; the end of the event leaves what a valid image has installed. -/
theorem setupLoadAppliesValidImages : Obligations.SetupLoadAppliesValidImages := by
  intro s p hs hmode hres hlen
  obtain ⟨hawake, hsel, hquiet⟩ := hs
  have hanswers : ∀ r, s.answers r = s.replies r := fun r => if_pos hsel
  have hrun := exec_instr_hears (c := .setupLoad) (p := p) ⟨hawake, by simp [hsel], hquiet⟩ hlen
    (by simp [hsel]) (by rw [hmode]; rfl) rfl
  simp only [runCommand, SetupCommand.instr, hanswers] at hrun
  have hspares : (s.setSetup s.setup.dropPart).sparesRefused = s.sparesRefused := rfl
  rw [runSetupLoad, hspares] at hrun
  cases hv : validateImage s.sparesRefused p with
  | invalid reason region =>
    rw [hv] at hrun
    exact hrun
  | valid im =>
    rw [hv] at hrun
    dsimp only at hrun ⊢
    generalize hu : applyImage im (s.setSetup s.setup.dropPart) = u at hrun
    have hmode' : u.mc = s.mc := by rw [← hu]; rfl
    have hheld : u.mc.mode = .held := by rw [hmode', hmode]
    have hqueues : u.queues = emptyQueues im := by rw [← hu]; rfl
    have hempty : ∀ r, (settle u).queue r = [] := fun r => by
      rw [← contents_eq_nil, settle_contents, contents_eq_nil]
      exact (emptyQueues_at hqueues r).1
    have hmarked : ∀ r, (settle u).marked r = false := fun r => by
      rw [settle_marked]; exact (emptyQueues_at hqueues r).2
    have hcount : (settle u).queues.length = im.regions.length :=
      (work_queueCount _).settle (by rw [hqueues]; simp [emptyQueues])
    have hmc : (settle u).mc = s.mc := by
      rw [settle_mc (by simp [hheld]), drain_of_mode (by simp [hheld]), hmode']
    have hasks : s.engine.phase ≠ .idle → s.engine.item = .controlUpdate → (settle u).cru.updatePending = true := by
      intro hphase hitem
      rw [settle_of_busy (maySelect_of_phase (by rw [← hu]; exact hphase)), grant_cru, drain_cru, ← hu]
      change (s.cru.updatePending || s.engine.item == .controlUpdate) = true
      simp [hitem]
    have himage : (finish u).image = some im := by rw [finish_image, ← hu]; rfl
    have hstream : (finish u).stream = { s.stream with position := none, sts := 0, stsync := false } := by
      rw [finish_stream, ← hu]; rfl
    have hrest : (settle u).stall = none ∧ (settle u).engine.lastServed = none ∧ (settle u).map = s.map := by
      rw [settle_stall, settle_lastServed, settle_map (by simp [hheld]), ← hu]
      exact ⟨rfl, rfl, rfl⟩
    obtain ⟨hstall, hserved, hmap⟩ := hrest
    rw [finish_eq_settle (by rw [← hu]; exact hres)] at hrun himage hstream
    generalize settle u = v at hrun hempty hmarked hcount hmc hasks himage hstream hstall hserved hmap
    refine ⟨_, hrun, ?_, ?_, ?_, ?_, fun r => ⟨?_, ?_⟩, ?_, ?_, ?_, ?_, ?_, ?_, fun hphase hitem => ?_⟩
    · rw [refresh_setup, State.setSetup_setup]; rfl
    · rw [refresh_image, State.setSetup_image, himage]
    · rw [refresh_queuesEmpty, setSetup_queuesEmpty, queuesEmpty_iff]; exact hempty
    · rw [refresh_queues, State.setSetup_queues, hcount]
    · rw [refresh_count, setSetup_count, State.count, hempty]; rfl
    · rw [refresh_marked, setSetup_marked, hmarked]
    · rw [refresh_stall, State.setSetup_stall, hstall]
    · rw [refresh_engine, State.setSetup_engine, hserved]
    · rw [refresh_stream, State.setSetup_stream, hstream]
    · rw [refresh_map, State.setSetup_map, hmap]
    · rw [refresh_mode, State.setSetup_mc, hmc, hmode]
    · rw [refresh_refused, State.setSetup_mc, hmc]
    · rw [refresh_cru, State.setSetup_cru, hasks hphase hitem]

/-! ### PROTECT (R132, R190) -/

/-- A CONTROL_UPDATE that is asked for stays asked for, or is taken by an idle engine, at the generation limit to fail. -/
theorem settle_asksUpdate {u : State} (hp : u.cru.updatePending = true) :
    (settle u).cru.updatePending = true ∨ (u.engine.phase = .idle ∧ (settle u).engine.item = .controlUpdate)
      ∨ (u.engine.phase = .idle ∧ generationLimit ≤ u.cru.generation) := by
  cases hmay : u.maySelect with
  | false =>
    rw [settle_of_busy hmay, grant_cru, drain_cru]
    exact .inl hp
  | true =>
    have hidle : u.engine.phase = .idle := by
      by_contra hne
      rw [maySelect_of_phase hne] at hmay
      exact absurd hmay (by simp)
    by_cases hlimit : generationLimit ≤ u.cru.generation
    · exact .inr (.inr ⟨hidle, hlimit⟩)
    · refine .inr (.inl ⟨hidle, ?_⟩)
      have hone := selectOnce_update (s := drain u) (by rw [drain_maySelect, hmay]) (by rw [drain_cru, hp])
      rw [startUpdate_eq (by rw [drain_cru]; exact Nat.not_le.mp hlimit)] at hone
      rw [settle_of_started hone (maySelect_of_phase (by simp [startTry_phase])), grant_item, startTry_item]
      rfl

/-- Settles O26: the refusals are those of the rule, and an added range asks for an update. -/
theorem protectAddsRange : Obligations.ProtectAddsRange := by
  intro s a b c d hs hmode hres first count
  obtain ⟨hawake, hsel, hquiet⟩ := hs
  have hanswers : ∀ r, s.answers r = s.replies r := fun r => if_pos hsel
  have hrun := exec_instr_hears (c := .protect) (p := [a, b, c, d]) ⟨hawake, by simp [hsel], hquiet⟩ (by simp)
    (by simp [hsel]) (by rcases hmode with h | h | h <;> rw [h] <;> rfl) rfl
  simp only [runCommand, SetupCommand.instr, hanswers] at hrun
  have hfirst : field [a, b, c, d] 0 2 = first := by rw [field_two]; rfl
  have hcount : field [a, b, c, d] 2 2 = count := by rw [field_two]; rfl
  have hwindow : (s.setSetup s.setup.dropPart).window = s.window := rfl
  simp only [runProtect, hfirst, hcount, hwindow, protectionLimit] at hrun
  split_ifs at hrun ⊢ with h1 h2 h3 h4
  · exact hrun
  · exact hrun
  · exact hrun
  · exact absurd ‹_› h4
  · exact absurd ‹_› h3
  · generalize hu : addRange { first := first, count := count } (s.setSetup s.setup.dropPart) = u at hrun
    have hclear : u.mc.mode ≠ .clearing := by
      rw [← hu]
      change s.mc.mode ≠ .clearing
      rcases hmode with h | h | h <;> simp [h]
    have hfinish : finish u = settle u := finish_eq_settle (by rw [← hu]; exact hres)
    refine ⟨_, hrun, ?_, ?_, ?_⟩
    · rw [refresh_setup, State.setSetup_setup]; rfl
    · rw [refresh_map, State.setSetup_map, hfinish, settle_map hclear, ← hu]; rfl
    · rw [refresh_cru, State.setSetup_cru, refresh_engine, State.setSetup_engine, hfinish]
      have hasks := settle_asksUpdate (u := u) (by rw [← hu]; rfl)
      rw [← hu] at hasks ⊢
      exact hasks

end Sys2Proof.Machine

/-! The end of an engine operation, and with it O28 and O27: ARRAY_CLEAR and SECTOR_ERASE. -/

namespace Sys2Proof.Machine

/-! ### The end of an operation of a RUNNING port (R92) -/

/-- The part when the operation of its RUNNING port has ended: what is known of the flash, and a FREE port. -/
def State.opEnded (s : State) (x : RunningOp) (pass : Bool) (w : Word) : State :=
  (s.setFlash (s.flash.ended x.op pass w)).setPort
    { s.port with state := .free, op := none, inner := none, ackTimer := 0, suspCount := 0, consecutive := 0 }

/-- The same with the engine-side claim gone, as the engine finds it (R94). -/
def State.engineEnded (s : State) (x : RunningOp) (pass : Bool) (w : Word) : State :=
  (s.setFlash (s.flash.ended x.op pass w)).setPort
    { s.port with state := .free, op := none, inner := none, ackTimer := 0, suspCount := 0, consecutive := 0
                  engClaim := none }

theorem outstanding_runs {k : OpKind} {x : RunningOp} {o : Option RunningOp} (ho : o = some x) (hx : x.issued = true)
    (hk : x.op.kind = k) : outstanding k o = some x := by
  simp [outstanding, ho, hx, hk]

theorem reportEnd_runs {s : State} {x : RunningOp} (h : s.Runs x) (pass : Bool) (w : Word) :
    reportEnd x.op.kind pass w s = issuerEnd x.op pass w (s.opEnded x pass w) := by
  obtain ⟨-, hstate, hop, hissued⟩ := h
  simp only [reportEnd, hstate, outstanding_runs hop hissued rfl]
  rfl

theorem reportEraseEnd_runs {s : State} {x : RunningOp} (h : s.Runs x) (hk : x.op.kind = .erase) (pass : Bool) :
    reportEraseEnd pass s = issuerEnd x.op pass 0 (s.opEnded x pass 0) := by
  obtain ⟨-, hstate, hop, hissued⟩ := h
  rw [reportEraseEnd, if_pos (.inl hstate)]
  simp only [outstanding_runs hop hissued hk]
  rfl

/-- The report of the end of an ERASE. -/
theorem exec_arrayEraseEnd {s : State} {x : RunningOp} (h : s.Runs x) (hk : x.op.kind = .erase) (pass : Bool) :
    exec (.arrayEraseEnd pass) s = .next (refresh (finish (issuerEnd x.op pass 0 (s.opEnded x pass 0)))) := by
  rw [exec_awake h.1 (by simp) (by simp), effect, reportEraseEnd_runs h hk]

/-- The report of the end of a READ. -/
theorem exec_arrayReadEnd {s : State} {x : RunningOp} (h : s.Runs x) (hk : x.op.kind = .read) (w : Word) :
    exec (.arrayReadEnd w) s = .next (refresh (finish (issuerEnd x.op true w (s.opEnded x true w)))) := by
  rw [exec_awake h.1 (by simp) (by simp), effect, ← hk, reportEnd_runs h]

/-- The report of the end of a PROGRAM. -/
theorem exec_arrayProgramEnd {s : State} {x : RunningOp} (h : s.Runs x) (hk : x.op.kind = .program) (pass : Bool) :
    exec (.arrayProgramEnd pass) s = .next (refresh (finish (issuerEnd x.op pass 0 (s.opEnded x pass 0)))) := by
  rw [exec_awake h.1 (by simp) (by simp), effect, ← hk, reportEnd_runs h]

theorem issuerEnd_engine {s : State} {x : RunningOp} (h : x.op.issuer = .engine) (pass : Bool) (w : Word) :
    issuerEnd x.op pass w (s.opEnded x pass w) = engineOpEnd x.op pass w (s.engineEnded x pass w) := by
  simp only [issuerEnd, h]; rfl

/-! ### ARRAY_CLEAR (R86, R87, R165, R192) -/

/-- The sector of the next CLEAR_STEP is the lowest at or above the progress index that is not retired. -/
theorem nextToClear_eq {s : State} {k : Nat} (hk : s.mc.clearIndex ≤ k) (hw : k < s.window)
    (hlive : (s.map.translate k).isSome = true)
    (hleast : ∀ j, s.mc.clearIndex ≤ j → j < k → s.map.translate j = none) : s.nextToClear = k := by
  have hfind : (List.range s.window).find? (fun k => decide (s.mc.clearIndex ≤ k) && (s.map.translate k).isSome)
      = some k := by
    rw [List.find?_range_eq_some]
    refine ⟨by simp [hk, hlive], by simpa using hw, fun j hj => ?_⟩
    by_cases hc : s.mc.clearIndex ≤ j
    · simp [hleast j hc hj]
    · simp [hc]
  rw [State.nextToClear, hfind]; rfl

/-- With none left it is W. -/
theorem nextToClear_done {s : State} (h : ∀ j, s.mc.clearIndex ≤ j → j < s.window → s.map.translate j = none) :
    s.nextToClear = s.window := by
  have hfind : (List.range s.window).find? (fun k => decide (s.mc.clearIndex ≤ k) && (s.map.translate k).isSome)
      = none := by
    rw [List.find?_range_eq_none]
    intro j hj
    by_cases hc : s.mc.clearIndex ≤ j
    · simp [h j hc hj]
    · simp [hc]
  rw [State.nextToClear, hfind]; rfl

/-- Either a sector is left to clear, or none. -/
theorem clearStep_cases (s : State) : (∃ k, s.mc.clearIndex ≤ k ∧ k < s.window ∧ (s.map.translate k).isSome = true
      ∧ ∀ j, s.mc.clearIndex ≤ j → j < k → s.map.translate j = none)
    ∨ ∀ j, s.mc.clearIndex ≤ j → j < s.window → s.map.translate j = none := by
  by_cases h : ∃ k, s.mc.clearIndex ≤ k ∧ k < s.window ∧ (s.map.translate k).isSome = true
  · obtain ⟨hk, hw, hlive⟩ := Nat.find_spec h
    refine .inl ⟨Nat.find h, hk, hw, hlive, fun j hj hlt => ?_⟩
    have hnot := Nat.find_min h hlt
    by_contra hne
    exact hnot ⟨hj, hlt.trans hw, by simpa [Option.isSome_iff_ne_none] using hne⟩
  · refine .inr fun j hj hw => ?_
    by_contra hne
    exact h ⟨j, hj, hw, by simpa [Option.isSome_iff_ne_none] using hne⟩

/-- A selection in CLEARING takes the clear step (R66). -/
theorem selectOnce_clear {s : State} (hmay : s.maySelect = true) (hp : s.cru.updatePending = false)
    (hmode : s.mc.mode = .clearing) : selectOnce s = some (startClearStep s) := by
  rw [selectOnce, if_neg (by simp [hmay]), if_neg (by simp [hp]), if_neg (by simp [hmode]), if_pos hmode]

/-- The part with the CLEAR_STEP of sector k begun (R86). -/
def State.clearStepBegun (s : State) (k : Nat) : State :=
  engineErase .clearErase ((s.map.translate k).getD k) ((s.setMc { s.mc with clearIndex := k }).setEngine
    { s.engine with item := .clearStep, itemSector := some k })

theorem settle_clears {s : State} {k : Nat} (hmay : s.maySelect = true) (hp : s.cru.updatePending = false)
    (hmode : s.mc.mode = .clearing) (hk : s.mc.clearIndex ≤ k) (hw : k < s.window)
    (hlive : (s.map.translate k).isSome = true)
    (hleast : ∀ j, s.mc.clearIndex ≤ j → j < k → s.map.translate j = none) :
    settle s = grant (s.clearStepBegun k) := by
  have hstart : startClearStep s = s.clearStepBegun k := by
    unfold startClearStep
    rw [nextToClear_eq hk hw hlive hleast]
    exact if_neg (Nat.not_le.mpr hw)
  have hone := selectOnce_clear hmay hp hmode
  rw [hstart] at hone
  refine settle_of_started ?_ (maySelect_of_phase (by simp [State.clearStepBegun, engineErase, raiseEngineClaim]))
  rw [drain_of_mode (by simp [hmode]), hone]

/-- The completion of ARRAY_CLEAR (R87), with the CONTROL_UPDATE that it asks for begun. -/
def State.clearCompleted (s : State) : State :=
  startUpdate (completeClear (s.setMc { s.mc with clearIndex := s.window }))

theorem startUpdate_busy {s : State} (h : s.cru.generation < generationLimit) : (startUpdate s).maySelect = false := by
  rw [startUpdate_eq h]; exact maySelect_of_phase (by simp)

/-- A selection of an engine that may take one, in a state whose update is pending. -/
theorem selectOnce_completed {s : State} (hmay : s.maySelect = true) :
    selectOnce (completeClear s) = some (startUpdate (completeClear s)) := by
  refine selectOnce_update ?_ rfl
  have hidle : (s.engine.phase == .idle && !s.engine.stopped) = true := by
    simp only [State.maySelect, Bool.and_eq_true] at hmay ⊢
    exact hmay.1
  change (s.engine.phase == .idle && !s.engine.stopped && _) = true
  rw [hidle]; rfl

theorem settle_clear_completes {s : State} (hmay : s.maySelect = true) (hp : s.cru.updatePending = false)
    (hmode : s.mc.mode = .clearing) (hg : s.cru.generation < generationLimit)
    (hdone : ∀ j, s.mc.clearIndex ≤ j → j < s.window → s.map.translate j = none) :
    settle s = grant s.clearCompleted := by
  have hstart : startClearStep s = completeClear (s.setMc { s.mc with clearIndex := s.window }) := by
    unfold startClearStep
    rw [nextToClear_done hdone]
    exact if_pos le_rfl
  have hone := selectOnce_clear hmay hp hmode
  have htwo := selectOnce_completed (s := s.setMc { s.mc with clearIndex := s.window }) (by exact hmay)
  rw [hstart] at hone
  unfold settle selectionsPerEvent
  rw [drain_of_mode (by simp [hmode]), selectItems_of_some hone, selectItems_of_some htwo,
    selectItems_of_none (selectOnce_of_busy (startUpdate_busy (by exact hg)))]
  rfl

theorem clearCompleted_eq {s : State} (hg : s.cru.generation < generationLimit) :
    s.clearCompleted.mc = { s.mc with mode := .held, clearIndex := s.window }
      ∧ s.clearCompleted.map = { s.map with protection := [] } ∧ s.clearCompleted.cru.updatePending = false
      ∧ s.clearCompleted.engine.item = .controlUpdate ∧ s.clearCompleted.engine.phase = .controlErase := by
  unfold State.clearCompleted
  rw [startUpdate_eq (by exact hg)]
  exact ⟨rfl, rfl, rfl, rfl, rfl⟩

/-- What the end of a CLEAR_STEP's event leaves, by the sectors above it. -/
structure ClearGoesOn (s : State) (first : Nat) (t : State) : Prop where
  map   : t.map.remap = s.map.remap ∧ t.map.bad = s.map.bad
  next  : ∀ k, first ≤ k → k < s.window → (s.map.translate k).isSome = true →
    (∀ j, first ≤ j → j < k → s.map.translate j = none) →
    t.mc.mode = .clearing ∧ t.mc.clearIndex = k ∧ t.engine.item = .clearStep ∧ t.engine.phase = .clearErase
      ∧ t.engine.itemSector = some k ∧ t.engine.itemPhys = s.map.translate k ∧ t.map.protection = s.map.protection
  ended : (∀ j, first ≤ j → j < s.window → s.map.translate j = none) →
    t.mc.mode = .held ∧ t.mc.clearIndex = s.window ∧ t.map.protection = [] ∧ t.cru.updatePending = false
      ∧ t.engine.item = .controlUpdate ∧ t.engine.phase = .controlErase

theorem clearGoesOn_completed {s : State} {first : Nat} (hg : s.cru.generation < generationLimit)
    (hdone : ∀ j, first ≤ j → j < s.window → s.map.translate j = none) :
    ClearGoesOn s first (grant s.clearCompleted) := by
  obtain ⟨hmc, hmap, hp, hitem, hphase⟩ := clearCompleted_eq hg
  refine ⟨by rw [grant_map, hmap]; exact ⟨rfl, rfl⟩, fun k hk hw hlive _ => ?_, fun _ => ?_⟩
  · rw [hdone k hk hw] at hlive; exact absurd hlive (by simp)
  · rw [grant_mc, grant_map, grant_cru, grant_item, grant_phase, hmc, hmap]
    exact ⟨rfl, rfl, rfl, hp, hitem, hphase⟩

/-- The end of an event in CLEARING with the engine idle takes the next sector, or completes the clear. -/
theorem settle_clearGoesOn {s : State} (hmay : s.maySelect = true) (hp : s.cru.updatePending = false)
    (hmode : s.mc.mode = .clearing) (hg : s.cru.generation < generationLimit) :
    ClearGoesOn s s.mc.clearIndex (settle s) := by
  rcases clearStep_cases s with ⟨k, hk, hw, hlive, hleast⟩ | hdone
  · rw [settle_clears hmay hp hmode hk hw hlive hleast]
    refine ⟨by rw [grant_map]; exact ⟨rfl, rfl⟩, fun k' hk' hw' hlive' hleast' => ?_, fun hdone => ?_⟩
    · have hkk : k' = k := by
        rcases Nat.lt_trichotomy k' k with hlt | rfl | hlt
        · rw [hleast k' hk' hlt] at hlive'; exact absurd hlive' (by simp)
        · rfl
        · rw [hleast' k hk hlt] at hlive; exact absurd hlive (by simp)
      subst hkk
      obtain ⟨q, hq⟩ := Option.isSome_iff_exists.mp hlive'
      rw [grant_mc, grant_item, grant_phase, grant_itemSector, grant_itemPhys, grant_map]
      refine ⟨hmode, rfl, rfl, rfl, rfl, ?_, rfl⟩
      change some ((s.map.translate k').getD k') = _
      rw [hq]; rfl
    · rw [hdone k hk hw] at hlive; exact absurd hlive (by simp)
  · rw [settle_clear_completes hmay hp hmode hg hdone]
    exact clearGoesOn_completed hg hdone

/-- The part when its CLEAR_STEP's item is over and the accesses held on its sector go on (R57, R86). -/
theorem endClearStep_eq (s : State) : ∃ u, HostSide ((s.setEngine s.engine.toIdle).setMc
      { s.mc with clearIndex := s.engine.sector + 1 }) u ∧ u.host.reselect = s.host.reselect
    ∧ endClearStep s = if s.window ≤ s.engine.sector + 1 then completeClear u else u := by
  let v := (s.setEngine s.engine.toIdle).setMc { s.mc with clearIndex := s.engine.sector + 1 }
  refine ⟨releaseHolds s.engine.sector v, hostSide_releaseHolds _ v,
    congrArg Staged.reselect (releaseHolds_staged s.engine.sector v), ?_⟩
  unfold endClearStep
  dsimp only
  have hwindow : (releaseHolds s.engine.sector v).window = s.window := by
    obtain ⟨_, _, _, _, h⟩ := hostSide_releaseHolds s.engine.sector v
    rw [h]; rfl
  rw [show (releaseHolds s.engine.sector ((s.setEngine s.engine.toIdle).setMc
    { s.mc with clearIndex := s.engine.sector + 1 })).window = s.window from hwindow]

/-- A clear that is complete with its last step takes the update at once. -/
theorem settle_completeClear {s : State} (hmay : s.maySelect = true) (hg : s.cru.generation < generationLimit)
    (hlast : s.mc.clearIndex = s.window) : settle (completeClear s) = grant s.clearCompleted := by
  have hself : s.setMc { s.mc with clearIndex := s.window } = s := by rw [← hlast]; rfl
  have hone := selectOnce_completed hmay
  rw [settle_of_started (by rw [drain_of_mode (by simp [completeClear, setUpdatePending]), hone])
    (startUpdate_busy (by exact hg)), State.clearCompleted, hself]

/-- What a clear step leaves depends on the map and the window alone. -/
theorem ClearGoesOn.congr {s u t : State} {first : Nat} (h : ClearGoesOn u first t) (hmap : u.map = s.map)
    (hwindow : u.window = s.window) : ClearGoesOn s first t := by
  obtain ⟨hkept, hnext, hended⟩ := h
  simp only [hmap, hwindow] at hkept hnext hended
  exact ⟨hkept, hnext, hended⟩

/-- A CLEAR_STEP that ends, in CLEARING with no update asked for. -/
theorem finish_endClearStep {s : State} (hmode : s.mc.mode = .clearing) (hstopped : s.engine.stopped = false)
    (hp : s.cru.updatePending = false) (hg : s.cru.generation < generationLimit) (hsector : s.engine.sector < s.window)
    (hres : s.host.reselect = false) : ClearGoesOn s (s.engine.sector + 1) (finish (endClearStep s)) := by
  obtain ⟨u, hside, hu, heq⟩ := endClearStep_eq s
  have hmc : u.mc = { s.mc with clearIndex := s.engine.sector + 1 } := hside.mc
  have hmap : u.map = s.map := hside.map
  have hcru : u.cru = s.cru := hside.cru
  have hwindow : u.window = s.window := hside.window
  have hengine : u.engine = s.engine.toIdle := hside.engine
  have hmay : u.maySelect = true := by simp [State.maySelect, hengine, hmc, hmode, hstopped, Engine.toIdle]
  have hindex : u.mc.clearIndex = s.engine.sector + 1 := by rw [hmc]
  have hstep : ClearGoesOn u u.mc.clearIndex (finish (endClearStep s)) := by
    rw [heq]
    split_ifs with hlast
    · rw [finish_eq_settle (s := completeClear u) (hu.trans hres),
        settle_completeClear hmay (by rw [hcru]; exact hg) (by rw [hindex, hwindow]; omega)]
      refine clearGoesOn_completed (by rw [hcru]; exact hg) fun j hj hw => ?_
      rw [hindex] at hj
      rw [hwindow] at hw
      omega
    · rw [finish_eq_settle (hu.trans hres)]
      exact settle_clearGoesOn hmay (by rw [hcru]; exact hp) (by rw [hmc]; exact hmode) (by rw [hcru]; exact hg)
  rw [hindex] at hstep
  exact hstep.congr hmap hwindow

/-- ARRAY_CLEAR in HELD with no job pending: CLEARING begins, with the lowest sector that is not retired. -/
theorem finish_enterClearing {s : State} (hheld : s.mc.mode = .held) (hres : s.host.reselect = false) :
    (s.maySelect = false → (finish (enterClearing s)).mc.mode = .clearing ∧ (finish (enterClearing s)).mc.clearIndex = 0)
      ∧ ∀ k, s.maySelect = true → s.cru.updatePending = false → k < s.window → (s.map.translate k).isSome = true →
        (∀ j < k, s.map.translate j = none) →
        (finish (enterClearing s)).mc.mode = .clearing ∧ (finish (enterClearing s)).mc.clearIndex = k
          ∧ (finish (enterClearing s)).engine.item = .clearStep ∧ (finish (enterClearing s)).engine.phase = .clearErase
          ∧ (finish (enterClearing s)).engine.itemSector = some k
          ∧ (finish (enterClearing s)).engine.itemPhys = s.map.translate k := by
  rw [finish_eq_settle (s := enterClearing s) hres]
  have hclearing : (enterClearing s).mc.mode = .clearing := rfl
  refine ⟨fun hbusy => ?_, fun k hmay hp hw hlive hleast => ?_⟩
  · have hbusy' : (enterClearing s).maySelect = false := by
      rw [← hbusy]
      simp [State.maySelect, enterClearing, hheld]
    rw [settle_of_busy hbusy', grant_mc, drain_of_mode (by simp [hclearing])]
    exact ⟨rfl, rfl⟩
  · have hmay' : (enterClearing s).maySelect = true := by
      simp only [State.maySelect, Bool.and_eq_true] at hmay ⊢
      exact ⟨hmay.1, by simp [enterClearing]⟩
    rw [settle_clears hmay' hp hclearing (Nat.zero_le k) hw hlive fun j _ hj => hleast j hj]
    obtain ⟨q, hq⟩ := Option.isSome_iff_exists.mp hlive
    rw [grant_mc, grant_item, grant_phase, grant_itemSector, grant_itemPhys]
    refine ⟨rfl, rfl, rfl, rfl, rfl, ?_⟩
    change some ((s.map.translate k).getD k) = _
    rw [hq]; rfl

/-- Settles O28: CLEARING begins with the command, and each step's end takes the next sector or completes the clear. -/
theorem arrayClearEntersClearing : Obligations.ArrayClearEntersClearing := by
  refine ⟨fun s hs hmode hres => ?_, fun s x sector hruns hk hmode hphase hitem hsector hstopped hp hg hw => ?_⟩
  · obtain ⟨hawake, hsel, hquiet⟩ := hs
    have hanswers : ∀ r, s.answers r = s.replies r := fun r => if_pos hsel
    have hrun := exec_instr_hears (c := .arrayClear) (p := []) ⟨hawake, by simp [hsel], hquiet⟩ (by simp)
      (by simp [hsel]) (by rw [hmode]; rfl) rfl
    simp only [runCommand, SetupCommand.instr, hanswers] at hrun
    split_ifs with hjob
    · have hreply : runArrayClear (s.setSetup s.setup.dropPart) = (plainReply codeBusy, s.setSetup s.setup.dropPart) :=
        if_pos hjob
      rw [hreply] at hrun
      exact hrun
    · have hreply : runArrayClear (s.setSetup s.setup.dropPart)
          = (plainReply codeAccepted, finish (enterClearing (s.setSetup s.setup.dropPart))) := if_neg hjob
      rw [hreply] at hrun
      obtain ⟨hbusy, hfree⟩ := finish_enterClearing (s := s.setSetup s.setup.dropPart) hmode hres
      generalize finish (enterClearing (s.setSetup s.setup.dropPart)) = u at hrun hbusy hfree
      refine ⟨_, hrun, by rw [refresh_setup, State.setSetup_setup]; rfl, fun hmay => ?_, fun k hmay hp hw hlive hleast => ?_⟩
      · rw [refresh_mode, refresh_clearIndex, State.setSetup_mc]
        exact hbusy (by exact hmay)
      · rw [refresh_mode, refresh_clearIndex, refresh_engine, State.setSetup_mc, State.setSetup_engine]
        exact hfree k (by exact hmay) hp hw hlive hleast
  · obtain ⟨hruns, hissuer, hclaim, harst, hres⟩ := hruns
    have hend : issuerEnd x.op true 0 (s.opEnded x true 0) = endClearStep (s.engineEnded x true 0) := by
      have hphase' : (s.engineEnded x true 0).engine.phase = .clearErase := hphase
      rw [issuerEnd_engine hissuer]
      simp only [engineOpEnd, hk, engineErasePass, hphase']
    have hidx : (s.engineEnded x true 0).engine.sector = sector := by
      change s.engine.itemSector.getD 0 = sector
      rw [hsector]; rfl
    have hgoes := finish_endClearStep (s := s.engineEnded x true 0) hmode hstopped hp hg (by rw [hidx]; exact hw) hres
    rw [hidx] at hgoes
    refine ⟨_, exec_arrayEraseEnd hruns hk true, ?_⟩
    rw [hend]
    generalize finish (endClearStep (s.engineEnded x true 0)) = t at hgoes
    obtain ⟨⟨hremap, hbad⟩, hnext, hended⟩ := hgoes
    rw [refresh_map, refresh_mode, refresh_clearIndex, refresh_engine, refresh_cru]
    exact ⟨hremap, hbad, fun k hk => hnext k hk, fun h => hended fun j hj => h j hj⟩

/-! ### SECTOR_ERASE (R83, R84, R191) -/

theorem selectOnce_job {s : State} (hmay : s.maySelect = true) (hp : s.cru.updatePending = false)
    (hjob : s.engine.jobPending = true) (hmode : s.mc.mode ≠ .clearing) : selectOnce s = some (startJob s) := by
  rw [selectOnce, if_neg (by simp [hmay]), if_neg (by simp [hp]), if_pos (by simp [hjob, hmode])]

/-- The part with the ERASE_JOB of sector x begun (R84). -/
def State.jobBegun (s : State) (x : Nat) : State :=
  engineErase .jobErase ((s.map.translate x).getD x) (s.setEngine { s.engine with item := .eraseJob, itemSector := some x })

theorem startJob_begins {s : State} {x : Nat} (hx : s.engine.jobSector = some x) (hstart : s.jobMayStart x = true) :
    startJob s = s.jobBegun x := by
  unfold startJob
  rw [hx]
  exact if_pos hstart

theorem jobBegun_busy (s : State) (x : Nat) : (s.jobBegun x).maySelect = false :=
  maySelect_of_phase (by simp [State.jobBegun, engineErase, raiseEngineClaim])

/-- At the generation limit a CONTROL_UPDATE fails as it is taken (R88, R146). -/
theorem startUpdate_fails {s : State} (h : generationLimit ≤ s.cru.generation) : startUpdate s
    = controlFailure (copySector (targetCopy s.cru.current)) .generationLimit
        (s.setCru { s.cru with updatePending := false }) := by
  unfold startUpdate
  exact if_pos h

/-- A job that the part has accepted stays pending, and an idle engine with no update to make begins it (R66, R84). -/
theorem settle_acceptedJob {s : State} {x : Nat} (hjob : s.engine.jobPending = true)
    (hx : s.engine.jobSector = some x) (hmode : s.mc.mode = .run ∨ s.mc.mode = .held) (hstart : s.jobMayStart x = true) :
    (settle s).engine.jobPending = true ∧ (settle s).engine.jobSector = some x
      ∧ (s.maySelect = true → s.cru.updatePending = false → (settle s).engine.item = .eraseJob
        ∧ (settle s).engine.phase = .jobErase ∧ (settle s).engine.itemSector = some x
        ∧ (settle s).engine.itemPhys = s.map.translate x) := by
  have hdrain : drain s = s := drain_of_mode (by rcases hmode with h | h <;> simp [h])
  have hclear : s.mc.mode ≠ .clearing := by rcases hmode with h | h <;> simp [h]
  cases hmay : s.maySelect with
  | false =>
    rw [settle_of_busy hmay, hdrain, grant_jobPending, grant_jobSector]
    exact ⟨hjob, hx, by simp⟩
  | true =>
    cases hp : s.cru.updatePending with
    | false =>
      have hone := selectOnce_job hmay hp hjob hclear
      rw [startJob_begins hx hstart] at hone
      rw [settle_of_started (by rw [hdrain, hone]) (jobBegun_busy s x), grant_jobPending, grant_jobSector, grant_item,
        grant_phase, grant_itemSector, grant_itemPhys]
      refine ⟨hjob, hx, fun _ _ => ⟨rfl, rfl, rfl, ?_⟩⟩
      have hlive : (s.map.translate x).isSome = true := by
        simp only [State.jobMayStart, Bool.and_eq_true] at hstart
        exact hstart.2
      obtain ⟨q, hq⟩ := Option.isSome_iff_exists.mp hlive
      change some ((s.map.translate x).getD x) = _
      rw [hq]; rfl
    | true =>
      have hone := selectOnce_update hmay hp
      by_cases hg : s.cru.generation < generationLimit
      · rw [settle_of_started (by rw [hdrain, hone]) (startUpdate_busy hg), grant_jobPending, grant_jobSector,
          startUpdate_eq hg]
        exact ⟨hjob, hx, by simp⟩
      · rw [startUpdate_fails (Nat.not_lt.mp hg)] at hone
        generalize hu : controlFailure _ _ _ = u at hone
        have hfree : u.maySelect = true ∧ u.cru.updatePending = false ∧ u.engine.jobPending = true
            ∧ u.mc.mode ≠ .clearing := by rw [← hu]; exact ⟨hmay, rfl, hjob, hclear⟩
        obtain ⟨hmay', hp', hjob', hclear'⟩ := hfree
        have htwo : selectOnce u = some (u.jobBegun x) := by
          rw [selectOnce_job hmay' hp' hjob' hclear', startJob_begins (by rw [← hu]; exact hx) (by rw [← hu]; exact hstart)]
        unfold settle selectionsPerEvent
        rw [hdrain, selectItems_of_some hone, selectItems_of_some htwo,
          selectItems_of_none (selectOnce_of_busy (jobBegun_busy u x)), grant_jobPending, grant_jobSector, ← hu]
        exact ⟨hjob, hx, by simp⟩

/-- What a selection leaves when no job is pending: the host access, the read in hand, the port but for the engine's
claim, and the job fields. -/
structure Jobless (s t : State) : Prop where
  host   : t.host = s.host
  reader : t.reader = s.reader
  port   : ∃ c, t.port = { s.port with engClaim := c }
  job    : t.engine.jobPending = s.engine.jobPending ∧ t.engine.jobSector = s.engine.jobSector
    ∧ t.engine.lastJobResult = s.engine.lastJobResult

theorem Jobless.trans {s t u : State} (h : Jobless s t) (h' : Jobless t u) : Jobless s u := by
  obtain ⟨c', hc'⟩ := h'.port
  obtain ⟨c, hc⟩ := h.port
  obtain ⟨h1, h2, h3⟩ := h.job
  obtain ⟨h1', h2', h3'⟩ := h'.job
  exact ⟨h'.host.trans h.host, h'.reader.trans h.reader, ⟨c', by rw [hc', hc]⟩, h1'.trans h1, h2'.trans h2, h3'.trans h3⟩

theorem jobless_refl (s : State) : Jobless s s := ⟨rfl, rfl, ⟨s.port.engClaim, rfl⟩, rfl, rfl, rfl⟩

namespace Jobless

variable {s u : State} (h : Jobless s u)
include h

theorem cru (x : ControlUnit) : Jobless s (u.setCru x) :=
  h.trans ⟨rfl, rfl, ⟨u.port.engClaim, rfl⟩, rfl, rfl, rfl⟩
theorem mc (x : ModeControl) : Jobless s (u.setMc x) :=
  h.trans ⟨rfl, rfl, ⟨u.port.engClaim, rfl⟩, rfl, rfl, rfl⟩
theorem map (x : SectorMap) : Jobless s (u.setMap x) :=
  h.trans ⟨rfl, rfl, ⟨u.port.engClaim, rfl⟩, rfl, rfl, rfl⟩
theorem report (f : FaultReport) : Jobless s (Machine.report f u) :=
  h.trans ⟨rfl, rfl, ⟨u.port.engClaim, rfl⟩, rfl, rfl, rfl⟩
theorem gather (r x : Nat) : Jobless s (gatherEntries r x u) :=
  h.trans ⟨rfl, rfl, ⟨u.port.engClaim, rfl⟩, rfl, rfl, rfl⟩

theorem engine {e : Engine} (he : e.jobPending = u.engine.jobPending ∧ e.jobSector = u.engine.jobSector
    ∧ e.lastJobResult = u.engine.lastJobResult) : Jobless s (u.setEngine e) :=
  h.trans ⟨rfl, rfl, ⟨u.port.engClaim, rfl⟩, he⟩

theorem claim (o : ArrayOp) : Jobless s (raiseEngineClaim o u) := h.trans ⟨rfl, rfl, ⟨_, rfl⟩, rfl, rfl, rfl⟩

theorem engineErase (f : Phase) (p : Nat) : Jobless s (engineErase f p u) := by
  refine claim (engine h ?_) _
  exact ⟨rfl, rfl, rfl⟩

theorem completeClear : Jobless s (completeClear u) := cru (mc (map h _) _) _

theorem startUpdate : Jobless s (startUpdate u) := by
  by_cases hg : generationLimit ≤ u.cru.generation
  · rw [startUpdate_fails hg, controlFailure]
    exact cru (report (cru h _) _) _
  · rw [startUpdate_eq (Nat.not_le.mp hg), startTry]
    refine engineErase (engine (engine (cru h _) ?_) ?_) _ _ <;> exact ⟨rfl, rfl, rfl⟩

theorem startClearStep : Jobless s (startClearStep u) := by
  unfold Machine.startClearStep; dsimp only; split_ifs
  · exact completeClear (mc h _)
  · refine engineErase (engine (mc h _) ?_) _ _
    exact ⟨rfl, rfl, rfl⟩

theorem startCommit (r : Nat) : Jobless s (startCommit r u) := by
  unfold Machine.startCommit; dsimp only
  split
  · refine engine (engine h ?_) ?_ <;> exact ⟨rfl, rfl, rfl⟩
  · split_ifs
    · refine claim (engine (gather (engine h ?_) _ _) ?_) _ <;> exact ⟨rfl, rfl, rfl⟩
    · refine claim (engine (engine (gather (engine h ?_) _ _) ?_) ?_) _ <;> exact ⟨rfl, rfl, rfl⟩

end Jobless

theorem jobless_selectOnce {s t : State} (hjob : s.engine.jobPending = false) (ht : selectOnce s = some t) :
    Jobless s t := by
  unfold selectOnce at ht
  rw [hjob] at ht
  split_ifs at ht
  · cases ht; exact (jobless_refl s).startUpdate
  · simp_all
  · cases ht; exact (jobless_refl s).startClearStep
  · obtain ⟨r, -, rfl⟩ := Option.map_eq_some_iff.mp ht
    exact (jobless_refl s).startCommit r

theorem jobless_selectItems (n : Nat) {s : State} (hjob : s.engine.jobPending = false) :
    Jobless s (selectItems n s) := by
  induction n generalizing s with
  | zero => exact jobless_refl s
  | succ n ih =>
    unfold selectItems; split
    · have h := jobless_selectOnce hjob ‹_›
      exact h.trans (ih (h.job.1.trans hjob))
    · exact jobless_refl s

/-- The selections of an event with no job pending. -/
theorem jobless_selections {s : State} (hjob : s.engine.jobPending = false) :
    Jobless s (selectItems selectionsPerEvent (drain s)) := by
  have hdrain : Jobless s (drain s) := by
    unfold drain; split_ifs
    · exact (jobless_refl s).mc _
    · exact jobless_refl s
  exact hdrain.trans (jobless_selectItems _ (by rw [drain_engine, hjob]))

theorem settle_jobless {s : State} (hjob : s.engine.jobPending = false) : (settle s).engine.jobPending = false
    ∧ (settle s).engine.jobSector = s.engine.jobSector ∧ (settle s).engine.lastJobResult = s.engine.lastJobResult
    ∧ (settle s).host = s.host := by
  have h := jobless_selections hjob
  rw [settle, grant_jobPending, grant_jobSector, grant_lastJobResult, grant_host]
  exact ⟨h.job.1.trans hjob, h.job.2.1, h.job.2.2, h.host⟩

/-- A port that is not FREE keeps what it runs at the end of such an event, and the read in hand stays. -/
theorem settle_jobless_port {s : State} (hjob : s.engine.jobPending = false) (hport : s.port.state ≠ .free) :
    (settle s).reader = s.reader ∧ ∃ c, (settle s).port = { s.port with engClaim := c } := by
  have h := jobless_selections hjob
  obtain ⟨c, hc⟩ := h.port
  rw [settle, grant, if_neg (by rw [hc]; exact hport)]
  exact ⟨h.reader, c, hc⟩

/-- A read that waits for nothing stays as it is, and no direct write begins. -/
theorem settle_jobless_reader {s : State} (hjob : s.engine.jobPending = false) (hreader : s.reader.state ≠ .portWait)
    (hdirect : s.port.direct = none) : (settle s).reader = s.reader ∧ (settle s).port.direct = none := by
  have h := jobless_selections hjob
  obtain ⟨c, hc⟩ := h.port
  have hissue : ∀ o (u : State), u.reader = s.reader → u.port.direct = none →
      (issueOp o u).reader = s.reader ∧ (issueOp o u).port.direct = none := by
    intro o u hu hd
    have hcount : (countAttempt o u).reader = u.reader ∧ (countAttempt o u).port.direct = none := by
      unfold countAttempt; split <;> simp [hd]
    unfold issueOp readIssued
    dsimp only
    rw [if_neg (by simp [hcount.1, hu, hreader])]
    exact ⟨hcount.1.trans hu, hcount.2⟩
  rw [settle, grant]
  generalize selectItems selectionsPerEvent (drain s) = u at h hc
  have hd : u.port.direct = none := by rw [hc]; exact hdirect
  split_ifs
  · split
    · exact hissue _ u h.reader hd
    · split
      · exact hissue _ u h.reader hd
      · exact ⟨h.reader, hd⟩
  · exact ⟨h.reader, hd⟩

/-- The part when the ERASE_JOB in flight is over, before the accesses that it held go on (R84). -/
def State.jobOver (s : State) (result : JobResult) : State :=
  s.setEngine { s.engine.toIdle with jobPending := false, jobSector := none, lastJobResult := result }

theorem releaseHeldRead_free (x : Nat) {s : State} (h : s.reader.state ≠ .eraseHold) : releaseHeldRead x s = s := by
  unfold releaseHeldRead; split
  · rw [if_neg fun hx => h hx.1]
  · rfl

theorem releaseHeldWrite_none (x : Nat) {s : State} (h : s.port.direct = none) : releaseHeldWrite x s = s := by
  unfold releaseHeldWrite; rw [h]

/-- What a held read does when its hold goes (R57). -/
theorem releaseHeldRead_held {s : State} {y : ReadAccess} (h : s.reader = { state := .eraseHold, access := some y }) :
    releaseHeldRead (sectorOf y.addr) s = match s.map.translate (sectorOf y.addr) with
      | some q => claimRead { y with psec := q } s
      | none => endRead true 0xFFFF s := by
  unfold releaseHeldRead
  rw [h]
  exact if_pos ⟨rfl, rfl⟩

/-- What a held direct write does when its hold goes (R110). -/
theorem releaseHeldWrite_held {s : State} {d : DirectWrite} (h : s.port.direct = some d) (hheld : d.held = true) :
    releaseHeldWrite (sectorOf d.addr) s = match s.map.translate (sectorOf d.addr) with
      | some q => claimDirect { d with psec := q, held := false, attempts := 0 } s
      | none => endDirect true (report (refusal .retiredSector (some (s.reportRegion d)) d.addr) s) := by
  unfold releaseHeldWrite
  rw [h]
  exact if_pos ⟨hheld, rfl⟩

/-- A port whose job is over, with the host port BUSY in a read or a write that the job held. -/
structure State.JobEnding (s : State) (p : HostPins) : Prop where
  job  : s.engine.jobPending = false
  port : s.port.state = .free ∧ s.port.arst = .inactive
  host : s.host = HostPort.holds p

/-- A held read goes on when the job is over: its READ of the sector translated again, or its error (R57). -/
theorem settle_releasedRead {s : State} {p : HostPins} {y : ReadAccess} (h : s.JobEnding p)
    (hreader : s.reader = { state := .eraseHold, access := some y }) (hdirect : s.port.direct = none) :
    match s.map.translate (sectorOf y.addr) with
    | some q => (settle (releaseHolds (sectorOf y.addr) s)).host = s.host
        ∧ (settle (releaseHolds (sectorOf y.addr) s)).reader = { state := .reading, access := some { y with psec := q } }
        ∧ (settle (releaseHolds (sectorOf y.addr) s)).Issues
            { kind := .read, psec := q, offset := offsetOf y.addr, value := 0, issuer := .hostRead }
    | none => (settle (releaseHolds (sectorOf y.addr) s)).reader = { state := .idle, access := none }
        ∧ (settle (releaseHolds (sectorOf y.addr) s)).host = HostPort.presents p (some 0xFFFF) true := by
  obtain ⟨hjob, ⟨hfree, harst⟩, hhost⟩ := h
  rw [releaseHolds, releaseHeldRead_held hreader]
  cases s.map.translate (sectorOf y.addr) with
  | some q =>
    dsimp only
    rw [claimRead_free _ hfree harst, releaseHeldWrite_none _ (by exact hdirect)]
    have hkept := settle_jobless (s := (s.setReader { state := .reading, access := some { y with psec := q } }).setPort
      { s.port with state := .running, hostClaim := some (ReadAccess.op { y with psec := q })
                    op := some { op := ReadAccess.op { y with psec := q }, timer := 0, issued := true } }) hjob
    obtain ⟨hread, c, hport⟩ := settle_jobless_port (s := (s.setReader
      { state := .reading, access := some { y with psec := q } }).setPort
      { s.port with state := .running, hostClaim := some (ReadAccess.op { y with psec := q })
                    op := some { op := ReadAccess.op { y with psec := q }, timer := 0, issued := true } }) hjob (by simp)
    exact ⟨hkept.2.2.2, hread, by rw [State.Issues, hport]; exact ⟨rfl, rfl⟩⟩
  | none =>
    dsimp only
    rw [endRead, completeAccess_held (by exact hhost), releaseHeldWrite_none _ (by exact hdirect)]
    have hkept := settle_jobless (s := (s.setReader { state := .idle, access := none }).setHost
      (HostPort.presents p (some 0xFFFF) true)) hjob
    have hread := settle_jobless_reader (s := (s.setReader { state := .idle, access := none }).setHost
      (HostPort.presents p (some 0xFFFF) true)) hjob (by simp) hdirect
    exact ⟨hread.1, hkept.2.2.2⟩

/-- A held direct write goes on when the job is over: its PROGRAM of the sector translated again, or its refusal
(R110). -/
theorem settle_releasedWrite {s : State} {p : HostPins} {d : DirectWrite} (h : s.JobEnding p)
    (hdirect : s.port.direct = some d) (hheld : d.held = true) (hreader : s.reader.state = .idle) :
    match s.map.translate (sectorOf d.addr) with
    | some q => (settle (releaseHolds (sectorOf d.addr) s)).host = s.host
        ∧ (settle (releaseHolds (sectorOf d.addr) s)).port.direct
          = some { d with psec := q, held := false, attempts := 1 }
        ∧ (settle (releaseHolds (sectorOf d.addr) s)).Issues
            { kind := .program, psec := q, offset := offsetOf d.addr, value := d.value, issuer := .directWrite }
    | none => (settle (releaseHolds (sectorOf d.addr) s)).port.direct = none
        ∧ (settle (releaseHolds (sectorOf d.addr) s)).host = HostPort.presents p none true
        ∧ (s.cru.generation < generationLimit → (settle (releaseHolds (sectorOf d.addr) s)).log
          = s.log.take (refusal .retiredSector (some (s.reportRegion d)) d.addr) s.msTick) := by
  obtain ⟨hjob, ⟨hfree, harst⟩, hhost⟩ := h
  rw [releaseHolds, releaseHeldRead_free _ (by simp [hreader]), releaseHeldWrite_held hdirect hheld]
  cases s.map.translate (sectorOf d.addr) with
  | some q =>
    dsimp only
    rw [claimDirect_free (by exact hfree) rfl rfl]
    generalize hu : State.setPort s _ = u
    have hjob' : u.engine.jobPending = false := by rw [← hu]; exact hjob
    obtain ⟨-, -, -, hkept⟩ := settle_jobless hjob'
    obtain ⟨-, c, hport⟩ := settle_jobless_port hjob' (by rw [← hu]; simp)
    rw [hkept, State.Issues, hport, ← hu]
    refine ⟨rfl, rfl, rfl, ?_⟩
    simp [harst, DirectWrite.op]
  | none =>
    dsimp only
    rw [endDirect, completeAccess_held (by exact hhost)]
    generalize hu : State.setHost _ _ = u
    have hfacts : u.engine.jobPending = false ∧ u.reader.state = .idle ∧ u.port.direct = none
        ∧ u.host = HostPort.presents p none true ∧ u.cru = s.cru
        ∧ u.log = s.log.take (refusal .retiredSector (some (s.reportRegion d)) d.addr) s.msTick := by
      rw [← hu]; exact ⟨hjob, hreader, rfl, rfl, rfl, rfl⟩
    obtain ⟨hjob', hreader', hdirect', hhost', hcru, hlog⟩ := hfacts
    obtain ⟨-, hnone⟩ := settle_jobless_reader hjob' (by simp [hreader']) hdirect'
    refine ⟨hnone, (settle_jobless hjob').2.2.2.trans hhost', fun hg => ?_⟩
    rw [settle_log (by rw [hcru]; exact hg) (by simp [hreader']) (by simp [hdirect']), hlog]

/-- SECTOR_ERASE by the checks of R191. -/
theorem exec_sectorErase {s : State} (a b : Byte) (hs : s.Listens) (hmode : s.mc.mode = .run ∨ s.mc.mode = .held) :
    exec (.sectorErase [a, b]) s = .next (refresh
      ((runSectorErase [a, b] (s.setSetup s.setup.dropPart)).2.setSetup
        (s.replies (runSectorErase [a, b] (s.setSetup s.setup.dropPart)).1).setup)) := by
  obtain ⟨hawake, hsel, hquiet⟩ := hs
  have hanswers : ∀ r, s.answers r = s.replies r := fun r => if_pos hsel
  have hrun := exec_instr_hears (c := .sectorErase) (p := [a, b]) ⟨hawake, by simp [hsel], hquiet⟩ (by simp)
    (by simp [hsel]) (by rcases hmode with h | h <;> rw [h] <;> rfl) rfl
  simpa only [runCommand, SetupCommand.instr, hanswers] using hrun

/-- The checks of R191, in their order. -/
theorem runSectorErase_eq (a b : Byte) (s : State) : runSectorErase [a, b] s =
    let x := a.toNat + 256 * b.toNat
    if s.engine.jobPending = true then (plainReply codeBusy, s)
    else if s.window ≤ x then (invalidReply .sector none, s)
    else if s.inDirect x = false then (invalidReply .notDirect none, s)
    else if s.map.protects x = true then (invalidReply .protectedSector none, s)
    else if s.map.translate x = none then (invalidReply .retiredSector none, s)
    else (plainReply codeAccepted, finish (acceptJob x s)) := by
  have hx : field [a, b] 0 2 = a.toNat + 256 * b.toNat := by rw [field_two]; rfl
  simp only [runSectorErase, hx, Bool.not_eq_true', Option.isNone_iff_eq_none]

/-- The start check of R84, through the test of the region's policy. -/
theorem jobMayStart_eq (s : State) (x : Nat) : s.jobMayStart x
    = (decide (x < s.window) && s.inDirect x && !s.map.protects x && (s.map.translate x).isSome) := rfl

/-- What passes the checks of R191 passes the start check of R84. -/
theorem jobMayStart_of_checks {s : State} {x : Nat} (hw : ¬s.window ≤ x) (hdirect : ¬s.inDirect x = false)
    (hprot : ¬s.map.protects x = true) (hlive : ¬s.map.translate x = none) : s.jobMayStart x = true := by
  have hdirect' : s.inDirect x = true := by simpa using hdirect
  have hprot' : s.map.protects x = false := by simpa using hprot
  have hlive' : (s.map.translate x).isSome = true := Option.isSome_iff_ne_none.mpr hlive
  rw [jobMayStart_eq, hdirect', hprot', hlive', decide_eq_true (Nat.not_le.mp hw)]
  rfl

/-- The first half of O27: the checks in order, and the selection of the job. -/
theorem sectorErase_accepts {s : State} {a b : Byte} (hs : s.Listens) (hmode : s.mc.mode = .run ∨ s.mc.mode = .held)
    (hres : s.host.reselect = false) :
    let x := a.toNat + 256 * b.toNat
    let refused := fun (code : Byte) (payload : List Byte) =>
      exec (.sectorErase [a, b]) s = .next (refresh (s.replies { code := code, payload := payload }))
    if s.engine.jobPending = true then refused 0x82 []
    else if s.window ≤ x then refused 0x84 [0x07, 0xFF]
    else if s.inDirect x = false then refused 0x84 [0x08, 0xFF]
    else if s.map.protects x = true then refused 0x84 [0x09, 0xFF]
    else if s.map.translate x = none then refused 0x84 [0x0A, 0xFF]
    else ∃ t, exec (.sectorErase [a, b]) s = .next t ∧ t.setup = (s.replies { code := 0x81, payload := [] }).setup
      ∧ t.engine.jobPending = true ∧ t.engine.jobSector = some x
      ∧ (s.maySelect = true → s.cru.updatePending = false → t.engine.item = .eraseJob ∧ t.engine.phase = .jobErase
          ∧ t.engine.itemSector = some x ∧ t.engine.itemPhys = s.map.translate x) := by
  intro x refused
  have hrun := exec_sectorErase a b hs hmode
  have hchecks := runSectorErase_eq a b (s.setSetup s.setup.dropPart)
  dsimp only at hchecks
  rw [hchecks] at hrun
  split_ifs with h1 h2 h3 h4 h5
  · rw [if_pos (by exact h1)] at hrun; exact hrun
  · rw [if_neg (by exact h1), if_pos (by exact h2)] at hrun; exact hrun
  · rw [if_neg (by exact h1), if_neg (by exact h2), if_pos (by exact h3)] at hrun; exact hrun
  · rw [if_neg (by exact h1), if_neg (by exact h2), if_neg (by exact h3), if_pos (by exact h4)] at hrun; exact hrun
  · rw [if_neg (by exact h1), if_neg (by exact h2), if_neg (by exact h3), if_neg (by exact h4), if_pos (by exact h5)] at hrun; exact hrun
  · rw [if_neg (by exact h1), if_neg (by exact h2), if_neg (by exact h3), if_neg (by exact h4),
      if_neg (by exact h5), finish_eq_settle (by exact hres)] at hrun
    have hjob := settle_acceptedJob (s := acceptJob x (s.setSetup s.setup.dropPart)) rfl rfl hmode
      (by exact jobMayStart_of_checks h2 h3 h4 h5)
    generalize settle (acceptJob _ (s.setSetup s.setup.dropPart)) = u at hrun hjob
    refine ⟨_, hrun, by rw [refresh_setup, State.setSetup_setup]; rfl, ?_⟩
    rw [refresh_engine, State.setSetup_engine]
    exact hjob

/-- The ERASE of a job that passes ends it, and the accesses that it held go on (R57, R84, R110). -/
theorem exec_jobErase_passes {s : State} {x : RunningOp} {sector : Nat} (h : s.EngineRuns x) (hk : x.op.kind = .erase)
    (hphase : s.engine.phase = .jobErase) (hsector : s.engine.itemSector = some sector) :
    exec (.arrayEraseEnd true) s
      = .next (refresh (settle (releaseHolds sector ((s.engineEnded x true 0).jobOver .done)))) := by
  obtain ⟨hruns, hissuer, -, -, hres⟩ := h
  have hend : issuerEnd x.op true 0 (s.opEnded x true 0)
      = releaseHolds (s.engineEnded x true 0).engine.sector ((s.engineEnded x true 0).jobOver .done) := by
    have hphase' : (s.engineEnded x true 0).engine.phase = .jobErase := hphase
    rw [issuerEnd_engine hissuer]
    simp only [engineOpEnd, hk, engineErasePass, hphase']
    rfl
  have hidx : (s.engineEnded x true 0).engine.sector = sector := by
    change s.engine.itemSector.getD 0 = sector
    rw [hsector]; rfl
  rw [exec_arrayEraseEnd hruns hk true, hend, hidx,
    finish_eq_settle ((congrArg Staged.reselect (releaseHolds_staged sector
      ((s.engineEnded x true 0).jobOver .done))).trans hres)]

@[simp] theorem refresh_issues (s : State) (o : ArrayOp) : (refresh s).Issues o ↔ s.Issues o := Iff.rfl

/-- Settles O27: the checks of the rule, the selection of an accepted job, and the accesses that its end releases. -/
theorem sectorEraseAcceptsJob : Obligations.SectorEraseAcceptsJob := by
  refine ⟨fun s a b hs hmode hres => sectorErase_accepts hs hmode hres,
    fun s x sector psec hruns hwf hphase hitem hsector hop => ?_⟩
  have hexec := exec_jobErase_passes hruns (by rw [hop]; rfl) hphase hsector
  obtain ⟨-, -, -, harst, -⟩ := hruns
  have hending : ∀ p, s.host = HostPort.holds p → ((s.engineEnded x true 0).jobOver .done).JobEnding p :=
    fun p hp => ⟨rfl, ⟨rfl, harst⟩, hp⟩
  have hread : ∀ y, s.reader = { state := .eraseHold, access := some y } → s.port.direct = none →
      ((s.engineEnded x true 0).jobOver .done).reader = { state := .eraseHold, access := some y }
        ∧ ((s.engineEnded x true 0).jobOver .done).port.direct = none := fun y hr hd => ⟨hr, hd⟩
  have hwrite : ∀ d, s.port.direct = some d → ((s.engineEnded x true 0).jobOver .done).port.direct = some d :=
    fun d hd => hd
  have hkept : ((s.engineEnded x true 0).jobOver .done).map = s.map
      ∧ ((s.engineEnded x true 0).jobOver .done).flash = s.flash.eraseSector psec
      ∧ ((s.engineEnded x true 0).jobOver .done).reader = s.reader
      ∧ ((s.engineEnded x true 0).jobOver .done).host = s.host
      ∧ ((s.engineEnded x true 0).jobOver .done).cru = s.cru
      ∧ ((s.engineEnded x true 0).jobOver .done).log = s.log
      ∧ ((s.engineEnded x true 0).jobOver .done).msTick = s.msTick
      ∧ (∀ d, ((s.engineEnded x true 0).jobOver .done).reportRegion d = (s.regionOf (sectorOf d.addr)).getD d.region)
      ∧ ((s.engineEnded x true 0).jobOver .done).engine.jobPending = false
      ∧ ((s.engineEnded x true 0).jobOver .done).engine.jobSector = none
      ∧ ((s.engineEnded x true 0).jobOver .done).engine.lastJobResult = .done := by
    refine ⟨rfl, ?_, rfl, rfl, rfl, rfl, rfl, fun d => rfl, rfl, rfl, rfl⟩
    change s.flash.ended x.op true 0 = _
    rw [hop]; rfl
  generalize (s.engineEnded x true 0).jobOver .done = v at hexec hending hread hwrite hkept
  obtain ⟨hmap, hflash, hreader, hhost, hcru, hlog, htick, hregion, hpending, hnosector, hresult⟩ := hkept
  have hengine := releaseHolds_engine sector v
  obtain ⟨hjob, hjsector, hjresult, -⟩ := settle_jobless (s := releaseHolds sector v) (by rw [hengine, hpending])
  refine ⟨_, hexec, by rw [refresh_engine, hjob], by rw [refresh_engine, hjsector, hengine, hnosector],
    by rw [refresh_engine, hjresult, hengine, hresult], fun a => ?_, fun p y hrd haddr hdirect hh => ?_,
    fun p d hdirect hheld haddr hrd hh => ?_⟩
  · have hsettled : (settle (releaseHolds sector v)).flash = s.flash.eraseSector psec := by
      rw [show (settle (releaseHolds sector v)).flash = (releaseHolds sector v).flash from
        congrArg Outer.flash (settle_outer _), (hostSide_releaseHolds sector v).flash, hflash]
    rw [refresh_flash, hsettled, FlashBank.read_eraseSector hwf]
    rfl
  · obtain ⟨hrd', hdirect'⟩ := hread y hrd hdirect
    have hgoes := settle_releasedRead (hending p hh) hrd' hdirect'
    rw [haddr, hmap, hhost] at hgoes
    simp only [refresh_host, refresh_reader, refresh_issues]
    exact hgoes
  · have hgoes := settle_releasedWrite (hending p hh) (hwrite d hdirect) hheld (by rw [hreader, hrd])
    rw [haddr, hmap, hhost, hcru, hlog, htick, hregion, haddr] at hgoes
    simp only [refresh_host, refresh_port, refresh_issues, refresh_records]
    cases htr : s.map.translate sector with
    | some q => rw [htr] at hgoes; exact hgoes
    | none =>
      rw [htr] at hgoes
      obtain ⟨h1, h2, h3⟩ := hgoes
      exact ⟨h1, h2, fun hg => by rw [h3 hg]; rfl⟩

end Sys2Proof.Machine

/-! Settles O25: SETUP_STORE, and the CONTROL_UPDATE that it asks for. -/

namespace Sys2Proof.Machine

/-! ### The engine at work: its next claim is issued at the end of the event -/

/-- A FREE port with no host claim issues the engine's (R95). -/
theorem grant_engineClaim {s : State} {o : ArrayOp} (hfree : s.port.state = .free) (hhost : s.port.hostClaim = none)
    (heng : s.port.engClaim = some o) (harst : s.port.arst = .inactive) : (grant s).Issues o := by
  have hcount : ∀ u : State, u.port.arst = .inactive → (issueOp o u).Issues o := by
    intro u hu
    unfold State.Issues issueOp readIssued
    dsimp only
    split_ifs <;> simp [hu]
  unfold grant
  rw [if_pos hfree, hhost, heng]
  exact hcount s harst

theorem drain_port (s : State) : (drain s).port = s.port := by unfold drain; split_ifs <;> rfl
theorem drain_log (s : State) : (drain s).log = s.log := by unfold drain; split_ifs <;> rfl

/-- An engine at work with a claim raised in a FREE port: the end of the event issues it, and leaves the rest. -/
structure State.EngineGoesOn (s : State) (o : ArrayOp) : Prop where
  busy  : s.engine.phase ≠ .idle
  port  : s.port.state = .free ∧ s.port.hostClaim = none ∧ s.port.arst = .inactive
  claim : s.port.engClaim = some o
  calm  : s.host.reselect = false

theorem State.EngineGoesOn.issues {s : State} {o : ArrayOp} (h : s.EngineGoesOn o) : (finish s).Issues o := by
  obtain ⟨hbusy, ⟨hfree, hhost, harst⟩, hclaim, hcalm⟩ := h
  rw [finish_eq_settle hcalm, settle_of_busy (maySelect_of_phase hbusy)]
  exact grant_engineClaim (by rw [drain_port]; exact hfree) (by rw [drain_port]; exact hhost)
    (by rw [drain_port]; exact hclaim) (by rw [drain_port]; exact harst)

theorem State.EngineGoesOn.finish_eq {s : State} {o : ArrayOp} (h : s.EngineGoesOn o) :
    finish s = grant (drain s) := by
  rw [finish_eq_settle h.calm, settle_of_busy (maySelect_of_phase h.busy)]

/-! ### What selections leave when no update is asked for -/

theorem claims_log (l : FaultLog) : Claims fun t => t.log = l :=
  { engine := fun _ _ h => h, reading := fun _ h => h, port := fun _ _ _ _ _ _ h => h }

theorem claims_noDirect : Claims fun t => t.port.direct.isNone = true :=
  { engine := fun _ _ h => h, reading := fun _ h => h
    port := fun _ _ _ _ hd _ h => by rw [State.setPort_port, hd]; exact h }

theorem raiseHostClaim_log (o : ArrayOp) (s : State) : (raiseHostClaim o s).log = s.log :=
  (claims_log s.log).considerSuspend ((claims_log s.log).grant rfl)

theorem raiseHostClaim_noDirect {o : ArrayOp} (ho : o.issuer.ofHost = true) {s : State}
    (hd : s.port.direct.isNone = true) : (raiseHostClaim o s).port.direct.isNone = true :=
  claims_noDirect.raiseHostClaim hd o ho

/-- With no direct write in progress the accesses that leave their holds report nothing. -/
theorem releaseHolds_log {s : State} (x : Nat) (hd : s.port.direct.isNone = true) :
    (releaseHolds x s).log = s.log ∧ (releaseHolds x s).port.direct.isNone = true := by
  have hread : (releaseHeldRead x s).log = s.log ∧ (releaseHeldRead x s).port.direct.isNone = true := by
    unfold releaseHeldRead
    split
    · split_ifs
      · split
        · exact ⟨raiseHostClaim_log _ _, raiseHostClaim_noDirect rfl hd⟩
        · obtain ⟨p, hp⟩ := completeAccess_eq true (some 0xFFFF) (s.setReader { state := .idle, access := none })
          rw [endRead, hp]
          exact ⟨rfl, hd⟩
      · exact ⟨rfl, hd⟩
    · exact ⟨rfl, hd⟩
  rw [releaseHolds, releaseHeldWrite_none _ (by simpa using hread.2)]
  exact hread

/-- With no update asked for, a selection outside CLEARING starts none, and touches neither the control record unit nor,
with no direct write in progress, the fault log. -/
theorem calm_noUpdate (c : ControlUnit) (hc : c.updatePending = false) : Calm fun t => t.cru = c :=
  { engine := fun _ _ h => h, reading := fun _ h => h, port := fun _ _ _ _ _ _ h => h
    update := fun t hp ht => by rw [ht, hc] at hp; exact absurd hp (by simp)
    gather := fun _ _ _ h => h, held := fun _ h => h, holds := fun x t h => (releaseHolds_cru x t).trans h }

theorem calm_noReport (c : ControlUnit) (l : FaultLog) (hc : c.updatePending = false) :
    Calm fun t => t.cru = c ∧ t.log = l ∧ t.port.direct.isNone = true :=
  { engine := fun _ _ h => h, reading := fun _ h => h
    port := fun _ _ _ _ hd _ h => ⟨h.1, h.2.1, by rw [State.setPort_port, hd]; exact h.2.2⟩
    update := fun t hp ht => by rw [ht.1, hc] at hp; exact absurd hp (by simp)
    gather := fun _ _ _ h => h, held := fun _ h => h
    holds := fun x t h => by
      obtain ⟨hlog, hnone⟩ := releaseHolds_log x h.2.2
      exact ⟨(releaseHolds_cru x t).trans h.1, hlog.trans h.2.1, hnone⟩ }

theorem selectOnce_item {s t : State} (hp : s.cru.updatePending = false) (hm : s.mc.mode ≠ .clearing)
    (ht : selectOnce s = some t) : t.engine.item ≠ .controlUpdate := by
  unfold selectOnce at ht
  rw [hp] at ht
  split_ifs at ht
  · simp_all
  · cases ht
    unfold startJob; dsimp only; split_ifs
    · simp [engineErase, raiseEngineClaim]
    · rw [endJob, releaseHolds_engine]; simp [Engine.toIdle]
  · obtain ⟨r, -, rfl⟩ := Option.map_eq_some_iff.mp ht
    unfold startCommit; dsimp only; split
    · simp [endEmptyCommit, Engine.toIdle]
    · split_ifs <;> simp [engineRead, enterLoad, raiseEngineClaim, gatherEntries, updateQueue]

theorem selectItems_item (n : Nat) {s : State} (hp : s.cru.updatePending = false) (hm : s.mc.mode ≠ .clearing)
    (hi : s.engine.item ≠ .controlUpdate) : (selectItems n s).engine.item ≠ .controlUpdate := by
  induction n generalizing s with
  | zero => exact hi
  | succ n ih =>
    unfold selectItems; split
    · rename_i t ht
      have hcru : t.cru = s.cru := (calm_noUpdate s.cru hp).selectOnce rfl hm ht
      exact ih (by rw [hcru, hp]) (by rw [(selectOnce_mc ht).1 hm]; exact hm) (selectOnce_item hp hm ht)
    · exact hi

/-- The end of an event outside CLEARING with no update asked for starts none. -/
theorem settle_noUpdate {s : State} (hp : s.cru.updatePending = false) (hm : s.mc.mode ≠ .clearing)
    (hi : s.engine.item ≠ .controlUpdate) : (settle s).cru = s.cru ∧ (settle s).engine.item ≠ .controlUpdate := by
  have hm' : (drain s).mc.mode ≠ .clearing := by
    unfold drain; split_ifs
    · simp
    · exact hm
  refine ⟨(calm_noUpdate s.cru hp).settle rfl hm, ?_⟩
  rw [settle, grant_item]
  exact selectItems_item _ (by rw [drain_cru, hp]) hm' (by rw [drain_engine]; exact hi)

/-! ### SETUP_STORE (R189) -/

/-- An idle engine below the generation limit takes the update that is asked for (R88, R142 to R144). -/
theorem settle_takesUpdate {s : State} (hmay : s.maySelect = true) (hp : s.cru.updatePending = true)
    (hg : s.cru.generation < generationLimit) :
    (settle s).cru = { s.cru with updatePending := false } ∧ (settle s).engine.item = .controlUpdate
      ∧ (settle s).engine.phase = .controlErase ∧ (settle s).engine.recordGen = s.cru.generation + 1
      ∧ (settle s).engine.itemPhys = some (copySector (targetCopy s.cru.current))
      ∧ ∀ im, s.image = some im → (settle s).engine.record = recordWords (s.liveRecord im) := by
  obtain ⟨m, hm⟩ := drain_frame s
  have hone := selectOnce_update (s := drain s) (by rw [drain_maySelect, hmay]) (by rw [drain_cru, hp])
  rw [settle_of_started hone (startUpdate_busy (by rw [drain_cru]; exact hg)), startUpdate_eq (by rw [drain_cru]; exact hg),
    hm, grant_cru, grant_item, grant_phase, grant_recordGen, grant_itemPhys, grant_record]
  refine ⟨rfl, rfl, rfl, rfl, rfl, fun im him => ?_⟩
  change recordWords (s.liveRecord (s.image.getD _)) = _
  rw [him]; rfl

/-- At the limit it fails, and no other item touches the control record unit (R146). -/
theorem settle_updateFails {s : State} (hmay : s.maySelect = true) (hmode : s.mc.mode ≠ .clearing)
    (hp : s.cru.updatePending = true) (hg : generationLimit ≤ s.cru.generation) (hd : s.port.direct = none) :
    (settle s).cru = { s.cru with updatePending := false, healthGood := false }
      ∧ (settle s).log = s.log.take { kind := .controlWriteFailed, reason := some .generationLimit
                                      psec := some (copySector (targetCopy s.cru.current)) } s.msTick := by
  obtain ⟨m, hm⟩ := drain_frame s
  have hone := selectOnce_update (s := drain s) (by rw [drain_maySelect, hmay]) (by rw [drain_cru, hp])
  rw [startUpdate_fails (by rw [drain_cru]; exact hg)] at hone
  generalize hv : controlFailure _ _ _ = v at hone
  have hclear : v.mc.mode ≠ .clearing := by
    rw [← hv]
    change (drain s).mc.mode ≠ .clearing
    unfold drain; split_ifs
    · simp
    · exact hmode
  have hfacts : v.cru = { s.cru with updatePending := false, healthGood := false }
      ∧ v.log = s.log.take { kind := .controlWriteFailed, reason := some .generationLimit
                             psec := some (copySector (targetCopy s.cru.current)) } s.msTick
      ∧ v.port.direct.isNone = true := by
    rw [← hv, hm]
    exact ⟨rfl, rfl, by change s.port.direct.isNone = true; simp [hd]⟩
  have hcalm := calm_noReport { s.cru with updatePending := false, healthGood := false }
    (s.log.take { kind := .controlWriteFailed, reason := some .generationLimit
                  psec := some (copySector (targetCopy s.cru.current)) } s.msTick) rfl
  obtain ⟨hcru, hlog, -⟩ := hcalm.grant (hcalm.selectItems hfacts hclear 5)
  rw [settle, selectionsPerEvent, selectItems_of_some hone]
  exact ⟨hcru, hlog⟩

theorem copySector_target (c : Option Copy) : copySector (targetCopy c) = if c = some .a then 1023 else 1022 := by
  rcases c with - | (- | -) <;> rfl

/-- The first half of O25: what SETUP_STORE asks for, and what an idle engine makes of it. -/
theorem setupStore_asks {s : State} (hs : s.Listens)
    (hmode : s.mc.mode = .run ∨ s.mc.mode = .holding ∨ s.mc.mode = .held) (hres : s.host.reselect = false) :
    ∃ t, exec (.setupStore []) s = .next t ∧ t.setup = (s.replies { code := 0x81, payload := [] }).setup
      ∧ (s.maySelect = false → t.cru = { s.cru with updatePending := true } ∧ t.engine.item = s.engine.item)
      ∧ (s.engine.phase = .idle → s.engine.stopped = false → s.cru.generation < 0xFFFFFFFE →
          t.cru = { s.cru with updatePending := false } ∧ t.engine.item = .controlUpdate
            ∧ t.engine.phase = .controlErase ∧ t.engine.recordGen = s.cru.generation + 1
            ∧ t.engine.itemPhys = some (if s.cru.current = some .a then 1023 else 1022)
            ∧ ∀ im, s.image = some im → t.engine.record = recordWords
                { generation := s.cru.generation + 1, image := im, protection := s.map.protection, remap := s.map.remap
                  bad := s.map.bad })
      ∧ (s.engine.phase = .idle → s.engine.stopped = false → 0xFFFFFFFE ≤ s.cru.generation → s.port.direct = none →
          t.cru = { s.cru with updatePending := false, healthGood := false }
            ∧ t.log.records = (s.log.take
                { kind := .controlWriteFailed, reason := some .generationLimit
                  psec := some (if s.cru.current = some .a then 1023 else 1022) } s.msTick).records) := by
  obtain ⟨hawake, hsel, hquiet⟩ := hs
  have hanswers : ∀ r, s.answers r = s.replies r := fun r => if_pos hsel
  have hrun := exec_instr_hears (c := .setupStore) (p := []) ⟨hawake, by simp [hsel], hquiet⟩ (by simp)
    (by simp [hsel]) (by rcases hmode with h | h | h <;> rw [h] <;> rfl) rfl
  simp only [runCommand, SetupCommand.instr, hanswers, runSetupStore] at hrun
  rw [finish_eq_settle (s := setUpdatePending (s.setSetup s.setup.dropPart)) hres] at hrun
  have hfacts : (setUpdatePending (s.setSetup s.setup.dropPart)).cru = { s.cru with updatePending := true }
      ∧ (setUpdatePending (s.setSetup s.setup.dropPart)).engine = s.engine
      ∧ (setUpdatePending (s.setSetup s.setup.dropPart)).mc = s.mc
      ∧ (setUpdatePending (s.setSetup s.setup.dropPart)).map = s.map
      ∧ (setUpdatePending (s.setSetup s.setup.dropPart)).image = s.image
      ∧ (setUpdatePending (s.setSetup s.setup.dropPart)).log = s.log
      ∧ (setUpdatePending (s.setSetup s.setup.dropPart)).msTick = s.msTick
      ∧ (setUpdatePending (s.setSetup s.setup.dropPart)).port = s.port := ⟨rfl, rfl, rfl, rfl, rfl, rfl, rfl, rfl⟩
  generalize setUpdatePending (s.setSetup s.setup.dropPart) = u at hrun hfacts
  obtain ⟨hcru, hengine, hmc, hmap, himage, hlog, htick, hport⟩ := hfacts
  have hpending : u.cru.updatePending = true := by rw [hcru]
  have hmay : u.maySelect = s.maySelect := by rw [State.maySelect, State.maySelect, hengine, hmc]
  have hidle : s.engine.phase = .idle → s.engine.stopped = false → u.maySelect = true := by
    intro h1 h2
    rw [hmay, State.maySelect, h1, h2]
    rcases hmode with h | h | h <;> rw [h] <;> rfl
  have hclear : u.mc.mode ≠ .clearing := by
    rw [hmc]
    rcases hmode with h | h | h <;> simp [h]
  refine ⟨_, hrun, by rw [refresh_setup, State.setSetup_setup]; rfl, fun h => ?_, fun h1 h2 h3 => ?_, fun h1 h2 h3 h4 => ?_⟩
  · rw [refresh_cru, refresh_engine, State.setSetup_cru, State.setSetup_engine, settle_of_busy (hmay.trans h), grant_cru,
      grant_item, drain_cru, drain_engine, hcru, hengine]
    exact ⟨rfl, rfl⟩
  · rw [refresh_cru, refresh_engine, State.setSetup_cru, State.setSetup_engine, ← copySector_target]
    have htakes := settle_takesUpdate (hidle h1 h2) hpending (by rw [hcru]; exact h3)
    simp only [State.liveRecord, hcru, hmap, himage] at htakes
    exact htakes
  · rw [refresh_cru, State.setSetup_cru, refresh_records, State.setSetup_log, ← copySector_target]
    obtain ⟨hcru', hlog'⟩ := settle_updateFails (hidle h1 h2) hclear hpending (by rw [hcru]; exact h3) (by rw [hport, h4])
    rw [hcru', hlog', hcru, hlog, htick]
    exact ⟨rfl, rfl⟩

/-! ### The CONTROL_UPDATE (R88, R89, R145, R146) -/

/-- The part as the engine finds it at the end of its operation: what an engine operation's end starts from. -/
structure State.AtOpEnd (s v : State) : Prop where
  port   : v.port.state = .free ∧ v.port.hostClaim = none ∧ v.port.arst = .inactive
  direct : v.port.direct = s.port.direct
  calm   : v.host.reselect = false
  engine : v.engine = s.engine
  cru    : v.cru = s.cru
  log    : v.log = s.log
  mc     : v.mc = s.mc
  tick   : v.msTick = s.msTick

theorem State.EngineRuns.atOpEnd {s : State} {x : RunningOp} (h : s.EngineRuns x) (pass : Bool) (w : Word) :
    s.AtOpEnd (s.engineEnded x pass w) := by
  obtain ⟨-, -, hclaim, harst, hres⟩ := h
  exact ⟨⟨rfl, hclaim, harst⟩, rfl, hres, rfl, rfl, rfl, rfl, rfl⟩

/-- The PROGRAM of a record word begins (R88). -/
theorem writeRecordFrom_program {s : State} {k : Nat} {w : Word} (h : s.engine.record[k]? = some w) :
    writeRecordFrom k s = raiseEngineClaim (engineOp .program (s.engine.itemPhys.getD 0) k w)
      (s.setEngine { s.engine with phase := .controlWrite, cursor := k, programAttempts := 0 }) := by
  rw [writeRecordFrom, h]; rfl

/-- After the last word the READs of CONTROL_VERIFY begin (R88). -/
theorem writeRecordFrom_verify {s : State} {k : Nat} (h : s.engine.record[k]? = none) :
    writeRecordFrom k s = raiseEngineClaim (engineOp .read (s.engine.itemPhys.getD 0) 0 0)
      (s.setEngine { s.engine with phase := .controlVerify, cursor := 0 }) := by
  rw [writeRecordFrom, h]; rfl

/-- A move of the engine that raises a claim goes on in a FREE port at the end of its event. -/
theorem State.AtOpEnd.goesOn {s v : State} (h : s.AtOpEnd v) {e : Engine} (he : e.phase ≠ .idle) (o : ArrayOp) :
    (raiseEngineClaim o (v.setEngine e)).EngineGoesOn o := ⟨he, h.port, rfl, h.calm⟩

/-! What the end of such an event leaves. -/

theorem State.EngineGoesOn.phase {s : State} {o : ArrayOp} (h : s.EngineGoesOn o) :
    (finish s).engine.phase = s.engine.phase := by rw [h.finish_eq, grant_phase, drain_engine]

theorem State.EngineGoesOn.item {s : State} {o : ArrayOp} (h : s.EngineGoesOn o) :
    (finish s).engine.item = s.engine.item := by rw [h.finish_eq, grant_item, drain_engine]

theorem State.EngineGoesOn.cursor {s : State} {o : ArrayOp} (h : s.EngineGoesOn o) :
    (finish s).engine.cursor = s.engine.cursor := by rw [h.finish_eq, grant_cursor, drain_engine]

theorem State.EngineGoesOn.try2 {s : State} {o : ArrayOp} (h : s.EngineGoesOn o) :
    (finish s).engine.try2 = s.engine.try2 := by rw [h.finish_eq, grant_try2, drain_engine]

theorem State.EngineGoesOn.record {s : State} {o : ArrayOp} (h : s.EngineGoesOn o) :
    (finish s).engine.record = s.engine.record := by rw [h.finish_eq, grant_record, drain_engine]

theorem State.EngineGoesOn.recordGen {s : State} {o : ArrayOp} (h : s.EngineGoesOn o) :
    (finish s).engine.recordGen = s.engine.recordGen := by rw [h.finish_eq, grant_recordGen, drain_engine]

theorem State.EngineGoesOn.cru {s : State} {o : ArrayOp} (h : s.EngineGoesOn o) : (finish s).cru = s.cru := by
  rw [h.finish_eq, grant_cru, drain_cru]

theorem State.EngineGoesOn.log {s : State} {o : ArrayOp} (h : s.EngineGoesOn o) : (finish s).log = s.log := by
  rw [h.finish_eq, grant_log, drain_log]

/-- The words of the record are programmed in their order. -/
theorem update_programs {s v : State} {k psec : Nat} {w : Word} (h : s.AtOpEnd v) (hphys : s.engine.itemPhys = some psec)
    (hw : s.engine.record[k]? = some w) : (finish (writeRecordFrom k v)).engine.phase = .controlWrite
      ∧ (finish (writeRecordFrom k v)).Issues (engineOp .program psec k w) ∧ (finish (writeRecordFrom k v)).cru = s.cru := by
  rw [writeRecordFrom_program (by rw [h.engine]; exact hw), h.engine, hphys]
  have hgo := h.goesOn (e := { s.engine with phase := .controlWrite, cursor := k, programAttempts := 0 }) (by simp)
    (engineOp .program psec k w)
  exact ⟨hgo.phase, hgo.issues, hgo.cru.trans h.cru⟩

/-- The part when a record word has been read as it was written and is not the last: the READ of the next (R88). -/
theorem verifyRead_next {s : State} {w : Word} (hw : s.engine.record[s.engine.cursor]? = some w)
    (hlt : s.engine.cursor + 1 < s.engine.record.length) : verifyRead w s
      = raiseEngineClaim (engineOp .read (s.engine.itemPhys.getD 0) (s.engine.cursor + 1) 0)
          (s.setEngine { s.engine with cursor := s.engine.cursor + 1 }) := by
  rw [verifyRead, if_pos hw, if_pos hlt]; rfl

theorem verifyRead_last {s : State} {w : Word} (hw : s.engine.record[s.engine.cursor]? = some w)
    (hlast : s.engine.cursor + 1 = s.engine.record.length) : verifyRead w s = endUpdateGood s := by
  rw [verifyRead, if_pos hw, if_neg (by omega)]

/-- The words are read back in their order, and the last one makes the target the current copy (R88, R145). -/
theorem update_verifies {s v : State} {psec : Nat} {w : Word} (h : s.AtOpEnd v) (hphys : s.engine.itemPhys = some psec)
    (hclear : s.mc.mode ≠ .clearing) (hphase : s.engine.phase = .controlVerify)
    (hw : s.engine.record[s.engine.cursor]? = some w) :
    (s.engine.cursor + 1 < s.engine.record.length → (finish (verifyRead w v)).cru = s.cru
      ∧ (finish (verifyRead w v)).engine.phase = .controlVerify
      ∧ (finish (verifyRead w v)).engine.cursor = s.engine.cursor + 1
      ∧ (finish (verifyRead w v)).Issues (engineOp .read psec (s.engine.cursor + 1) 0))
    ∧ (s.engine.cursor + 1 = s.engine.record.length → s.cru.updatePending = false →
      (finish (verifyRead w v)).cru = { current := some (if psec = 1023 then Copy.b else Copy.a)
                                        generation := s.engine.recordGen, healthGood := true, updatePending := false }
        ∧ (finish (verifyRead w v)).engine.item ≠ .controlUpdate) := by
  refine ⟨fun hlt => ?_, fun hlast hp => ?_⟩
  · rw [verifyRead_next (by rw [h.engine]; exact hw) (by rw [h.engine]; exact hlt), h.engine, hphys]
    have hgo := h.goesOn (e := { s.engine with cursor := s.engine.cursor + 1 }) (by simp [hphase])
      (engineOp .read psec (s.engine.cursor + 1) 0)
    exact ⟨hgo.cru.trans h.cru, hgo.phase.trans hphase, hgo.cursor, hgo.issues⟩
  · rw [verifyRead_last (by rw [h.engine]; exact hw) (by rw [h.engine]; exact hlast)]
    have hgood : (endUpdateGood v).cru = { current := some (if psec = 1023 then Copy.b else Copy.a)
                                           generation := s.engine.recordGen, healthGood := true, updatePending := false } := by
      simp only [endUpdateGood, State.setEngine_cru, State.setCru_cru, h.engine, h.cru, hphys, hp, copySector,
        Option.some_inj]
    have hmc : (endUpdateGood v).mc = s.mc := h.mc
    rw [finish_eq_settle (by exact h.calm), ← hgood]
    exact settle_noUpdate (by rw [hgood]) (by rw [hmc]; exact hclear) (by simp [endUpdateGood, Engine.toIdle])

/-- A try that fails is followed by the second, or by the update's failure (R89, R146). -/
theorem update_fails {s v : State} {psec : Nat} (reason : FaultReason) (h : s.AtOpEnd v)
    (hphys : s.engine.itemPhys = some psec) (hclear : s.mc.mode ≠ .clearing) :
    (s.engine.try2 = false → (finish (tryFails reason v)).cru = s.cru
      ∧ (finish (tryFails reason v)).log.records = s.log.records ∧ (finish (tryFails reason v)).engine.try2 = true
      ∧ (finish (tryFails reason v)).engine.phase = .controlErase
      ∧ (finish (tryFails reason v)).engine.record = s.engine.record
      ∧ (finish (tryFails reason v)).engine.recordGen = s.engine.recordGen
      ∧ (finish (tryFails reason v)).Issues (engineOp .erase psec 0 0))
    ∧ (s.engine.try2 = true → s.cru.updatePending = false → s.port.direct = none →
      (finish (tryFails reason v)).cru = { s.cru with healthGood := false }
        ∧ (finish (tryFails reason v)).engine.item ≠ .controlUpdate
        ∧ (finish (tryFails reason v)).log.records = (s.log.take
          { kind := .controlWriteFailed, psec := some psec, reason := some reason } s.msTick).records) := by
  refine ⟨fun htry => ?_, fun htry hp hd => ?_⟩
  · have hfails : tryFails reason v = raiseEngineClaim (engineOp .erase psec 0 0) (v.setEngine
        { s.engine with try2 := true, cursor := 0, phase := .controlErase, itemPhys := some psec, eraseAttempts := 0 }) := by
      rw [tryFails, if_neg (by simp [h.engine, htry]), startTry, engineErase]
      simp only [State.setEngine_engine, h.engine, hphys]
      rfl
    rw [hfails]
    have hgo := h.goesOn (e := { s.engine with
      try2 := true, cursor := 0, phase := .controlErase, itemPhys := some psec, eraseAttempts := 0 }) (by simp)
      (engineOp .erase psec 0 0)
    exact ⟨hgo.cru.trans h.cru, congrArg FaultLog.records (hgo.log.trans h.log), hgo.try2, hgo.phase, hgo.record,
      hgo.recordGen, hgo.issues⟩
  · have hfacts : (tryFails reason v).cru = { s.cru with healthGood := false }
        ∧ (tryFails reason v).log = s.log.take
          { kind := .controlWriteFailed, psec := some psec, reason := some reason } s.msTick
        ∧ (tryFails reason v).port.direct.isNone = true ∧ (tryFails reason v).mc.mode ≠ .clearing
        ∧ (tryFails reason v).engine.item ≠ .controlUpdate ∧ (tryFails reason v).host.reselect = false := by
      rw [tryFails, if_pos (by rw [h.engine]; exact htry), endUpdateBad, controlFailure, h.engine, hphys]
      refine ⟨?_, ?_, ?_, ?_, ?_, h.calm⟩
      · change { v.cru with healthGood := false } = _
        rw [h.cru]
      · change v.log.take _ v.msTick = _
        rw [h.log, h.tick]; rfl
      · change v.port.direct.isNone = true
        rw [h.direct, hd]; rfl
      · change v.mc.mode ≠ .clearing
        rw [h.mc]; exact hclear
      · simp [Engine.toIdle]
    generalize tryFails reason v = u at hfacts
    obtain ⟨hcru, hlog, hdirect, hmode, hitem, hcalm⟩ := hfacts
    rw [finish_eq_settle hcalm]
    have hpending : u.cru.updatePending = false := by rw [hcru]; exact hp
    obtain ⟨hcru', hlog', -⟩ := (calm_noReport u.cru u.log hpending).settle ⟨rfl, rfl, hdirect⟩ hmode
    exact ⟨hcru'.trans hcru, (settle_noUpdate hpending hmode hitem).2, by rw [hlog', hlog]⟩

/-- Settles O25: the request, the writing, the reading back, and the failed tries. -/
theorem setupStoreAsksForControlUpdate : Obligations.SetupStoreAsksForControlUpdate := by
  refine ⟨fun s hs hmode hres => setupStore_asks hs hmode hres, fun s x psec hruns hitem hphys hmode => ?_⟩
  have hclear : s.mc.mode ≠ .clearing := by rcases hmode with h | h | h <;> simp [h]
  have hends := hruns.atOpEnd
  obtain ⟨hrun, hissuer, -, -, -⟩ := hruns
  have hphase : ∀ pass w, (s.engineEnded x pass w).engine.phase = s.engine.phase := fun _ _ => rfl
  refine ⟨fun c k w hc hw => ?_, fun hk hph hnone => ?_, fun w hk hph hw => ?_, fun c w reason hc => ?_⟩
  · rcases hc with ⟨rfl, hk, hph, rfl⟩ | ⟨rfl, hk, hph, rfl⟩
    · refine ⟨_, exec_arrayEraseEnd hrun hk true, ?_⟩
      rw [issuerEnd_engine hissuer]
      simp only [engineOpEnd, hk, engineErasePass, hphase, hph, refresh_engine, refresh_issues, refresh_cru]
      exact update_programs (hends true 0) hphys hw
    · refine ⟨_, exec_arrayProgramEnd hrun hk true, ?_⟩
      rw [issuerEnd_engine hissuer]
      simp only [engineOpEnd, hk, engineProgramPass, hphase, hph, refresh_engine, refresh_issues, refresh_cru]
      exact update_programs (hends true 0) hphys hw
  · refine ⟨_, exec_arrayProgramEnd hrun hk true, ?_⟩
    rw [issuerEnd_engine hissuer]
    simp only [engineOpEnd, hk, engineProgramPass, hphase, hph, refresh_engine, refresh_issues, refresh_cru]
    rw [writeRecordFrom_verify (by exact hnone), (hends true 0).engine, hphys]
    have hgo := (hends true 0).goesOn (e := { s.engine with phase := .controlVerify, cursor := 0 }) (by simp)
      (engineOp .read psec 0 0)
    exact ⟨hgo.phase, hgo.issues, hgo.cru⟩
  · refine ⟨_, exec_arrayReadEnd hrun hk w, ?_⟩
    rw [issuerEnd_engine hissuer]
    simp only [engineOpEnd, hk, engineReadEnd, hphase, hph, refresh_engine, refresh_issues, refresh_cru]
    exact update_verifies (hends true w) hphys hclear hph hw
  · rcases hc with ⟨rfl, hk, hph, hne, rfl⟩ | ⟨rfl, hk, hph, rfl⟩ | ⟨rfl, hk, hph, rfl⟩
    · refine ⟨_, exec_arrayReadEnd hrun hk w, ?_⟩
      have hverify : verifyRead w (s.engineEnded x true w) = tryFails .verify (s.engineEnded x true w) := if_neg hne
      rw [issuerEnd_engine hissuer]
      simp only [engineOpEnd, hk, engineReadEnd, hphase, hph, refresh_engine, refresh_issues, refresh_cru,
        refresh_records, hverify]
      exact update_fails .verify (hends true w) hphys hclear
    · refine ⟨_, exec_arrayProgramEnd hrun hk false, ?_⟩
      rw [issuerEnd_engine hissuer]
      simp only [engineOpEnd, hk, engineProgramFail, hphase, hph, refresh_engine, refresh_issues, refresh_cru,
        refresh_records, if_true]
      exact update_fails .program (hends false 0) hphys hclear
    · refine ⟨_, exec_arrayEraseEnd hrun hk false, ?_⟩
      rw [issuerEnd_engine hissuer]
      simp only [engineOpEnd, hk, engineEraseFail, hphase, hph, refresh_engine, refresh_issues, refresh_cru,
        refresh_records]
      exact update_fails .erase (hends false 0) hphys hclear

end Sys2Proof.Machine

/-! Settles O47: the end of a direct write's PROGRAM, in a RUNNING port and in a suspension. -/

namespace Sys2Proof.Machine

/-! ### An event's end at which only a grant can follow -/

/-- Nothing waits for the engine or for the drain test: the end of the event is a grant. -/
def State.Idles (s : State) : Prop :=
  s.hasWork = false ∧ ¬(s.mc.mode = .holding ∧ s.queuesEmpty = true ∧ s.engine.item ≠ .regionCommit)

theorem State.Rests.idles {s : State} (h : s.Rests) : s.Idles := ⟨h.1, h.2.1⟩

theorem State.Idles.settle {s : State} (h : s.Idles) : settle s = grant s := by
  have hdrain : drain s = s := if_neg h.2
  unfold Machine.settle
  rw [hdrain, selectItems_of_none (selectOnce_eq_none h.1)]

/-- It depends on the engine, the mode, the control record unit and the queues. -/
theorem State.Idles.congr {s t : State} (h : s.Idles) (hengine : t.engine = s.engine) (hmc : t.mc = s.mc)
    (hcru : t.cru = s.cru) (hdue : t.dueRegion = s.dueRegion) (hqueues : t.queues = s.queues) : t.Idles := by
  obtain ⟨hwork, hdrain⟩ := h
  refine ⟨?_, ?_⟩
  · have : t.hasWork = s.hasWork := by unfold State.hasWork State.maySelect; rw [hengine, hmc, hcru, hdue]
    rw [this]; exact hwork
  · unfold State.queuesEmpty at hdrain ⊢
    rw [hengine, hmc, hqueues]; exact hdrain

theorem State.Idles.port {s : State} (h : s.Idles) (x : ArrayPort) : (s.setPort x).Idles := h.congr rfl rfl rfl rfl rfl
theorem State.Idles.host {s : State} (h : s.Idles) (x : HostPort) : (s.setHost x).Idles := h.congr rfl rfl rfl rfl rfl
theorem State.Idles.log {s : State} (h : s.Idles) (x : FaultLog) : (s.setLog x).Idles := h.congr rfl rfl rfl rfl rfl
theorem State.Idles.flash {s : State} (h : s.Idles) (x : FlashBank) : (s.setFlash x).Idles := h.congr rfl rfl rfl rfl rfl

/-- What a grant leaves of the port. -/
structure PortKept (s t : State) : Prop where
  claim       : t.port.hostClaim = s.port.hostClaim
  consecutive : t.port.consecutive = s.port.consecutive
  direct      : s.port.direct = none → t.port.direct = none
  engClaim    : t.port.engClaim = s.port.engClaim

theorem portKept_issueOp (o : ArrayOp) (s : State) : PortKept s (issueOp o s) := by
  have hcount : PortKept s (countAttempt o s) := by
    unfold countAttempt; split <;> exact ⟨rfl, rfl, fun h => by simp [h], rfl⟩
  obtain ⟨h1, h2, h3, h4⟩ := hcount
  unfold issueOp readIssued
  dsimp only
  split_ifs <;> exact ⟨h1, h2, h3, h4⟩

theorem portKept_grant (s : State) : PortKept s (grant s) := by
  unfold grant
  split_ifs
  · split
    · exact portKept_issueOp _ s
    · split
      · exact portKept_issueOp _ s
      · exact ⟨rfl, rfl, id, rfl⟩
  · exact ⟨rfl, rfl, id, rfl⟩

theorem grant_flash (s : State) : (grant s).flash = s.flash := by rw [grants_grant s]; rfl

/-- A FREE port grants the direct write that keeps its claim: the next attempt (R109). -/
theorem grant_direct {s : State} {d : DirectWrite} (hfree : s.port.state = .free) (hclaim : s.port.hostClaim = some d.op)
    (hd : s.port.direct = some d) (harst : s.port.arst = .inactive) : grant s = s.setPort
      { s.port with state := .running, direct := some { d with attempts := d.attempts + 1 }
                    op := some { op := d.op, timer := 0, issued := true } } := by
  have hcount : countAttempt d.op s = s.setPort { s.port with direct := some { d with attempts := d.attempts + 1 } } := by
    unfold countAttempt
    simp only [DirectWrite.op, hd, Option.map_some]
  unfold grant
  rw [if_pos hfree, hclaim]
  dsimp only
  rw [issueOp, hcount]
  simp only [State.setPort_port, harst, beq_self_eq_true]
  rw [readIssued, if_neg (by simp [DirectWrite.op])]
  simp [DirectWrite.op, State.setPort]

/-! ### The attempt's end (R109) -/

/-- The fault log when a direct write has ended. -/
def State.directLog (s : State) (d : DirectWrite) (pass : Bool) : FaultLog :=
  if pass then s.log
  else s.log.take { kind := .directWriteFailed, region := some (s.reportRegion d), addr := some d.addr } s.msTick

/-- The part when a direct write has ended: its claim gone, its access answered. -/
def State.directOver (s : State) (p : HostPins) (d : DirectWrite) (pass : Bool) : State :=
  ((s.setLog (s.directLog d pass)).setPort { s.port with direct := none, hostClaim := none }).setHost
    (HostPort.presents p none !pass)

/-- An attempt that passes, or is the second, ends the write. -/
theorem directAttemptEnd_over {s : State} {p : HostPins} {d : DirectWrite} {pass : Bool} (hd : s.port.direct = some d)
    (hhost : s.host = HostPort.holds p) (h : pass = true ∨ 2 ≤ d.attempts) :
    directAttemptEnd pass s = s.directOver p d pass := by
  unfold directAttemptEnd
  rw [hd]
  cases pass with
  | true => exact completeAccess_held (by exact hhost) _ _
  | false =>
    have hattempts : ¬d.attempts < programTries := by
      rcases h with h | h
      · exact absurd h (by simp)
      · exact Nat.not_lt.mpr h
    have hfails : (if (false : Bool) = true then endDirect false s
        else if d.attempts < programTries then s
        else endDirect true (report
          { kind := .directWriteFailed, region := some (s.reportRegion d), addr := some d.addr } s))
        = endDirect true (report
          { kind := .directWriteFailed, region := some (s.reportRegion d), addr := some d.addr } s) := by
      rw [if_neg (by simp), if_neg hattempts]
    exact hfails.trans (completeAccess_held (by exact hhost) _ _)

/-- A first failed attempt keeps the claim. -/
theorem directAttemptEnd_again {s : State} {d : DirectWrite} (hd : s.port.direct = some d) (h : d.attempts < 2) :
    directAttemptEnd false s = s := by
  unfold directAttemptEnd
  rw [hd]
  exact if_pos h

theorem State.Idles.finish {s : State} (h : s.Idles) (hres : s.host.reselect = false) : finish s = grant s := by
  rw [finish_eq_settle hres, h.settle]

theorem grant_busy {s : State} (h : s.port.state ≠ .free) : grant s = s := if_neg h

/-- The part when the inner operation of a suspension has ended, before its issuer is told (R99). -/
def State.innerEnded (s : State) (x : RunningOp) (pass : Bool) (w : Word) : State :=
  (s.setFlash (s.flash.ended x.op pass w)).setPort { s.port with consecutive := 0 }

theorem reportEnd_suspended {s : State} {x : RunningOp} (hstate : s.port.state = .suspended)
    (hinner : s.port.inner = some x) (hissued : x.issued = true) (pass : Bool) (w : Word) :
    reportEnd x.op.kind pass w s = (let u := issuerEnd x.op pass w (s.innerEnded x pass w)
      if u.port.hostClaim.isSome then issueInner u else resumeErase u) := by
  simp only [reportEnd, hstate, outstanding_runs hinner hissued rfl]
  rfl

/-- The write's end in a RUNNING port, whose next claim is granted. -/
theorem finish_over_running {s : State} {p : HostPins} {d : DirectWrite} {pass : Bool} (hidle : s.Idles) :
    (finish (s.directOver p d pass)).host = HostPort.presents p none (!pass)
      ∧ (finish (s.directOver p d pass)).port.direct = none ∧ (finish (s.directOver p d pass)).port.hostClaim = none
      ∧ (finish (s.directOver p d pass)).port.consecutive = s.port.consecutive
      ∧ (finish (s.directOver p d pass)).flash = s.flash
      ∧ (finish (s.directOver p d pass)).log = s.directLog d pass := by
  have hidle' : (s.directOver p d pass).Idles := ((hidle.log _).port _).host _
  obtain ⟨h1, h2, h3, -⟩ := portKept_grant (s.directOver p d pass)
  rw [hidle'.finish rfl, h1, h2, grant_host, grant_flash, grant_log]
  exact ⟨rfl, h3 rfl, rfl, rfl, rfl, rfl⟩

/-- The write's end in a suspension, and RESUME in the same event (R99). -/
theorem finish_over_resumed {s : State} {p : HostPins} {d : DirectWrite} {pass : Bool} (hidle : s.Idles) :
    finish (resumeErase (s.directOver p d pass)) = (s.directOver p d pass).setPort
      { s.port with direct := none, hostClaim := none, state := .running, inner := none
                    suspCount := s.port.suspCount + 1 } := by
  have hidle' : (resumeErase (s.directOver p d pass)).Idles := (((hidle.log _).port _).host _).port _
  rw [hidle'.finish rfl, grant_busy (by simp [resumeErase])]
  rfl

/-- The second attempt in a RUNNING port (R109). -/
theorem finish_again_running {s : State} {p : HostPins} {d : DirectWrite} (hidle : s.Idles)
    (hhost : s.host = HostPort.holds p) (hfree : s.port.state = .free) (hclaim : s.port.hostClaim = some d.op)
    (hd : s.port.direct = some d) (harst : s.port.arst = .inactive) : finish s = s.setPort
      { s.port with state := .running, direct := some { d with attempts := d.attempts + 1 }
                    op := some { op := d.op, timer := 0, issued := true } } := by
  rw [hidle.finish (by rw [hhost]; rfl), grant_direct hfree hclaim hd harst]

/-- The second attempt inside the same suspension (R109). -/
theorem finish_again_suspended {s : State} {p : HostPins} {d : DirectWrite} (hidle : s.Idles)
    (hhost : s.host = HostPort.holds p) (hclaim : s.port.hostClaim = some d.op) (hd : s.port.direct = some d) :
    finish (issueInner s) = s.setPort
      { s.port with state := .suspended, direct := some { d with attempts := d.attempts + 1 }
                    inner := some { op := d.op, timer := 0, issued := true } } := by
  have hinner : issueInner s = s.setPort
      { s.port with state := .suspended, direct := some { d with attempts := d.attempts + 1 }
                    inner := some { op := d.op, timer := 0, issued := true } } := by
    have hcount : countAttempt d.op s = s.setPort { s.port with direct := some { d with attempts := d.attempts + 1 } } := by
      unfold countAttempt
      simp only [DirectWrite.op, hd, Option.map_some]
    unfold issueInner
    rw [hclaim]
    dsimp only
    rw [hcount, readIssued, if_neg (by simp [DirectWrite.op])]
    rfl
  have hidle' : (issueInner s).Idles := by rw [hinner]; exact hidle.port _
  rw [hidle'.finish (by rw [hinner]; simp [hhost, HostPort.holds]), grant_busy (by rw [hinner]; simp), hinner]

/-- What the end of a direct write's attempt leaves, whatever port it ran in. -/
structure DirectEnded (s : State) (p : HostPins) (d : DirectWrite) (pass : Bool) (t : State) : Prop where
  consecutive : t.port.consecutive = 0
  flash : t.flash = s.flash.ended d.op pass 0
  ended : pass = true ∨ 2 ≤ d.attempts → t.host = HostPort.presents p none (!pass) ∧ t.port.direct = none
    ∧ t.port.hostClaim = none ∧ t.log = s.directLog d pass
    ∧ (s.port.state = .suspended → t.port.state = .running ∧ t.port.op = s.port.op ∧ t.port.inner = none
        ∧ t.port.suspCount = s.port.suspCount + 1)
  again : pass = false → d.attempts < 2 → t.host = HostPort.holds p
    ∧ t.port.direct = some { d with attempts := d.attempts + 1 } ∧ t.port.hostClaim = some d.op
    ∧ t.port.state = s.port.state
    ∧ (s.port.state = .running → t.port.op = some { op := d.op, timer := 0, issued := true })
    ∧ (s.port.state = .suspended → t.port.op = s.port.op ∧ t.port.suspCount = s.port.suspCount
        ∧ t.port.inner = some { op := d.op, timer := 0, issued := true })
    ∧ t.port.engClaim = s.port.engClaim ∧ t.log = s.log

/-- The attempt of a RUNNING port ends. -/
theorem directEnded_running {s : State} {p : HostPins} {d : DirectWrite} {x : RunningOp} (hrun : s.Runs x)
    (harst : s.port.arst = .inactive) (hw : s.WritesDirect p d) (hop : x.op = d.op) (hidle : s.Idles) (pass : Bool) :
    DirectEnded s p d pass (finish (reportEnd x.op.kind pass 0 s)) := by
  obtain ⟨hhost, hreader, hd, hheld, hclaim⟩ := hw
  have hstate := hrun.2.1
  have hissuer : ∀ u, issuerEnd x.op pass 0 u = directAttemptEnd pass u := fun u => by rw [hop]; rfl
  have hidle' : (s.opEnded x pass 0).Idles := (hidle.flash _).port _
  rw [reportEnd_runs hrun, hissuer]
  by_cases hover : pass = true ∨ 2 ≤ d.attempts
  · obtain ⟨h1, h2, h3, h4, h5, h6⟩ := finish_over_running (p := p) (d := d) (pass := pass) hidle'
    rw [directAttemptEnd_over (by exact hd) (by exact hhost) hover]
    refine ⟨h4, ?_, fun _ => ⟨h1, h2, h3, h6, fun hs => by rw [hstate] at hs; exact absurd hs (by simp)⟩,
      fun hp hlt => ?_⟩
    · rw [h5, ← hop]; rfl
    · rcases hover with h | h
      · rw [h] at hp; exact absurd hp (by simp)
      · omega
  · obtain ⟨hp, hlt⟩ := not_or.mp hover
    obtain rfl : pass = false := by simpa using hp
    rw [directAttemptEnd_again (by exact hd) (Nat.not_le.mp hlt),
      finish_again_running hidle' (by exact hhost) rfl (by exact hclaim) (by exact hd) (by exact harst)]
    refine ⟨rfl, by rw [← hop]; rfl, fun h => absurd h hover, fun _ _ => ⟨hhost, rfl, hclaim, hstate.symm, fun _ => rfl,
      fun hs => ?_, rfl, rfl⟩⟩
    rw [hstate] at hs; exact absurd hs (by simp)

/-- The attempt inside a suspension ends. -/
theorem directEnded_suspended {s : State} {p : HostPins} {d : DirectWrite} {x : RunningOp}
    (hstate : s.port.state = .suspended) (hinner : s.port.inner = some x) (hissued : x.issued = true)
    (hw : s.WritesDirect p d) (hop : x.op = d.op) (hidle : s.Idles) (pass : Bool) :
    DirectEnded s p d pass (finish (reportEnd x.op.kind pass 0 s)) := by
  obtain ⟨hhost, hreader, hd, hheld, hclaim⟩ := hw
  have hissuer : ∀ u, issuerEnd x.op pass 0 u = directAttemptEnd pass u := fun u => by rw [hop]; rfl
  have hidle' : (s.innerEnded x pass 0).Idles := (hidle.flash _).port _
  rw [reportEnd_suspended hstate hinner hissued]
  dsimp only
  rw [hissuer]
  by_cases hover : pass = true ∨ 2 ≤ d.attempts
  · rw [directAttemptEnd_over (by exact hd) (by exact hhost) hover, if_neg (by simp [State.directOver]),
      finish_over_resumed hidle']
    refine ⟨rfl, ?_, fun _ => ⟨rfl, rfl, rfl, rfl, fun _ => ⟨rfl, rfl, rfl, rfl⟩⟩, fun hp hlt => ?_⟩
    · rw [← hop]; rfl
    · rcases hover with h | h
      · rw [h] at hp; exact absurd hp (by simp)
      · omega
  · obtain ⟨hp, hlt⟩ := not_or.mp hover
    obtain rfl : pass = false := by simpa using hp
    rw [directAttemptEnd_again (by exact hd) (Nat.not_le.mp hlt), if_pos (by
        change s.port.hostClaim.isSome = true
        rw [hclaim]; rfl),
      finish_again_suspended hidle' (by exact hhost) (by exact hclaim) (by exact hd)]
    refine ⟨rfl, by rw [← hop]; rfl, fun h => absurd h hover, fun _ _ => ⟨hhost, rfl, hclaim, hstate.symm, fun hs => ?_,
      fun _ => ⟨rfl, rfl, rfl⟩, rfl, rfl⟩⟩
    rw [hstate] at hs; exact absurd hs (by simp)

/-! ### What is known of a word after a PROGRAM (R92) -/

theorem programmed_bits (x : FlashWord) (v : Word) (i : Nat) (hi : i < 16) :
    (x.programmed v).known.getLsbD i = (x.known.getLsbD i || !v.getLsbD i)
      ∧ (x.programmed v).value.getLsbD i = (x.value.getLsbD i && v.getLsbD i)
      ∧ (x.halfProgrammed v).known.getLsbD i = (x.known.getLsbD i && (v.getLsbD i || !x.value.getLsbD i))
      ∧ (x.halfProgrammed v).value.getLsbD i = (x.value.getLsbD i && v.getLsbD i) := by
  simp [FlashWord.programmed, FlashWord.halfProgrammed, hi]

/-- A word agrees with what is known of it. -/
def FlashWord.Agrees (y : FlashWord) (w : Word) : Prop :=
  ∀ i < 16, y.known.getLsbD i = true → w.getLsbD i = y.value.getLsbD i

theorem agrees_programmed {x : FlashWord} {v old : Word} (h : x.Agrees old) : (x.programmed v).Agrees (old &&& v) := by
  intro i hi hk
  obtain ⟨hknown, hvalue, -, -⟩ := programmed_bits x v i hi
  rw [hknown] at hk
  rw [hvalue, BitVec.getLsbD_and]
  cases hv : v.getLsbD i with
  | false => simp
  | true => rw [h i hi (by simpa [hv] using hk)]

theorem agrees_halfProgrammed {x : FlashWord} {v old new : Word} (h : x.Agrees old)
    (hnew : ∀ i < 16, new.getLsbD i = old.getLsbD i ∨ (v.getLsbD i = false ∧ new.getLsbD i = false)) :
    (x.halfProgrammed v).Agrees new := by
  intro i hi hk
  obtain ⟨-, -, hknown, hvalue⟩ := programmed_bits x v i hi
  rw [hknown, Bool.and_eq_true] at hk
  obtain ⟨hold, hbit⟩ := hk
  rw [hvalue]
  rcases hnew i hi with heq | ⟨hv, hcleared⟩
  · rw [heq, h i hi hold]
    cases hv : v.getLsbD i with
    | true => simp
    | false => rw [hv] at hbit; simp_all
  · rw [hcleared, hv]; simp

/-- Settles O47: the ends of an attempt by port and outcome, and what is known of its word. -/
theorem directWriteEndsOrRetries : Obligations.DirectWriteEndsOrRetries := by
  refine ⟨fun s p d x pass hport hw hop hrests => ?_, fun x v => ⟨programmed_bits x v, fun old hold =>
    ⟨agrees_programmed hold, fun new hnew => agrees_halfProgrammed hold hnew⟩⟩⟩
  have hk : x.op.kind = .program := by rw [hop]; rfl
  have hended : s.inReset = false ∧ (s.port.state = .running ∨ s.port.state = .suspended)
      ∧ DirectEnded s p d pass (finish (reportEnd .program pass 0 s)) := by
    rw [← hk]
    rcases hport with ⟨hrun, harst⟩ | ⟨hawake, hstate, hinner, hissued⟩
    · exact ⟨hrun.1, .inl hrun.2.1, directEnded_running hrun harst hw hop hrests.idles pass⟩
    · exact ⟨hawake, .inr hstate, directEnded_suspended hstate hinner hissued hw hop hrests.idles pass⟩
  obtain ⟨hawake, -, hcons, hflash, hover, hagain⟩ := hended
  have hexec : exec (.arrayProgramEnd pass) s = .next (refresh (finish (reportEnd .program pass 0 s))) :=
    exec_awake hawake (by simp) (by simp)
  refine ⟨_, hexec, by rw [refresh_port, hcons], fun a ha => ?_, ?_, ?_, fun hs hp => ?_⟩
  · rw [refresh_flash, hflash]
    cases pass <;> exact (FlashBank.read_write _ _ _ _).trans (if_neg (Ne.symm ha))
  · rw [refresh_flash, hflash]
    cases pass <;> exact (FlashBank.read_write _ _ _ _).trans (if_pos rfl)
  · rw [refresh_host, refresh_port, refresh_records]
    split_ifs with hp hlt
    · subst hp
      obtain ⟨h1, h2, h3, h4, -⟩ := hover (.inl rfl)
      exact ⟨h1, h2, h3, by rw [h4]; rfl⟩
    · obtain ⟨h1, h2, h3, h4, h5, h6, h7, h8⟩ := hagain (by simpa using hp) hlt
      exact ⟨h1, h2, h3, h4, h5, h6, h7, by rw [h8]⟩
    · obtain rfl : pass = false := by simpa using hp
      obtain ⟨h1, h2, h3, h4, -⟩ := hover (.inr (Nat.not_lt.mp hlt))
      exact ⟨h1, h2, h3, by rw [h4]; rfl⟩
  · rw [refresh_port]
    exact (hover hp).2.2.2.2 hs

end Sys2Proof.Machine

/-! Settles O60. First the remap table by itself: what each of its changes keeps, and that a lawful one translates
injectively. Then what every move leaves of the laws of the sector map, of the trial, of the modes and of the judged
copies. -/

namespace Sys2Proof.Machine

/-! ### The remap table -/

/-- An entry that names the sector is found, and one that is found names it. -/
theorem SectorMap.entryOf_some {m : SectorMap} {x : Nat} {e : RemapEntry} (h : m.entryOf x = some e) :
    e ∈ m.remap ∧ e.sector = x :=
  ⟨List.mem_of_find?_eq_some h, by simpa using List.find?_some h⟩

theorem SectorMap.entryOf_none {m : SectorMap} {x : Nat} (h : m.entryOf x = none) : ∀ e ∈ m.remap, e.sector ≠ x := by
  simpa [SectorMap.entryOf] using h

/-- Entries that name the same spare are one entry, when no spare is named twice. -/
theorem target_inj {l : List RemapEntry} (h : (l.filterMap (·.target)).Nodup) {e e' : RemapEntry} {i : Nat} (he : e ∈ l)
    (he' : e' ∈ l) (ht : e.target = some i) (ht' : e'.target = some i) : e = e' := by
  induction l with
  | nil => simp at he
  | cons a l ih =>
    have hnamed : ∀ y ∈ l, y.target = some i → i ∈ l.filterMap (·.target) := fun y hy hi =>
      List.mem_filterMap.mpr ⟨y, hy, hi⟩
    cases ha : a.target with
    | none =>
      rw [List.filterMap_cons_none ha] at h
      rcases List.mem_cons.mp he with rfl | he
      · simp [ha] at ht
      · rcases List.mem_cons.mp he' with rfl | he'
        · simp [ha] at ht'
        · exact ih h he he'
    | some j =>
      rw [List.filterMap_cons_some ha, List.nodup_cons] at h
      rcases List.mem_cons.mp he with rfl | hm <;> rcases List.mem_cons.mp he' with rfl | hm'
      · rfl
      · obtain rfl : j = i := by simpa [ha] using ht
        exact absurd (hnamed e' hm' ht') h.1
      · obtain rfl : j = i := by simpa [ha] using ht'
        exact absurd (hnamed e hm ht) h.1
      · exact ih h.2 hm hm'

/-- Translation under a lawful table is injective, and leaves the window's sectors outside the control copies (R2, R115). -/
theorem SectorMap.Lawful.translate_inj {m : SectorMap} {spares x p : Nat} (h : m.Lawful spares) (hx : x < 1022 - spares)
    (hp : m.translate x = some p) :
    p < 1022 ∧ ∀ x', x' < 1022 - spares → m.translate x' = some p → x' = x := by
  have hcases : ∀ y q, y < 1022 - spares → m.translate y = some q → (m.entryOf y = none ∧ q = y)
      ∨ ∃ e i, m.entryOf y = some e ∧ e.target = some i ∧ i < spares ∧ q = 1021 - i := by
    intro y q hy hq
    unfold SectorMap.translate at hq
    cases he : m.entryOf y with
    | none => simp only [he, Option.some.injEq] at hq; exact .inl ⟨rfl, hq.symm⟩
    | some e =>
      simp only [he, Option.map_eq_some_iff] at hq
      obtain ⟨i, hi, rfl⟩ := hq
      exact .inr ⟨e, i, rfl, hi, h.2.2 e (SectorMap.entryOf_some he).1 i hi, rfl⟩
  rcases hcases x p hx hp with ⟨-, rfl⟩ | ⟨e, i, he, hi, hlt, rfl⟩
  · refine ⟨by omega, fun x' hx' hp' => ?_⟩
    rcases hcases x' p hx' hp' with ⟨-, rfl⟩ | ⟨e', i', -, -, hlt', hq⟩
    · rfl
    · omega
  · refine ⟨by omega, fun x' hx' hp' => ?_⟩
    rcases hcases x' _ hx' hp' with ⟨-, hq⟩ | ⟨e', i', he', hi', hlt', hq⟩
    · omega
    · obtain rfl : i' = i := by omega
      obtain ⟨hmem, hsec⟩ := SectorMap.entryOf_some he
      obtain ⟨hmem', hsec'⟩ := SectorMap.entryOf_some he'
      rw [← hsec, ← hsec', target_inj h.2.1 hmem' hmem hi' hi]

/-- A table with one sector's entry set to NONE, or to a spare that no entry names, is lawful (R117). -/
theorem SectorMap.Lawful.setEntry {m : SectorMap} {n x : Nat} {target : Option Nat} (h : m.Lawful n)
    (hfree : ∀ i, target = some i → i < n ∧ ∀ e ∈ m.remap, e.target ≠ some i) : (m.setEntry x target).Lawful n := by
  obtain ⟨hsectors, htargets, hspares⟩ := h
  unfold SectorMap.setEntry
  split_ifs with he
  · refine ⟨?_, ?_, ?_⟩
    · have hmap : ((m.remap.map fun e => if e.sector == x then { e with target := target } else e).map (·.sector))
          = m.remap.map (·.sector) := by
        rw [List.map_map]
        refine List.map_congr_left fun e _ => ?_
        simp only [Function.comp_apply]; split_ifs <;> rfl
      rw [hmap]; exact hsectors
    · rw [List.Nodup, List.pairwise_filterMap, List.pairwise_map]
      rw [List.Nodup, List.pairwise_map] at hsectors
      rw [List.Nodup, List.pairwise_filterMap] at htargets
      refine (hsectors.and htargets).imp_of_mem fun {a b} ha hb hab i hi j hj => ?_
      split_ifs at hi hj with hax hbx hbx
      · simp only [beq_iff_eq] at hax hbx
        exact absurd (hax.trans hbx.symm) hab.1
      · rintro rfl; exact (hfree i hi).2 b hb hj
      · rintro rfl; exact (hfree i hj).2 a ha hi
      · exact hab.2 i hi j hj
    · intro e hmem i hi
      obtain ⟨a, ha, rfl⟩ := List.mem_map.mp hmem
      split_ifs at hi with hax
      · exact (hfree i hi).1
      · exact hspares a ha i hi
  · refine ⟨?_, ?_, ?_⟩
    · have hnew : x ∉ m.remap.map (·.sector) := by
        rw [Option.not_isSome_iff_eq_none] at he
        simpa using SectorMap.entryOf_none he
      simpa [List.nodup_append, List.map_append] using ⟨hsectors, fun a ha => SectorMap.entryOf_none (by simpa using he) a ha⟩
    · rw [List.filterMap_append]
      cases target with
      | none => simpa using htargets
      | some i =>
        have hnew := (hfree i rfl).2
        refine List.Nodup.append htargets (by simp) ?_
        simpa [List.mem_filterMap] using hnew
    · intro e hmem i hi
      rcases List.mem_append.mp hmem with hmem | hmem
      · exact hspares e hmem i hi
      · obtain rfl := List.mem_singleton.mp hmem
        exact (hfree i hi).1

/-- A spare that becomes BAD is the only one whose mark changes. -/
theorem getLsbD_markedBad (b : BitVec 32) (i k : Nat) :
    (b ||| BitVec.ofNat 32 (2 ^ i)).getLsbD k = (b.getLsbD k || decide (k < 32 ∧ i = k)) := by
  rw [BitVec.getLsbD_or, BitVec.getLsbD_ofNat, Nat.testBit_two_pow, Bool.decide_and]

/-- What an entry set to a target leaves of the targets: the new one, and those of the other sectors' entries. -/
theorem SectorMap.mem_setEntry {m : SectorMap} {x : Nat} {target : Option Nat} {e : RemapEntry}
    (h : e ∈ (m.setEntry x target).remap) : e.target = target ∨ (e ∈ m.remap ∧ e.sector ≠ x) := by
  unfold SectorMap.setEntry at h
  split_ifs at h with he
  · obtain ⟨a, ha, rfl⟩ := List.mem_map.mp h
    split_ifs with hax
    · exact .inl rfl
    · exact .inr ⟨ha, by simpa using hax⟩
  · rcases List.mem_append.mp h with h | h
    · exact .inr ⟨h, SectorMap.entryOf_none (by simpa using he) e h⟩
    · obtain rfl := List.mem_singleton.mp h
      exact .inl rfl

/-- The sector map's laws under a spare count: `State.MapLawful` of the map alone (R116, R117, R124). -/
def SectorMap.Sound (m : SectorMap) (n : Nat) : Prop :=
  m.Lawful n ∧ ∀ e ∈ m.remap, ∀ i, e.target = some i → m.bad.getLsbD i = false

/-- A spare that no entry names may become BAD (R123). -/
theorem SectorMap.Sound.markBad {m : SectorMap} {n i : Nat} (h : m.Sound n) (hi : ∀ e ∈ m.remap, e.target ≠ some i) :
    SectorMap.Sound { m with bad := m.bad ||| BitVec.ofNat 32 (2 ^ i) } n := by
  refine ⟨h.1, fun e he k hk => ?_⟩
  have hne : i ≠ k := by rintro rfl; exact hi e he hk
  dsimp only
  rw [getLsbD_markedBad, h.2 e he k hk]
  simp [hne]

/-- An entry may be set to NONE or to a FREE spare (R124, R125). -/
theorem SectorMap.Sound.setEntry {m : SectorMap} {n x : Nat} {target : Option Nat} (h : m.Sound n)
    (hfree : ∀ i, target = some i → i < n ∧ m.Frees i) : (m.setEntry x target).Sound n := by
  refine ⟨h.1.setEntry fun i hi => ⟨(hfree i hi).1, (hfree i hi).2.1⟩, fun e he i hi => ?_⟩
  have hbad : (m.setEntry x target).bad = m.bad := by unfold SectorMap.setEntry; split_ifs <;> rfl
  rw [hbad]
  rcases SectorMap.mem_setEntry he with ht | ⟨hmem, -⟩
  · exact (hfree i (ht ▸ hi)).2.2
  · exact h.2 e hmem i hi

/-- The spare that an entry named is named by no entry once that entry is set to another target. -/
theorem SectorMap.Sound.old_unnamed {m : SectorMap} {n x j : Nat} {target : Option Nat} (h : m.Sound n)
    (hfree : ∀ i, target = some i → i < n ∧ m.Frees i) (hold : (m.entryOf x).bind (·.target) = some j) :
    ∀ e ∈ (m.setEntry x target).remap, e.target ≠ some j := by
  obtain ⟨o, ho, hj⟩ := Option.bind_eq_some_iff.mp hold
  obtain ⟨hmem, hsec⟩ := SectorMap.entryOf_some ho
  intro e he hej
  rcases SectorMap.mem_setEntry he with ht | ⟨hemem, hne⟩
  · exact (hfree j (ht ▸ hej)).2.1 o hmem hj
  · exact hne (target_inj h.1.2.1 hemem hmem hej hj ▸ hsec)

end Sys2Proof.Machine

/-! What a move leaves when it leaves the laws of O60 alone: the accesses, the queues and the claims do not touch the sector
map, the trial, the mode or the start-up reading, and fill no queue and stall no write while the mode refuses writes. -/

namespace Sys2Proof.Machine

/-! ### What the laws speak of -/

/-- The tables, the engine's item and trial, the mode and the start-up reading. -/
structure WorkCore where
  remap   : List RemapEntry
  bad     : BitVec 32
  spares  : Nat
  item    : WorkItem
  phase   : Phase
  trial   : Option Nat
  mode    : Mode
  startup : Option StartUp
  inReset : Bool

/-- Those components of a state. -/
def State.workCore (s : State) : WorkCore :=
  { remap := s.map.remap, bad := s.map.bad, spares := s.spareCount, item := s.engine.item, phase := s.engine.phase
    trial := s.engine.spareOnTrial, mode := s.mc.mode, startup := s.startup, inReset := s.inReset }

/-- No entry stands in HELD and CLEARING, and no write stalls in HOLDING either (R29, R157, R158). -/
def State.Quiet (s : State) : Prop :=
  (s.mc.mode = .held ∨ s.mc.mode = .clearing → s.queuesEmpty = true)
    ∧ (s.mc.mode = .holding ∨ s.mc.mode = .held ∨ s.mc.mode = .clearing → s.stall = none)

/-- A mode that lets writes in. -/
def State.TakesWrites (s : State) : Prop := s.mc.mode ≠ .holding ∧ s.mc.mode ≠ .held ∧ s.mc.mode ≠ .clearing

theorem State.TakesWrites.quiet {s : State} (h : s.TakesWrites) : s.Quiet := by
  obtain ⟨h1, h2, h3⟩ := h
  exact ⟨by rintro (h | h) <;> contradiction, by rintro (h | h | h) <;> contradiction⟩

/-- The move from `s` to `t` leaves what the laws speak of, and the quiet of the queues. -/
def Kept (s t : State) : Prop := t.workCore = s.workCore ∧ (s.Quiet → t.Quiet)

namespace Kept

theorem mode {s t : State} (h : Kept s t) : t.mc.mode = s.mc.mode := congrArg WorkCore.mode h.1
theorem phase {s t : State} (h : Kept s t) : t.engine.phase = s.engine.phase := congrArg WorkCore.phase h.1
theorem item {s t : State} (h : Kept s t) : t.engine.item = s.engine.item := congrArg WorkCore.item h.1

theorem trans {s t u : State} (h : Kept s t) (h' : Kept t u) : Kept s u := ⟨h'.1.trans h.1, fun hq => h'.2 (h.2 hq)⟩

theorem same {s t : State} (hc : t.workCore = s.workCore) (hq : t.queues = s.queues) (hs : t.stall = s.stall) :
    Kept s t := by
  have hmode : t.mc.mode = s.mc.mode := congrArg WorkCore.mode hc
  refine ⟨hc, fun h => ?_⟩
  rw [State.Quiet, State.queuesEmpty, hmode, hq, hs]
  exact h

theorem refl (s : State) : Kept s s := same rfl rfl rfl

theorem setPort (p : ArrayPort) (s : State) : Kept s (s.setPort p) := same rfl rfl rfl
theorem setReader (x : Reader) (s : State) : Kept s (s.setReader x) := same rfl rfl rfl
theorem setHost (x : HostPort) (s : State) : Kept s (s.setHost x) := same rfl rfl rfl
theorem setFlash (x : FlashBank) (s : State) : Kept s (s.setFlash x) := same rfl rfl rfl

theorem ofHostSide {s t : State} (h : HostSide s t) : Kept s t := by
  obtain ⟨_, _, _, _, rfl⟩ := h
  exact same rfl rfl rfl

/-- A change of the queues that fills no empty one, the stalled write as it was or gone. -/
theorem emptied {s t : State} (hc : t.workCore = s.workCore) (hq : s.queuesEmpty = true → t.queuesEmpty = true)
    (hs : s.stall = none → t.stall = none) : Kept s t := by
  have hmode : t.mc.mode = s.mc.mode := congrArg WorkCore.mode hc
  refine ⟨hc, fun h => ?_⟩
  rw [State.Quiet, hmode]
  exact ⟨fun hm => hq (h.1 hm), fun hm => hs (h.2 hm)⟩

/-- In a mode that lets writes in the queues and the stalled write are free. -/
theorem writes {s t : State} (hc : t.workCore = s.workCore) (hm : s.TakesWrites) : Kept s t := by
  have hmode : t.mc.mode = s.mc.mode := congrArg WorkCore.mode hc
  exact ⟨hc, fun _ => State.TakesWrites.quiet (by rw [State.TakesWrites, hmode]; exact hm)⟩

/-! ### Queues -/

/-- An operation on a queue that fills no empty one. -/
theorem updateQueue (r : Nat) {f : RegionQueue → RegionQueue} (hf : ∀ q, q.entries = [] → (f q).entries = []) (s : State) :
    Kept s (updateQueue r f s) := by
  refine emptied rfl (fun h => ?_) id
  have hall : ∀ q ∈ s.queues, q.entries = [] := by simpa [State.queuesEmpty] using h
  simp only [State.queuesEmpty, Machine.updateQueue, State.setQueues_queues, List.all_eq_true, List.isEmpty_iff]
  intro q hq
  obtain ⟨i, hi⟩ := List.getElem?_of_mem hq
  rw [List.getElem?_modify] at hi
  obtain ⟨q', hq', rfl⟩ := Option.map_eq_some_iff.mp hi
  have hempty := hall q' (List.mem_of_getElem? hq')
  split_ifs
  · exact hf q' hempty
  · exact hempty

theorem keepEntries (r : Nat) (k : Entry → Bool) (s : State) : Kept s (keepEntries r k s) :=
  updateQueue r (fun q hq => by simp [hq]) s

theorem markRegion (r : Nat) (s : State) : Kept s (markRegion r s) := by
  unfold Machine.markRegion; split_ifs
  · exact updateQueue r (f := fun q => { q with flushMark := true }) (fun _ hq => hq) s
  · exact refl s

theorem markAll (s : State) : Kept s (markAll s) := by
  unfold Machine.markAll
  generalize List.range s.queues.length = l
  induction l generalizing s with
  | nil => exact refl s
  | cons r l ih => exact (markRegion r s).trans (ih _)

/-- A stalled write appends only in a mode that lets writes in. -/
theorem stalledMayAppend (r : Nat) (s : State) : Kept s (stalledMayAppend r s) := by
  unfold Machine.stalledMayAppend; split
  · next w hw =>
    split_ifs
    · have happend : Kept s ((appendEntry r w.addr w.mask w.data s).setStall none) := by
        refine ⟨rfl, fun hq => State.TakesWrites.quiet ?_⟩
        have hm : s.TakesWrites := by
          refine ⟨fun h => ?_, fun h => ?_, fun h => ?_⟩ <;> simp [hq.2 (by simp [h])] at hw
        exact hm
      exact happend.trans (ofHostSide (hostSide_completeAccess _ _ _))
    · exact refl s
  · exact refl s

theorem removeEntries (r : Nat) (g : Entry → Bool) (s : State) : Kept s (removeEntries r g s) :=
  (keepEntries _ _ _).trans (stalledMayAppend _ _)

/-! ### Accesses -/

theorem completeAccess (e : Bool) (d : Option Word) (s : State) : Kept s (completeAccess e d s) :=
  ofHostSide (hostSide_completeAccess e d s)

theorem report (f : FaultReport) (s : State) : Kept s (report f s) := ofHostSide (hostSide_report f s)

theorem raiseHostClaim {o : ArrayOp} (ho : o.issuer.ofHost = true) (s : State) : Kept s (raiseHostClaim o s) :=
  ofHostSide (hostSide_raiseHostClaim ho s)

theorem claimRead (x : ReadAccess) (s : State) : Kept s (claimRead x s) :=
  (setReader _ s).trans (raiseHostClaim rfl _)

theorem endRead (e : Bool) (w : Word) (s : State) : Kept s (endRead e w s) :=
  (setReader _ s).trans (completeAccess _ _ _)

theorem takeRead (x : ReadAccess) (s : State) : Kept s (takeRead x s) := by
  unfold Machine.takeRead; split_ifs
  · exact same rfl rfl rfl
  · exact endRead _ _ s
  · exact claimRead x s

theorem claimDirect (d : DirectWrite) (s : State) : Kept s (claimDirect d s) :=
  (setPort _ s).trans (raiseHostClaim rfl _)

theorem directWrite (r : Nat) (a : HostAddr) (p : Nat) (m : LaneMask) (d : Word) (s : State) :
    Kept s (directWrite r a p m d s) := by
  unfold Machine.directWrite; dsimp only; split_ifs
  · exact same rfl rfl rfl
  · exact claimDirect _ s

theorem endDirect (e : Bool) (s : State) : Kept s (endDirect e s) :=
  (setPort _ s).trans (completeAccess _ _ _)

theorem refuseWrite (x : FaultReason) (r : Option Nat) (a : HostAddr) (s : State) : Kept s (refuseWrite x r a s) :=
  (report _ _).trans (completeAccess _ _ _)

theorem refuseSilently (p : HostPins) (s : State) : Kept s (refuseSilently p s) := by
  unfold Machine.refuseSilently; split_ifs <;> exact completeAccess _ _ s

theorem stagedWrite (r : Nat) (a : HostAddr) (m : LaneMask) (d : Word) {s : State} (hm : s.TakesWrites) :
    Kept s (stagedWrite r a m d s) := by
  unfold Machine.stagedWrite; split_ifs
  · exact (writes rfl hm : Kept s (coalesce r a m d s)).trans (completeAccess _ _ _)
  · exact (writes rfl hm : Kept s (appendEntry r a m d s)).trans (completeAccess _ _ _)
  · exact writes rfl hm

theorem classifyWrite (p : HostPins) (r psec : Nat) {s : State} (hm : s.TakesWrites) :
    Kept s (classifyWrite p r psec s) := by
  unfold Machine.classifyWrite; split_ifs
  · exact refuseWrite _ _ _ s
  · exact refuseWrite _ _ _ s
  all_goals split
  · exact completeAccess _ _ s
  · exact directWrite _ _ _ _ _ s
  · exact completeAccess _ _ s
  · exact stagedWrite _ _ _ _ hm

theorem classifyInRegion (p : HostPins) (r : Nat) (g : RegionRec) {s : State} (hm : p.write = true → s.TakesWrites) :
    Kept s (classifyInRegion p r g s) := by
  unfold Machine.classifyInRegion; split
  · split_ifs
    · exact refuseWrite _ _ _ s
    · exact completeAccess _ _ s
  · split_ifs with hw
    · exact classifyWrite _ _ _ (hm hw)
    · exact takeRead _ s

theorem classify (p : HostPins) (s : State) : Kept s (classify p s) := by
  unfold Machine.classify; split_ifs
  · exact refuseWrite _ _ _ s
  · exact completeAccess _ _ s
  · unfold classifyInside; split_ifs with _ hheld
    · exact refuseSilently p s
    · exact (same rfl rfl rfl : Kept s (countRefused s)).trans (completeAccess _ _ _)
    · split
      · exact refuseSilently p s
      · split
        · exact refuseSilently p s
        · exact classifyInRegion _ _ _ fun hw => by simpa [hw, State.TakesWrites, not_or, and_assoc] using hheld

theorem arrive (p : HostPins) (s : State) : Kept s (arrive p s) := by
  unfold Machine.arrive; dsimp only; split_ifs
  · exact same rfl rfl rfl
  · exact (setHost _ s).trans (classify p _)

theorem releaseHolds (x : Nat) (s : State) : Kept s (releaseHolds x s) := ofHostSide (hostSide_releaseHolds x s)

theorem stalledAfterRetirement (r x : Nat) (s : State) : Kept s (stalledAfterRetirement r x s) := by
  unfold Machine.stalledAfterRetirement; split
  · split_ifs
    · exact (emptied rfl id (fun _ => rfl) : Kept s (s.setStall none)).trans (refuseWrite _ _ _ _)
    · exact stalledMayAppend r s
  · exact refl s

theorem stallExpiryTaken (s : State) : Kept s (stallExpiryTaken s) := by
  unfold Machine.stallExpiryTaken; split
  · exact ((emptied rfl id (fun _ => rfl) : Kept s (s.setStall none)).trans (report _ _)).trans (completeAccess _ _ _)
  · exact refl s

/-! ### Claims and grants -/

theorem readIssued (x : RunningOp) (s : State) : Kept s (readIssued x s) := by
  unfold Machine.readIssued; split_ifs <;> exact same rfl rfl rfl

theorem countAttempt (o : ArrayOp) (s : State) : Kept s (countAttempt o s) := by
  unfold Machine.countAttempt; split <;> exact same rfl rfl rfl

theorem grant (s : State) : Kept s (grant s) := by
  obtain ⟨_, _, _, _, h⟩ := grant_frame s
  rw [h]; exact same rfl rfl rfl

theorem considerSuspend (s : State) : Kept s (considerSuspend s) := by
  unfold Machine.considerSuspend; split_ifs <;> exact same rfl rfl rfl

theorem issueInner (s : State) : Kept s (issueInner s) := by
  unfold Machine.issueInner; split
  · exact ((countAttempt _ s).trans (setPort _ _)).trans (readIssued _ _)
  · exact refl s

theorem endPulse (s : State) : Kept s (endPulse s) := by
  unfold Machine.endPulse; split_ifs
  · dsimp only; split
    · split_ifs
      · exact same rfl rfl rfl
      · exact (((setPort _ s).trans (setPort _ _)).trans (readIssued _ _)).trans (considerSuspend _)
    · exact same rfl rfl rfl
  · exact refl s

theorem directAttemptEnd (pass : Bool) (s : State) : Kept s (directAttemptEnd pass s) := by
  unfold Machine.directAttemptEnd; split
  · split_ifs
    · exact endDirect _ s
    · exact refl s
    · exact (report _ s).trans (endDirect _ _)
  · exact refl s

end Kept

end Sys2Proof.Machine

/-! Settles O60: the engine's items, relocation, start-up and the setup commands keep the laws. An item that is at work
keeps them as a whole; between the phase RELOCATE and the spare or the item's end the trial's law is open. -/

namespace Sys2Proof.Machine

/-! ### The laws without the trial -/

/-- The laws but for the trial's, in a part that is neither in reset nor offline. -/
structure State.Ordered (s : State) : Prop where
  map    : s.MapLawful
  modes  : s.ModeLawful
  judged : s.JudgedLawful
  online : s.mc.mode ≠ .offline
  awake  : s.inReset = false

/-- The laws in a part that is neither in reset nor offline. -/
def State.Working (s : State) : Prop := s.Ordered ∧ s.TrialLawful

/-- An item is about to end or to take another spare: the laws but for the trial's, with an item that relocation knows. -/
def State.Relocates (s : State) : Prop := s.Ordered ∧ s.engine.item ∈ Phase.relocate.items ∧ s.mc.mode ≠ .startup

theorem State.Working.lawful {s : State} (h : s.Working) : s.WorkLawful := ⟨h.1.map, h.2, h.1.modes, h.1.judged⟩

theorem State.WorkLawful.working {s : State} (h : s.WorkLawful) (hm : s.mc.mode ≠ .offline) (hr : s.inReset = false) :
    s.Working := by
  obtain ⟨hmap, htrial, hmodes, hjudged⟩ := h
  exact ⟨⟨hmap, hmodes, hjudged, hm, hr⟩, htrial⟩

theorem State.ModeLawful.quiet {s : State} (h : s.ModeLawful) : s.Quiet := ⟨fun hm => (h.1 hm).1, h.2.1⟩

/-- The laws of the modes and of the copies under a move that changes the item: what is asked of the item it leaves. -/
theorem State.ModeLawful.ofItem {s t : State} (h : s.ModeLawful) (hmode : t.mc.mode = s.mc.mode)
    (hstart : t.startup = s.startup) (hreset : t.inReset = s.inReset) (hq : t.Quiet)
    (hcommit : t.engine.item = .regionCommit → s.engine.item = .regionCommit ∨ s.mc.mode ≠ .held ∧ s.mc.mode ≠ .clearing)
    (hstep : t.engine.item = .clearStep → s.engine.item = .clearStep ∨ s.mc.mode = .clearing)
    (hidle : s.mc.mode = .startup → t.engine.phase = .idle) : t.ModeLawful := by
  obtain ⟨h1, -, h3, h4, -⟩ := h
  refine ⟨?_, hq.2, ?_, ?_, ?_⟩ <;> rw [hmode]
  · refine fun hm => ⟨hq.1 (by rw [hmode]; exact hm), fun hi => ?_⟩
    rcases hcommit hi with hs | ⟨hheld, hclear⟩
    · exact (h1 hm).2 hs
    · rcases hm with hm | hm <;> contradiction
  · intro hi
    rcases hstep hi with hs | hs
    · exact h3 hs
    · exact .inl hs
  · rw [hstart, hreset]; exact h4
  · exact hidle

theorem State.MapLawful.congr {s t : State} (h : s.MapLawful) (hremap : t.map.remap = s.map.remap)
    (hbad : t.map.bad = s.map.bad) (hspares : t.spareCount = s.spareCount) : t.MapLawful := by
  rw [State.MapLawful, SectorMap.Lawful, hremap, hbad, hspares]; exact h

theorem State.TrialLawful.congr {s t : State} (h : s.TrialLawful) (hremap : t.map.remap = s.map.remap)
    (hbad : t.map.bad = s.map.bad) (hspares : t.spareCount = s.spareCount) (hitem : t.engine.item = s.engine.item)
    (hphase : t.engine.phase = s.engine.phase) (htrial : t.engine.spareOnTrial = s.engine.spareOnTrial) :
    t.TrialLawful := by
  simp only [State.TrialLawful, SectorMap.Frees, hremap, hbad, hspares, hitem, hphase, htrial]; exact h

/-- With no spare on trial the trial's law asks that the item suits the phase. -/
theorem State.trialLawful_none {t : State} (hi : t.engine.item ∈ t.engine.phase.items) (hp : t.engine.phase ≠ .relocate)
    (ht : t.engine.spareOnTrial = none) : t.TrialLawful :=
  ⟨hi, by simp [hp, ht], by simp [ht]⟩

/-! ### Moves that leave the laws -/

section
variable {s t : State}

theorem State.Ordered.kept (h : s.Ordered) (hk : Kept s t) : t.Ordered := by
  obtain ⟨hc, hq⟩ := hk
  simp only [State.workCore, WorkCore.mk.injEq] at hc
  obtain ⟨hremap, hbad, hspares, hitem, hphase, -, hmode, hstart, hreset⟩ := hc
  exact ⟨h.map.congr hremap hbad hspares,
    h.modes.ofItem hmode hstart hreset (hq h.modes.quiet) (fun hi => .inl (hitem ▸ hi)) (fun hi => .inl (hitem ▸ hi))
      (fun hm => by rw [hphase]; exact h.modes.2.2.2.2 hm),
    by rw [State.JudgedLawful, hstart]; exact h.judged, by rw [hmode]; exact h.online, by rw [hreset]; exact h.awake⟩

theorem State.WorkLawful.kept (h : s.WorkLawful) (hk : Kept s t) : t.WorkLawful := by
  obtain ⟨hmap, htrial, hmodes, hjudged⟩ := h
  obtain ⟨hc, hq⟩ := hk
  simp only [State.workCore, WorkCore.mk.injEq] at hc
  obtain ⟨hremap, hbad, hspares, hitem, hphase, hspare, hmode, hstart, hreset⟩ := hc
  exact ⟨hmap.congr hremap hbad hspares, htrial.congr hremap hbad hspares hitem hphase hspare,
    hmodes.ofItem hmode hstart hreset (hq hmodes.quiet) (fun hi => .inl (hitem ▸ hi)) (fun hi => .inl (hitem ▸ hi))
      (fun hm => by rw [hphase]; exact hmodes.2.2.2.2 hm),
    by rw [State.JudgedLawful, hstart]; exact hjudged⟩

theorem State.Working.kept (h : s.Working) (hk : Kept s t) : t.Working :=
  (h.lawful.kept hk).working (by rw [hk.mode]; exact h.1.online)
    (by rw [show t.inReset = s.inReset from congrArg WorkCore.inReset hk.1]; exact h.1.awake)

theorem State.Relocates.kept (h : s.Relocates) (hk : Kept s t) : t.Relocates :=
  ⟨h.1.kept hk, by rw [hk.item]; exact h.2.1, by rw [hk.mode]; exact h.2.2⟩

/-- A move of the engine alone that begins an item, goes to another phase or ends an item: no spare on trial. -/
theorem State.Ordered.engine (h : s.Ordered) (e : Engine) (hi : e.item ∈ e.phase.items) (hp : e.phase ≠ .relocate)
    (ht : e.spareOnTrial = none)
    (hcommit : e.item = .regionCommit → s.engine.item = .regionCommit ∨ s.mc.mode ≠ .held ∧ s.mc.mode ≠ .clearing)
    (hstep : e.item = .clearStep → s.engine.item = .clearStep ∨ s.mc.mode = .clearing)
    (hidle : s.mc.mode = .startup → e.phase = .idle) : (s.setEngine e).Working :=
  ⟨⟨h.map, h.modes.ofItem rfl rfl rfl h.modes.quiet hcommit hstep hidle, h.judged, h.online, h.awake⟩,
    State.trialLawful_none hi hp ht⟩

/-- An engine with nothing in hand. -/
theorem State.Ordered.idles (h : s.Ordered) (e : Engine) (hi : e.item = .none) (hp : e.phase = .idle)
    (ht : e.spareOnTrial = none) : (s.setEngine e).Working :=
  h.engine e (by rw [hi, hp]; simp [Phase.items]) (by simp [hp]) ht (by simp [hi]) (by simp [hi]) fun _ => hp

end

theorem State.Ordered.toIdle {s : State} (h : s.Ordered) : (s.setEngine s.engine.toIdle).Working := h.idles _ rfl rfl rfl

/-! ### Phases of an item -/

section
variable {s : State}

/-- An item in a phase other than RELOCATE has no spare on trial. -/
theorem State.Working.noTrial (h : s.Working) (hp : s.engine.phase ≠ .relocate) : s.engine.spareOnTrial = none := by
  simpa [hp] using h.2.2.1

theorem State.Working.item (h : s.Working) {p : Phase} (hp : s.engine.phase = p) : s.engine.item ∈ p.items :=
  hp ▸ h.2.1

/-- An engine at work is past start-up. -/
theorem State.Working.started (h : s.Working) (hp : s.engine.phase ≠ .idle) : s.mc.mode ≠ .startup :=
  fun hm => hp (h.1.modes.2.2.2.2 hm)

/-- The item goes to another phase, or on in its own, with no spare on trial. -/
theorem State.Working.enters (h : s.Working) (e : Engine) (hsame : e.item = s.engine.item)
    (htrial : e.spareOnTrial = s.engine.spareOnTrial) (hi : s.engine.item ∈ e.phase.items) (hp : e.phase ≠ .relocate)
    (hbusy : s.engine.phase ≠ .idle) (hhome : s.engine.phase ≠ .relocate) : (s.setEngine e).Working :=
  h.1.engine e (by rw [hsame]; exact hi) hp (by rw [htrial]; exact h.noTrial hhome) (fun hc => .inl (hsame ▸ hc))
    (fun hc => .inl (hsame ▸ hc)) fun hm => absurd hm (h.started hbusy)

/-- The fields of the engine that the laws do not speak of. -/
theorem Kept.setEngine {e : Engine} (hi : e.item = s.engine.item) (hp : e.phase = s.engine.phase)
    (ht : e.spareOnTrial = s.engine.spareOnTrial) : Kept s (s.setEngine e) :=
  .same (by simp only [State.workCore, State.setEngine_map, State.setEngine_engine, State.setEngine_mc,
    State.setEngine_startup, State.setEngine_inReset, hi, hp, ht]; rfl) rfl rfl

theorem Kept.engineRead (offset : Nat) (s : State) : Kept s (engineRead offset s) := .setPort _ s

theorem Kept.engineProgram (offset : Nat) (v : Word) (s : State) : Kept s (engineProgram offset v s) :=
  (Kept.setEngine rfl rfl rfl).trans (.setPort _ _)

theorem Kept.setCru (c : ControlUnit) (s : State) : Kept s (s.setCru c) := .same rfl rfl rfl

theorem Kept.controlFailure (psec : Nat) (x : FaultReason) (s : State) : Kept s (controlFailure psec x s) :=
  (Kept.report _ s).trans (.setCru _ _)

theorem Kept.setUpdatePending (s : State) : Kept s (setUpdatePending s) := .same rfl rfl rfl

/-! ### Ends of items -/

theorem State.Relocates.endCommit (h : s.Relocates) : (endCommit s).Working := h.1.idles _ rfl rfl rfl

theorem State.Ordered.endJob (h : s.Ordered) (r : JobResult) : (endJob r s).Working :=
  (h.idles { s.engine.toIdle with jobPending := false, jobSector := none, lastJobResult := r } rfl rfl rfl).kept
    (.releaseHolds _ _)

/-- CLEARING ends in HELD with its queues still empty (R87). -/
theorem State.Working.completeClear (h : s.Working) (hm : s.mc.mode = .clearing) (hi : s.engine.item ≠ .clearStep) :
    (completeClear s).Working := by
  obtain ⟨⟨hmap, ⟨h1, h2, -, h4, h5⟩, hjudged, -, hawake⟩, htrial⟩ := h
  refine ⟨⟨hmap, ⟨fun _ => h1 (.inr hm), fun _ => h2 (.inr (.inr hm)), fun hc => absurd hc hi, fun hs => ?_, ?_⟩, hjudged, ?_,
    hawake⟩, htrial⟩
  · exact absurd (h4 hs) (by simp [hm])
  · exact fun hs => absurd (show Mode.held = Mode.startup from hs) (by decide)
  · exact fun hs => absurd (show Mode.held = Mode.offline from hs) (by decide)

theorem State.Relocates.endClearStep (h : s.Relocates) (hi : s.engine.item = .clearStep) : (endClearStep s).Working := by
  have hm : s.mc.mode = .clearing := (h.1.modes.2.2.1 hi).resolve_right h.1.online
  have hidle := h.1.toIdle
  have hended := (hidle.kept (t := (s.setEngine s.engine.toIdle).setMc { s.mc with clearIndex := s.engine.sector + 1 })
    (.same rfl rfl rfl)).kept (.releaseHolds s.engine.sector _)
  unfold Machine.endClearStep; dsimp only; split_ifs
  · refine hended.completeClear ?_ ?_
    · rw [(Kept.releaseHolds _ _).mode]; exact hm
    · rw [(Kept.releaseHolds _ _).item]; simp [Engine.toIdle]
  · exact hended

theorem State.Relocates.endRelocated (h : s.Relocates) (r : JobResult) : (endRelocated r s).Working := by
  have hitem := h.2.1
  unfold Machine.endRelocated; split
  · exact h.endCommit
  · exact h.1.endJob r
  · exact h.endClearStep ‹_›
  · simp_all [Phase.items]

/-! ### Relocation -/

/-- An item at work in a phase that relocation knows. -/
theorem State.Working.relocates (h : s.Working) (hi : s.engine.item ∈ Phase.relocate.items) : s.Relocates := by
  refine ⟨h.1, hi, h.started fun hp => ?_⟩
  have := h.item hp
  simp_all [Phase.items]

/-- The tables change, and stay lawful. -/
theorem State.Relocates.setMap (h : s.Relocates) {m : SectorMap} (hm : m.Sound s.spareCount) : (s.setMap m).Relocates := by
  obtain ⟨⟨-, hmodes, hjudged, honline, hawake⟩, hrest⟩ := h
  exact ⟨⟨hm, hmodes, hjudged, honline, hawake⟩, hrest⟩

/-- The item sector's entry is set to NONE or to a FREE spare, and the spare that it named becomes BAD (R124, R125). -/
theorem State.Relocates.retarget (h : s.Relocates) {x : Nat} {target : Option Nat}
    (hfree : ∀ i, target = some i → i < s.spareCount ∧ s.map.Frees i) {u : State}
    (hu : Kept (s.setMap (s.map.setEntry x target)) u) :
    (setUpdatePending (markOldSpare (s.map.entryOf x) u)).Relocates := by
  have hset : u.Relocates := (h.setMap (SectorMap.Sound.setEntry h.1.map hfree)).kept hu
  refine State.Relocates.kept ?_ (.setUpdatePending _)
  unfold markOldSpare
  split
  · next j hj =>
    have hun := SectorMap.Sound.old_unnamed h.1.map hfree hj
    have hremap : u.map.remap = (s.map.setEntry x target).remap := congrArg WorkCore.remap hu.1
    unfold markSpareBad; dsimp only
    refine State.Relocates.kept ?_ ((Kept.report _ _).trans (.setUpdatePending _))
    exact hset.setMap (SectorMap.Sound.markBad hset.1.map (by rw [hremap]; exact hun))
  · exact hset

theorem State.Relocates.retireSector (h : s.Relocates) : (retireSector s).Working := by
  unfold Machine.retireSector; dsimp only
  refine State.Relocates.endRelocated (State.Relocates.kept ?_ (.stalledAfterRetirement _ _ _)) _
  exact h.retarget (by simp) ((Kept.keepEntries _ _ _).trans (.report _ _))

theorem State.Relocates.remapTo (h : s.Relocates) {i : Nat} (hi : i < s.spareCount) (hfree : s.map.Frees i) :
    (remapTo i s).Working := by
  unfold Machine.remapTo; dsimp only
  refine State.Relocates.endRelocated ?_ _
  exact h.retarget (by rintro j ⟨⟩; exact ⟨hi, hfree⟩) (.report _ _)

/-- The spare that a sector is given is FREE and below S (R118). -/
theorem lowestFree_frees {i : Nat} (h : s.lowestFree = some i) : i < s.spareCount ∧ s.map.Frees i := by
  have hstate := List.find?_some h
  refine ⟨by simpa using List.mem_of_find?_eq_some h, ?_⟩
  simp only [SectorMap.spareState] at hstate
  split_ifs at hstate with h1 h2
  · simp at hstate
  · simp at hstate
  · exact ⟨by simpa using h1, by simpa using h2⟩

theorem State.Relocates.trySpare (h : s.Relocates) : (trySpare s).Working := by
  unfold Machine.trySpare; split
  · next i hi =>
    obtain ⟨⟨hmap, hmodes, hjudged, honline, hawake⟩, hitem, hstarted⟩ := h
    refine ⟨⟨hmap, hmodes.ofItem rfl rfl rfl hmodes.quiet .inl .inl fun hm => absurd hm hstarted, hjudged, honline, hawake⟩,
      hitem, by simp [engineErase, raiseEngineClaim], ?_⟩
    rintro j ⟨⟩
    exact lowestFree_frees hi
  · exact h.retireSector

theorem State.Working.enterRelocate (h : s.Working) (hi : s.engine.item ∈ Phase.relocate.items) :
    (enterRelocate s).Working := by
  obtain ⟨⟨hmap, hmodes, hjudged, honline, hawake⟩, hitem, hstarted⟩ := h.relocates hi
  have hrel : (s.setEngine { s.engine with phase := .relocate }).Relocates :=
    ⟨⟨hmap, hmodes.ofItem rfl rfl rfl hmodes.quiet .inl .inl fun hm => absurd hm hstarted, hjudged, honline, hawake⟩, hitem,
      hstarted⟩
  unfold Machine.enterRelocate; dsimp only; split_ifs
  · exact hrel.trySpare
  · exact (hrel.kept (.report _ _)).endRelocated _

/-- In RELOCATE there is a spare on trial, FREE and below S. -/
theorem State.Working.trial (h : s.Working) (hp : s.engine.phase = .relocate) :
    s.engine.spareOnTrial.getD 0 < s.spareCount ∧ s.map.Frees (s.engine.spareOnTrial.getD 0) := by
  obtain ⟨i, hi⟩ := Option.isSome_iff_exists.mp (h.2.2.1.mp hp)
  rw [hi]; exact h.2.2.2 i hi

theorem State.Working.spareFails (h : s.Working) (hp : s.engine.phase = .relocate) : (spareFails s).Working := by
  have hfree := (h.trial hp).2
  have hrel := (h.relocates (h.item hp)).setMap (SectorMap.Sound.markBad h.1.map hfree.1)
  exact (hrel.kept ((Kept.report _ _).trans (.setUpdatePending _))).trySpare

theorem State.Working.spareSucceeds (h : s.Working) (hp : s.engine.phase = .relocate) : (spareSucceeds s).Working := by
  obtain ⟨hlt, hfree⟩ := h.trial hp
  exact (h.relocates (h.item hp)).remapTo hlt hfree

theorem State.Working.writeImage (h : s.Working) (hp : s.engine.phase = .writeback ∨ s.engine.phase = .relocate)
    (start : Nat) : (writeImage start s).Working := by
  unfold Machine.writeImage; split
  · exact h.kept (.engineProgram _ _ _)
  · split_ifs with hrel
    · exact h.spareSucceeds hrel
    · have hitem := h.item (hp.resolve_right hrel)
      exact (h.relocates (by simp_all [Phase.items])).endCommit

end

/-! ### The REGION_COMMIT's phases -/

section
variable {s : State}

/-- A REGION_COMMIT is at work with no spare on trial. -/
def State.Commits (s : State) : Prop := s.Working ∧ s.engine.item = .regionCommit ∧ s.engine.phase ≠ .relocate

theorem State.Commits.kept {t : State} (h : s.Commits) (hk : Kept s t) : t.Commits :=
  ⟨h.1.kept hk, by rw [hk.item]; exact h.2.1, by rw [hk.phase]; exact h.2.2⟩

theorem State.Working.commits (h : s.Working) {p : Phase} (hp : s.engine.phase = p) (hi : p.items = [.regionCommit])
    (hne : p ≠ .relocate) : s.Commits := by
  have := h.item hp
  exact ⟨h, by simp_all, by rw [hp]; exact hne⟩

theorem State.Commits.relocates (h : s.Commits) : s.Relocates := h.1.relocates (by simp [h.2.1, Phase.items])

theorem State.Commits.busy (h : s.Commits) : s.engine.phase ≠ .idle := fun hp => by
  have hi := h.1.item hp
  simp [h.2.1, Phase.items] at hi

/-- The commit goes to another of its phases. -/
theorem State.Commits.enters (h : s.Commits) (e : Engine) (hsame : e.item = s.engine.item)
    (htrial : e.spareOnTrial = s.engine.spareOnTrial) (hi : .regionCommit ∈ e.phase.items) (hp : e.phase ≠ .relocate) :
    (s.setEngine e).Commits :=
  ⟨h.1.enters e hsame htrial (by rw [h.2.1]; exact hi) hp h.busy h.2.2, hsame.trans h.2.1, hp⟩

theorem State.Commits.enterRelocate (h : s.Commits) : (enterRelocate s).Working :=
  h.1.enterRelocate (by simp [h.2.1, Phase.items])

theorem State.Commits.enterLoad (h : s.Commits) : (enterLoad s).Working :=
  (h.enters { s.engine with phase := .load, path := some .load, cursor := 0, mergeSector := s.engine.itemSector
                            mergeValid := false } rfl rfl (by simp [Phase.items]) (by simp)).1.kept (.engineRead _ _)

theorem State.Commits.programChanged (h : s.Commits) (k : Nat) : (programChanged k s).Working := by
  unfold Machine.programChanged; split
  · exact h.1.kept (.engineProgram _ _ _)
  · exact h.relocates.endCommit

theorem State.Commits.releaseGathered (h : s.Commits) (g : GatheredEntry) : (releaseGathered g s).Commits :=
  (h.kept (.setEngine (e := { s.engine with gathered := _ }) rfl rfl rfl)).kept (.removeEntries _ _ _)

theorem State.Commits.programGathered (h : s.Commits) (gs : List GatheredEntry) : (programGathered gs s).Working := by
  induction gs generalizing s with
  | nil => exact h.relocates.endCommit
  | cons g rest ih =>
    unfold Machine.programGathered; split_ifs
    · exact ih h
    · exact ih (h.releaseGathered g)
    · exact h.1.kept (.engineProgram _ _ _)

theorem State.Commits.gatherRead (h : s.Commits) (w : Word) : (gatherRead w s).Working := by
  unfold Machine.gatherRead; split
  · exact h.1
  · next k _ =>
    have hold : (s.setEngine { s.engine with gathered := s.engine.gathered.modify k (·.withOld w) }).Commits :=
      h.kept (.setEngine rfl rfl rfl)
    dsimp only; split_ifs
    · exact hold.enterLoad
    · split
      · exact hold.1.kept (.engineRead _ _)
      · exact (hold.enters _ (by rfl) (by rfl) (by simp [Phase.items]) (by simp)).programGathered _

theorem State.Commits.endOfLoad (h : s.Commits) : (endOfLoad s).Working := by
  have happly : ∀ e : Engine, e.item = s.engine.item → e.phase = s.engine.phase → e.spareOnTrial = s.engine.spareOnTrial →
      ∀ r, (releaseAll r (s.setEngine e)).Commits := fun e hi hp ht r =>
    (h.kept (.setEngine hi hp ht)).kept (.removeEntries _ _ _)
  unfold Machine.endOfLoad; dsimp only
  generalize hu : releaseAll _ _ = u
  have hrel : u.Commits := hu ▸ happly _ (by rfl) (by rfl) (by rfl) _
  split_ifs
  · exact hrel.enterRelocate
  · exact (hrel.enters { u.engine with phase := .erase, itemPhys := _, eraseAttempts := 0 } rfl rfl
      (by simp [Phase.items]) (by simp)).1.kept (.setPort _ _)
  · exact (hrel.enters _ (by rfl) (by rfl) (by simp [Phase.items]) (by simp)).programChanged 0
  · exact hrel.relocates.endCommit

theorem State.Commits.loadRead (h : s.Commits) (w : Word) : (loadRead w s).Working := by
  have hword : (s.setEngine { s.engine with merge := s.engine.merge.setIfInBounds s.engine.cursor w
                                            cursor := s.engine.cursor + 1 }).Commits := h.kept (.setEngine rfl rfl rfl)
  unfold Machine.loadRead lastWordLoaded; dsimp only; split_ifs
  · exact hword.1.kept (.engineRead _ _)
  · exact hword.1
  · exact hword.endOfLoad

theorem State.Working.endWaitingLoad (h : s.Working) : (endWaitingLoad s).Working := by
  unfold Machine.endWaitingLoad; split_ifs with hwaits
  · have hp : s.engine.phase = .load := by simp [State.endOfLoadWaits] at hwaits; exact hwaits.1.1
    exact (h.commits hp rfl (by simp)).endOfLoad
  · exact h

/-! ### The CONTROL_UPDATE's phases -/

/-- A CONTROL_UPDATE is at work. -/
def State.Updates (s : State) : Prop :=
  s.Working ∧ s.engine.item = .controlUpdate

theorem State.Working.updates (h : s.Working) {p : Phase} (hp : s.engine.phase = p) (hi : p.items = [.controlUpdate]) :
    s.Updates := by
  have := h.item hp
  exact ⟨h, by simp_all⟩

theorem State.Updates.enters (h : s.Updates) (e : Engine) (hsame : e.item = s.engine.item)
    (htrial : e.spareOnTrial = s.engine.spareOnTrial) (hi : .controlUpdate ∈ e.phase.items) (hp : e.phase ≠ .relocate) :
    (s.setEngine e).Working := by
  have hhome : s.engine.phase ≠ .relocate := fun hr => by simpa [h.2, Phase.items] using h.1.item hr
  have hbusy : s.engine.phase ≠ .idle := fun hr => by simpa [h.2, Phase.items] using h.1.item hr
  exact h.1.enters e hsame htrial (by rw [h.2]; exact hi) hp hbusy hhome

theorem State.Updates.startTry (h : s.Updates) : (startTry s).Working :=
  (h.enters { s.engine with cursor := 0, phase := .controlErase, itemPhys := _, eraseAttempts := 0 } rfl rfl
    (by simp [Phase.items]) (by simp)).kept (.setPort _ _)

theorem State.Updates.tryFails (h : s.Updates) (x : FaultReason) : (tryFails x s).Working := by
  unfold Machine.tryFails; split_ifs
  · exact (h.1.1.kept (.controlFailure _ x s)).toIdle
  · have hsecond : (s.setEngine { s.engine with try2 := true }).Updates := ⟨h.1.kept (.setEngine rfl rfl rfl), h.2⟩
    exact hsecond.startTry

theorem State.Updates.writeRecordFrom (h : s.Updates) (k : Nat) : (writeRecordFrom k s).Working := by
  unfold Machine.writeRecordFrom; split
  · exact (h.enters _ (by rfl) (by rfl) (by simp [Phase.items]) (by simp)).kept (.engineProgram _ _ _)
  · exact (h.enters _ (by rfl) (by rfl) (by simp [Phase.items]) (by simp)).kept (.engineRead _ _)

theorem State.Updates.verifyRead (h : s.Updates) (w : Word) : (verifyRead w s).Working := by
  unfold Machine.verifyRead; dsimp only; split_ifs
  · exact (h.1.kept (.setEngine (by rfl) (by rfl) (by rfl))).kept (.engineRead _ _)
  · exact (h.1.1.kept (.setCru _ s)).toIdle
  · exact h.tryFails _

end

/-! ### The ends of the engine's operations -/

namespace State.Working

variable {s : State} (h : s.Working)
include h

theorem engineReadEnd (w : Word) : (engineReadEnd w s).Working := by
  unfold Machine.engineReadEnd; split
  · exact (h.commits ‹_› rfl (by simp)).gatherRead w
  · exact (h.commits ‹_› rfl (by simp)).loadRead w
  · exact (h.updates ‹_› rfl).verifyRead w
  · exact h

theorem engineProgramPass (o : ArrayOp) : (engineProgramPass o s).Working := by
  unfold Machine.engineProgramPass; split
  · have hc := h.commits ‹_› rfl (by simp)
    split_ifs
    · split
      · exact (hc.releaseGathered _).programGathered _
      · exact hc.relocates.endCommit
    · exact hc.programChanged _
  · exact h.writeImage (.inl ‹_›) _
  · exact h.writeImage (.inr ‹_›) _
  · exact (h.updates ‹_› rfl).writeRecordFrom _
  · exact h

theorem engineProgramFail (o : ArrayOp) : (engineProgramFail o s).Working := by
  unfold Machine.engineProgramFail; split_ifs with hwrite
  · exact (h.updates hwrite rfl).tryFails _
  · exact h.kept (.setPort _ _)
  · unfold programExhausted; split
    · have hc := h.commits ‹_› rfl (by simp)
      split_ifs
      · exact (hc.kept (.setEngine (by rfl) (by rfl) (by rfl))).enterLoad
      · exact hc.enterRelocate
    · exact (h.commits ‹_› rfl (by simp)).enterRelocate
    · exact h.spareFails ‹_›
    · exact h

theorem engineErasePass : (engineErasePass s).Working := by
  unfold Machine.engineErasePass; split
  · exact ((h.commits ‹_› rfl (by simp)).enters { s.engine with phase := .writeback } rfl rfl (by simp [Phase.items])
      (by simp)).1.writeImage (.inl rfl) 0
  · split_ifs
    · exact h.writeImage (.inr ‹_›) 0
    · exact h.spareSucceeds ‹_›
  · exact h.1.endJob _
  · have hitem := h.item ‹_›
    exact (h.relocates (by simp_all [Phase.items])).endClearStep (by simpa [Phase.items] using hitem)
  · exact (h.updates ‹_› rfl).writeRecordFrom 0
  · exact h

theorem engineEraseFail (o : ArrayOp) : (engineEraseFail o s).Working := by
  have hitem := h.2.1
  unfold Machine.engineEraseFail; split
  · exact (h.updates ‹_› rfl).tryFails _
  · split_ifs
    · exact h.kept (.setPort _ _)
    · exact h.spareFails ‹_›
  iterate 3
    · split_ifs
      · exact h.kept (.setPort _ _)
      · exact h.enterRelocate (by simp_all [Phase.items])
  · exact h

theorem engineOpEnd (o : ArrayOp) (pass : Bool) (w : Word) : (engineOpEnd o pass w s).Working := by
  unfold Machine.engineOpEnd; split
  · exact h.engineReadEnd w
  · exact h.engineProgramPass o
  · exact h.engineProgramFail o
  · exact h.engineErasePass
  · exact h.engineEraseFail o

theorem engineOpTimeout (o : ArrayOp) : (engineOpTimeout o s).Working := by
  unfold Machine.engineOpTimeout; split
  · unfold engineReadTimeout; split
    · exact (h.updates ‹_› rfl).tryFails _
    · exact h.kept (.setPort _ _)
  · exact h.engineProgramFail o
  · exact h.engineEraseFail o

end State.Working

end Sys2Proof.Machine

/-! Settles O60: selections, start-up, array loss and the setup commands keep the laws, and so does every step. -/

namespace Sys2Proof.Machine

/-! ### The end of an event -/

namespace State.Working

variable {s : State} (h : s.Working)
include h

theorem drain : (drain s).Working := by
  unfold Machine.drain; split_ifs with hc
  · obtain ⟨hm, hempty, hitem⟩ := hc
    obtain ⟨⟨hmap, ⟨h1, h2, h3, h4, h5⟩, hjudged, honline, hawake⟩, htrial⟩ := h
    refine ⟨⟨hmap, ⟨fun _ => ⟨hempty, hitem⟩, fun _ => h2 (.inl hm), fun hi => ?_, fun hs => ?_, fun hs => ?_⟩, hjudged,
      fun hs => ?_, hawake⟩, htrial⟩
    · have := h3 hi
      simp [hm] at this
    · exact absurd (h4 hs) (by simp [hm])
    · exact absurd (show Mode.held = Mode.startup from hs) (by decide)
    · exact absurd (show Mode.held = Mode.offline from hs) (by decide)
  · exact h

/-- A selection finds an engine with nothing in hand, in a mode in which items run. -/
theorem selectable (hmay : s.maySelect = true) : s.engine.item = .none ∧ s.mc.mode ≠ .startup := by
  simp only [State.maySelect, Bool.and_eq_true, beq_iff_eq, Bool.or_eq_true] at hmay
  refine ⟨by simpa [Phase.items] using h.item hmay.1.1, fun hm => ?_⟩
  simp [hm] at hmay

/-- A selection begins an item. -/
theorem starts (hmay : s.maySelect = true) (e : Engine) (hi : e.item ∈ e.phase.items) (hp : e.phase ≠ .relocate)
    (ht : e.spareOnTrial = s.engine.spareOnTrial)
    (hcommit : e.item = .regionCommit → s.mc.mode ≠ .held ∧ s.mc.mode ≠ .clearing)
    (hstep : e.item = .clearStep → s.mc.mode = .clearing) : (s.setEngine e).Working := by
  have hphase : s.engine.phase ≠ .relocate := by
    simp only [State.maySelect, Bool.and_eq_true, beq_iff_eq] at hmay
    simp [hmay.1.1]
  exact h.1.engine e hi hp (by rw [ht]; exact h.noTrial hphase) (fun hc => .inr (hcommit hc)) (fun hc => .inr (hstep hc))
    fun hm => absurd hm (h.selectable hmay).2

theorem startUpdate (hmay : s.maySelect = true) : (startUpdate s).Working := by
  have hflag : (s.setCru { s.cru with updatePending := false }).Working := h.kept (.setCru _ s)
  unfold Machine.startUpdate; dsimp only; split_ifs
  · exact hflag.kept (.controlFailure _ _ _)
  · refine State.Working.kept (hflag.starts hmay { s.engine with
      item := .controlUpdate, itemPhys := _, try2 := false, record := _, recordGen := _, cursor := 0, phase := .controlErase
      eraseAttempts := 0 } ?_ ?_ rfl ?_ ?_) (.setPort _ _)
    · simp [Phase.items]
    · simp
    · simp
    · simp

theorem startJob (hmay : s.maySelect = true) : (startJob s).Working := by
  unfold Machine.startJob; dsimp only; split_ifs
  · refine State.Working.kept (h.starts hmay { s.engine with
      item := .eraseJob, itemSector := _, phase := .jobErase, itemPhys := _, eraseAttempts := 0 } ?_ ?_ rfl ?_ ?_)
      (.setPort _ _)
    · simp [Phase.items]
    · simp
    · simp
    · simp
  · exact h.1.endJob _

theorem startClearStep (hmay : s.maySelect = true) (hm : s.mc.mode = .clearing) : (startClearStep s).Working := by
  have hindex : ∀ k, (s.setMc { s.mc with clearIndex := k }).Working := fun k => h.kept (.same rfl rfl rfl)
  unfold Machine.startClearStep; dsimp only; split_ifs
  · exact (hindex _).completeClear hm (by simp [(h.selectable hmay).1])
  · refine State.Working.kept ((hindex s.nextToClear).starts hmay { s.engine with
      item := .clearStep, itemSector := _, phase := .clearErase, itemPhys := _, eraseAttempts := 0 } ?_ ?_ rfl ?_ ?_)
      (.setPort _ _)
    · simp [Phase.items]
    · simp
    · simp
    · exact fun _ => hm

theorem startCommit (hmay : s.maySelect = true) (hm : s.mc.mode ≠ .held ∧ s.mc.mode ≠ .clearing) (r : Nat) :
    (startCommit r s).Working := by
  have hcommits : ∀ e : Engine, e.item = .regionCommit → e.phase = .gather → e.spareOnTrial = s.engine.spareOnTrial →
      (s.setEngine e).Commits := fun e hi hp ht =>
    ⟨h.starts hmay e (by simp [hi, hp, Phase.items]) (by simp [hp]) ht (fun _ => hm) (by simp [hi]), hi, by simp [hp]⟩
  unfold Machine.startCommit; dsimp only; split
  · exact h.1.idles _ rfl rfl rfl
  · next x _ =>
    have hgather : ∀ e : Engine, e.item = .regionCommit → e.phase = .gather → e.spareOnTrial = s.engine.spareOnTrial →
        ∀ v, ((gatherEntries r x (s.setEngine v)).setEngine e).Commits := fun e hi hp ht v =>
      (hcommits e hi hp ht).kept (Kept.updateQueue r
        (f := fun q => { q with entries := q.entries.map fun e =>
          if e.waits && sectorOf e.addr == x then { e with state := .committing } else e }) (fun q hq => by simp [hq]) _)
    split_ifs
    · exact (hgather _ (by rfl) (by rfl) (by rfl) _).1.kept (.engineRead _ _)
    · exact (hgather _ (by rfl) (by rfl) (by rfl) _).enterLoad

/-- A region that is due holds an entry. -/
theorem dueRegion_none (hm : s.mc.mode = .held ∨ s.mc.mode = .clearing) : s.dueRegion = none := by
  have hempty := (queuesEmpty_iff s).mp (h.1.modes.1 hm).1
  have hclass : ∀ r, s.dueClass r = none := fun r => by
    rw [dueClass_eq, if_pos (.inr (by simp [State.count, hempty r]))]
  simp [State.dueRegion, hclass]

theorem selectOnce {t : State} (ht : selectOnce s = some t) : t.Working := by
  unfold Machine.selectOnce at ht
  split_ifs at ht with hmay hpend hjob hclear
  · cases ht; exact h.startUpdate (by simpa using hmay)
  · cases ht; exact h.startJob (by simpa using hmay)
  · cases ht; exact h.startClearStep (by simpa using hmay) hclear
  · obtain ⟨r, hr, rfl⟩ := Option.map_eq_some_iff.mp ht
    refine h.startCommit (by simpa using hmay) ⟨fun hm => ?_, hclear⟩ r
    simp [h.dueRegion_none (.inl hm)] at hr

theorem selectItems (n : Nat) : (selectItems n s).Working := by
  induction n generalizing s with
  | zero => exact h
  | succ n ih =>
    unfold Machine.selectItems; split
    · exact ih (h.selectOnce ‹_›)
    · exact h

theorem settle : (settle s).Working := (h.drain.selectItems _).kept (.grant _)

theorem finish : (finish s).Working := by
  unfold Machine.finish; dsimp only; split_ifs with hc
  · rw [takeReselect, if_pos hc]
    exact (h.settle.kept (.arrive _ _)).settle
  · exact h.settle

end State.Working

/-! ### Start-up -/

/-- A judgement that another branch cannot give is given by the rest of the tests. -/
theorem judgement_of_ite {c : Prop} [Decidable c] {j x : Judgement} {r : ControlRecord} (hj : j ≠ .valid r)
    (h : (if c then j else x) = .valid r) : x = .valid r := by
  split_ifs at h with hc
  · exact absurd h hj
  · exact h

/-- The tables of a copy that is judged valid suit its image (R139). -/
theorem judgeWhole_tables {b : List Byte} {li p m : Nat} {r : ControlRecord} (h : judgeWhole b li p m = .valid r) :
    tablesValid r = true := by
  unfold judgeWhole at h
  dsimp only at h
  have h' := judgement_of_ite (by simp) h
  split at h'
  · simp at h'
  · split_ifs at h' with htables
    cases h'
    exact htables

theorem judgeCopy_tables {ws : List Word} {r : ControlRecord} (h : judgeCopy ws = .valid r) : tablesValid r = true := by
  unfold judgeCopy at h
  extract_lets b have? li p m at h
  clear_value b have? li p m
  iterate 9 replace h := judgement_of_ite (by simp) h
  by_cases hlast : have? (14 + li + 4 * p + 3 * m) = true
  · rw [if_pos hlast] at h; exact judgeWhole_tables h
  · rw [if_neg hlast] at h; simp at h

/-- Tables that suit an image are sound under its spare count. -/
theorem tablesValid_sound {r : ControlRecord} (h : tablesValid r = true) (prot : List ProtRange) :
    SectorMap.Sound { remap := r.remap, bad := r.bad, protection := prot } r.image.spares := by
  simp only [tablesValid, Bool.and_eq_true, List.all_eq_true, List.mem_filterMap, decide_eq_true_eq, Bool.not_eq_true',
    forall_exists_index, and_imp] at h
  obtain ⟨⟨⟨-, hsectors⟩, htargets⟩, hnamed⟩ := h
  exact ⟨⟨hsectors, hnamed, fun e he i hi => (htargets i e he hi).1⟩, fun e he i hi => (htargets i e he hi).2⟩

/-- The map that start-up installs suits the image that it installs (R114, R151 to R153). -/
theorem startUpMap_sound {straps : Straps} {a b : Option ControlRecord} (ha : ∀ r, a = some r → tablesValid r = true)
    (hb : ∀ r, b = some r → tablesValid r = true) :
    (startUpMap (chooseCopy a b)).Sound (startUpImage straps (chooseCopy a b)).spares := by
  have hchosen : ∀ c r, chooseCopy a b = some (c, r) → tablesValid r = true := by
    intro c r hc
    unfold chooseCopy at hc
    split at hc
    · split_ifs at hc <;> cases hc
      · exact hb _ rfl
      · exact ha _ rfl
    · cases hc; exact ha _ rfl
    · cases hc; exact hb _ rfl
    · simp at hc
  unfold startUpMap startUpImage
  split
  · next c r hc =>
    have hspares : (if straps.cfgIgnore = true then defaultImage r.image.spares straps.defAf else r.image).spares
        = r.image.spares := by split_ifs <;> rfl
    rw [hspares]
    exact tablesValid_sound (hchosen c r hc) _
  · exact ⟨⟨by simp, by simp, by simp⟩, by simp⟩

namespace State.Working

variable {s : State} (h : s.Working)
include h

/-- During start-up the engine has nothing in hand. -/
theorem startingUp (hs : s.startup.isSome = true) : s.mc.mode = .startup ∧ s.engine.phase = .idle :=
  have hm := h.1.modes.2.2.2.1 (.inl hs)
  ⟨hm, h.1.modes.2.2.2.2 hm⟩

theorem install {a b : Option ControlRecord} (hs : s.startup.isSome = true) (ha : ∀ r, a = some r → tablesValid r = true)
    (hb : ∀ r, b = some r → tablesValid r = true) : (install a b s).Working := by
  obtain ⟨-, hphase⟩ := h.startingUp hs
  have hitem : s.engine.item = .none := by simpa [Phase.items] using h.item hphase
  have hrun : ∀ m, (Machine.install a b s).mc.mode = m → m = .run := fun m hm => hm.symm
  refine ⟨⟨startUpMap_sound ha hb, ⟨?_, ?_, fun hi => ?_, ?_, fun hm => ?_⟩, fun u hu => ?_, fun hm => ?_, h.1.awake⟩,
    State.trialLawful_none h.2.1 ?_ ?_⟩
  · rintro (hm | hm) <;> cases hrun _ hm
  · rintro (hm | hm | hm) <;> cases hrun _ hm
  · exact absurd (hitem.symm.trans hi) (by decide)
  · rintro (hu | hr)
    · simp [Machine.install] at hu
    · exact absurd (h.1.awake.symm.trans hr) (by decide)
  · cases hrun _ hm
  · simp [Machine.install] at hu
  · cases hrun _ hm
  · exact fun hp => absurd (hphase.symm.trans hp) (by decide)
  · exact h.noTrial (by simp [hphase])

theorem endStartUp {a b : Option ControlRecord} (hs : s.startup.isSome = true)
    (ha : ∀ r, a = some r → tablesValid r = true) (hb : ∀ r, b = some r → tablesValid r = true) :
    (endStartUp a b s).Working := by
  have hreports : ∀ (fs : List FaultReport) (u : State), Kept u (fs.foldl (fun t f => report f t) u) := by
    intro fs
    induction fs with
    | nil => exact Kept.refl
    | cons f fs ih => exact fun u => (Kept.report f u).trans (ih _)
  unfold Machine.endStartUp; dsimp only
  generalize hu : List.foldl _ _ _ = u
  have hk : Kept s u := hu ▸ hreports _ s
  have hinst := (h.kept hk).install (by rw [show u.startup = s.startup from congrArg WorkCore.startup hk.1]; exact hs) ha hb
  unfold classifyHeld; split
  · exact hinst.kept (.classify _ _)
  · exact hinst

/-- The reading goes on with the next word (R149). -/
theorem claimCopyRead {u : StartUp} (hs : s.startup.isSome = true)
    (hu : ∀ r, u.judgedA = some (some r) → tablesValid r = true) : (claimCopyRead u s).Working := by
  obtain ⟨hm, hphase⟩ := h.startingUp hs
  obtain ⟨⟨hmap, hmodes, -, honline, hawake⟩, htrial⟩ := h
  obtain ⟨h1, h2, h3, -, h5⟩ := hmodes
  exact ⟨⟨hmap, ⟨h1, h2, h3, fun _ => hm, h5⟩, by rintro v ⟨⟩; exact hu, honline, hawake⟩, htrial⟩

theorem startUpRead (w : Word) : (startUpRead w s).Working := by
  unfold Machine.startUpRead; split
  · exact h
  · next u hu =>
    have hs : s.startup.isSome = true := by simp [hu]
    have hjudged := h.1.judged u hu
    have hcopy : ∀ r : Option ControlRecord, (∀ x, r = some x → tablesValid x = true) →
        (copyJudged { u with words := u.words ++ [w] } r s).Working := by
      intro r hr
      unfold copyJudged; split
      · exact h.claimCopyRead hs fun x hx => hr x (by simpa using hx)
      · refine h.endStartUp hs (fun x hx => hjudged x ?_) hr
        cases hj : u.judgedA with
        | none => simp [hj] at hx
        | some y => simpa [hj] using hx
    dsimp only; split
    · exact h.claimCopyRead hs hjudged
    · exact hcopy none (by simp)
    · next r hr => exact hcopy (some r) (by rintro x ⟨⟩; exact judgeCopy_tables hr)

/-! ### The array's reports -/

theorem hostReadEnd (w : Word) : (hostReadEnd w s).Working := by
  unfold Machine.hostReadEnd; dsimp only; split
  · exact (h.kept ((Kept.setPort _ s).trans (.endRead _ _ _))).endWaitingLoad
  · exact (h.kept (.setPort _ s)).endWaitingLoad

theorem issuerEnd (o : ArrayOp) (pass : Bool) (w : Word) : (issuerEnd o pass w s).Working := by
  unfold Machine.issuerEnd; split
  · exact h.hostReadEnd w
  · exact h.kept (.directAttemptEnd _ _)
  · exact (h.kept (.setPort _ s)).engineOpEnd o pass w
  · exact (h.kept (.setPort _ s)).startUpRead w

theorem issuerTimeout (o : ArrayOp) : (issuerTimeout o s).Working := by
  unfold Machine.issuerTimeout; split
  · exact (h.kept ((Kept.setPort _ s).trans (.endRead _ _ _))).endWaitingLoad
  · exact h.kept (.directAttemptEnd _ _)
  · exact (h.kept (.setPort _ s)).engineOpTimeout o
  · exact h.kept (.setPort _ s)

theorem operationEnd (x : RunningOp) (pass : Bool) (w : Word) : (operationEnd x pass w s).Working :=
  State.Working.issuerEnd (h.kept (((Kept.setFlash _ s).trans (.setPort _ _)).trans (.setPort _ _))) _ _ _

theorem innerEnd (x : RunningOp) (pass : Bool) (w : Word) : (innerEnd x pass w s).Working := by
  have hended : (Machine.issuerEnd x.op pass w (clearConsecutive (s.setFlash (s.flash.ended x.op pass w)))).Working :=
    State.Working.issuerEnd (h.kept ((Kept.setFlash _ s).trans (.setPort _ _))) _ _ _
  unfold Machine.innerEnd; dsimp only; split_ifs
  · exact hended.kept (.issueInner _)
  · exact hended.kept (.setPort _ _)

theorem reportEnd (k : OpKind) (pass : Bool) (w : Word) : (reportEnd k pass w s).Working := by
  unfold Machine.reportEnd; split
  · split
    · exact h.operationEnd _ _ _
    · exact h
  · split
    · exact h.innerEnd _ _ _
    · exact h
  · exact h

theorem reportEraseEnd (pass : Bool) : (reportEraseEnd pass s).Working := by
  unfold Machine.reportEraseEnd; split_ifs
  · split
    · exact h.operationEnd _ _ _
    · exact h
  · exact h

theorem reportAcknowledgement : (reportAcknowledgement s).Working := by
  unfold Machine.reportAcknowledgement; split_ifs
  · exact h.kept ((Kept.setPort _ s).trans (.issueInner _))
  · exact h

/-! ### Timeouts -/

/-- Array loss leaves the tables and the trial, with start-up over and no write stalled (R90, R154, R167). -/
theorem enterOffline : (enterOffline s).WorkLawful := by
  have hfail : ∀ u : State, Kept u (failHeldAccess u) := fun u => by
    obtain ⟨x, hx⟩ := failHeldAccess_eq u
    rw [hx]; exact .setHost _ _
  obtain ⟨⟨hmap, -, -, -, hawake⟩, htrial⟩ := h
  have hlost : ∀ u : State, u.map = s.map → u.image = s.image → u.engine.item = s.engine.item →
      u.engine.phase = s.engine.phase → u.engine.spareOnTrial = s.engine.spareOnTrial → u.startup = none →
      u.inReset = s.inReset → (u.setMc { u.mc with mode := .offline }).WorkLawful := by
    intro u hu himage hi hp ht hstart hreset
    have hspares : u.spareCount = s.spareCount := by rw [State.spareCount, himage]; rfl
    refine ⟨hmap.congr (by rw [← hu]; rfl) (by rw [← hu]; rfl) hspares,
      htrial.congr (by rw [← hu]; rfl) (by rw [← hu]; rfl) hspares hi hp ht, ⟨?_, ?_, fun _ => .inr rfl, ?_, ?_⟩, ?_⟩
    · simp
    · simp
    · simp [hstart, hreset, hawake]
    · simp
    · simp [State.JudgedLawful, hstart]
  unfold Machine.enterOffline; dsimp only
  refine State.WorkLawful.kept ?_ (hfail _)
  split_ifs
  · refine hlost _ ?_ ?_ ?_ ?_ ?_ ?_ ?_ <;> simp [abandonOps]
  · refine hlost _ ?_ ?_ ?_ ?_ ?_ ?_ ?_ <;> simp [abandonOps]

theorem timeout (x : FaultReason) (p : Nat) {f : State → State} (hf : ∀ t : State, t.Working → (f t).Working) :
    (timeout x p f s).WorkLawful := by
  have hrep : ((report { kind := .arrayTimeout, psec := some p, reason := some x } s).setPort
      { s.port with consecutive := s.port.consecutive + 1 }).Working := h.kept ((Kept.report _ s).trans (.setPort _ _))
  unfold Machine.timeout; dsimp only; split_ifs
  · exact (hrep.kept (.report _ _)).enterOffline
  · exact (hf _ (hrep.kept (((Kept.setFlash _ _).trans (.setPort _ _)).trans (.setPort _ _)))).lawful

theorem operationTimeoutTaken : (operationTimeoutTaken s).WorkLawful := by
  unfold Machine.operationTimeoutTaken; split_ifs
  · split
    · exact h.timeout _ _ fun t ht => ht.issuerTimeout _
    · exact h.lawful
  · exact h.lawful

theorem suspendTimeoutTaken (l : SuspendLimit) : (suspendTimeoutTaken l s).WorkLawful := by
  unfold Machine.suspendTimeoutTaken; split_ifs
  · split
    · exact h.timeout _ _ fun t ht => ht.issuerTimeout _
    · exact h.lawful
  · exact h.lawful

theorem innerTimeoutTaken : (innerTimeoutTaken s).WorkLawful := by
  unfold Machine.innerTimeoutTaken; split_ifs
  · split
    · exact h.timeout _ _ fun t ht => (ht.issuerTimeout _).issuerTimeout _
    · exact h.lawful
  · exact h.lawful

theorem takePortLimit : (takePortLimit s).WorkLawful := by
  rcases takePortLimit_cases s with he | he | ⟨l, he⟩ | he <;> rw [he]
  · exact h.lawful
  · exact h.operationTimeoutTaken
  · exact h.suspendTimeoutTaken l
  · exact h.innerTimeoutTaken

end State.Working

/-! ### Commands -/

/-- A change of mode that leaves the part outside start-up. -/
theorem State.WorkLawful.setMc {s : State} (h : s.WorkLawful) (x : ModeControl) (hawake : s.mc.mode ≠ .startup)
    (hmode : x.mode ≠ .startup) (hstep : s.engine.item = .clearStep → x.mode = .clearing ∨ x.mode = .offline)
    (hheld : x.mode = .held ∨ x.mode = .clearing → s.queuesEmpty = true ∧ s.engine.item ≠ .regionCommit)
    (hstall : x.mode = .holding ∨ x.mode = .held ∨ x.mode = .clearing → s.stall = none) : (s.setMc x).WorkLawful := by
  obtain ⟨hmap, htrial, hmodes, hjudged⟩ := h
  exact ⟨hmap, htrial, ⟨hheld, hstall, hstep, fun hs => absurd (hmodes.2.2.2.1 hs) hawake, fun hm => absurd hm hmode⟩,
    hjudged⟩

/-- An image that is accepted has a spare count that is accepted. -/
theorem validateImage_spares {bad : Nat → Bool} {b : List Byte} {im : SetupImage} (h : validateImage bad b = .valid im) :
    bad im.spares = false := by
  obtain ⟨hhead, rfl, -⟩ := validateImage_eq_valid h
  exact hhead.spares

/-- SETUP_LOAD in HELD leaves the laws: its spare count is the one in force, or no spare is in use or on trial (R162). -/
theorem State.WorkLawful.applyImage {s : State} (h : s.WorkLawful) (hm : s.mc.mode = .held) {im : SetupImage}
    (hspares : s.sparesRefused im.spares = false) : (applyImage im s).WorkLawful := by
  obtain ⟨hmap, htrial, ⟨h1, h2, h3, h4, h5⟩, hjudged⟩ := h
  have hempty : (Machine.applyImage im s).queuesEmpty = true := by
    simp [State.queuesEmpty, Machine.applyImage, emptyQueues]
  have htables : (Machine.applyImage im s).MapLawful ∧ (Machine.applyImage im s).TrialLawful := by
    by_cases hsame : im.spares = s.spareCount
    · exact ⟨hmap.congr rfl rfl hsame, htrial.congr rfl rfl hsame rfl rfl rfl⟩
    · simp only [State.sparesRefused, Bool.or_eq_false_iff, Bool.and_eq_false_iff, bne_eq_false_iff_eq, hsame, false_or,
        Bool.not_eq_false', List.isEmpty_iff, beq_eq_false_iff_ne] at hspares
      obtain ⟨-, hnomap, hnojob⟩ := hspares
      have hremap : (Machine.applyImage im s).map.remap = [] := hnomap
      have hhome : s.engine.phase ≠ .relocate := fun hp => by
        have hitem := htrial.1
        have hstep : s.engine.item ≠ .clearStep := fun hi => by
          rcases h3 hi with hc | hc <;> simp [hm] at hc
        simp [hp, Phase.items, hnojob, (h1 (.inl hm)).2, hstep] at hitem
      have hnone : s.engine.spareOnTrial = none := by simpa [hhome] using htrial.2.1
      refine ⟨⟨⟨?_, ?_, ?_⟩, ?_⟩, State.trialLawful_none htrial.1 hhome hnone⟩ <;> simp [hremap]
  exact ⟨htables.1, htables.2, ⟨fun hx => ⟨hempty, (h1 hx).2⟩, fun _ => rfl, h3, h4, h5⟩, hjudged⟩

/-- The setup commands' moves keep the laws. -/
theorem State.WorkLawful.commandMove {s u : State} (h : s.WorkLawful) (hu : CommandMove s u) : u.WorkLawful := by
  have hmodes := h.2.2.1
  cases hu
  case markAll => exact h.kept (.markAll s)
  case markRegion r => exact h.kept (.markRegion r s)
  case purge r _ => exact h.kept (.removeEntries _ _ _)
  case store => exact h.kept (.setUpdatePending s)
  case protect p => exact h.kept (.same rfl rfl rfl)
  case job x => exact h.kept (.setEngine rfl rfl rfl)
  case clear hm =>
    obtain ⟨hempty, hitem⟩ := hmodes.1 (.inl hm)
    have hquiet := hmodes.2.1 (.inr (.inl hm))
    exact h.setMc _ (by simp [hm]) (by simp) (fun _ => .inl rfl) (fun _ => ⟨hempty, hitem⟩) fun _ => hquiet
  case release hm =>
    have hstep : s.engine.item ≠ .clearStep := fun hi => by
      rcases hmodes.2.2.1 hi with hc | hc <;> simp [hc] at hm
    exact h.setMc _ (by rcases hm with hm | hm <;> simp [hm]) (by simp) (fun hi => absurd hi hstep) (by simp) (by simp)
  case hold hm =>
    have hstep : s.engine.item ≠ .clearStep := fun hi => by
      rcases hmodes.2.2.1 hi with hc | hc <;> simp [hc] at hm
    have hholding : ∀ x : ModeControl, x.mode = .holding → ((s.setStall none).setMc x).WorkLawful := fun x hx =>
      State.WorkLawful.setMc (s := s.setStall none) (h.kept (.emptied rfl id fun _ => rfl)) x (by simp [hm]) (by simp [hx])
        (fun hi => absurd hi hstep) (by simp [hx]) fun _ => rfl
    obtain ⟨q, hq⟩ := markAll_eq (s.setMc { s.mc with refused := 0, mode := .holding })
    have hmarked : ((markAll (s.setMc { s.mc with refused := 0, mode := .holding })).setStall none).WorkLawful := by
      rw [hq]
      refine State.WorkLawful.kept (hholding { s.mc with refused := 0, mode := .holding } rfl) ⟨rfl, fun _ => ?_⟩
      exact ⟨by simp, fun _ => rfl⟩
    unfold enterHolding refuseStalled; split
    · exact hmarked.kept ((Kept.same rfl rfl rfl : Kept _ (countRefused _)).trans (.completeAccess _ _ _))
    · next hnone =>
      have hself : ∀ v : State, v.stall = none → v.setStall none = v := fun v hv => by rw [← hv]; rfl
      rw [hself _ hnone] at hmarked
      exact hmarked
  case load im p hm hv => exact h.applyImage hm (validateImage_spares hv)

/-! ### Every command -/

theorem State.Live.working {s : State} (h : s.Live) (hw : s.WorkLawful) (hr : s.inReset = false) : s.Working :=
  hw.working h.2.2.1 hr

theorem Kept.elapse (d : Nat) (s : State) : Kept s (elapse d s) := .emptied rfl id fun hs => by simp [Machine.elapse, hs]

/-- The reports and the timeouts of the array find it live, or a STOPPED port that takes none (R107). -/
theorem State.WorkLawful.arrayMove {s u : State} (h : s.WorkLawful) (hport : s.Live ∨ s.Lost) (hr : s.inReset = false)
    (hlive : s.Working → u.WorkLawful) (hlost : s.port.state = .stopped → u = s) : u.WorkLawful := by
  rcases hport with hl | hl
  · exact hlive (hl.working h hr)
  · rw [hlost hl.2.1]; exact h

theorem takePortLimit_stopped {s : State} (h : s.port.state = .stopped) : takePortLimit s = s := by
  simp [takePortLimit, h]

theorem operationTimeoutTaken_stopped {s : State} (h : s.port.state = .stopped) : operationTimeoutTaken s = s := by
  simp [operationTimeoutTaken, h]

theorem suspendTimeoutTaken_stopped {s : State} (h : s.port.state = .stopped) (l : SuspendLimit) :
    suspendTimeoutTaken l s = s := by
  simp [suspendTimeoutTaken, h]

theorem innerTimeoutTaken_stopped {s : State} (h : s.port.state = .stopped) : innerTimeoutTaken s = s := by
  simp [innerTimeoutTaken, h]

/-- The passing of time leaves the array live or lost. -/
theorem elapse_keeps {s : State} (h : s.Live ∨ s.Lost) (d : Nat) : (elapse d s).Live ∨ (elapse d s).Lost :=
  h.imp (·.elapse d) fun h => ⟨h.1.passes d, h.2⟩

/-- The moves keep the laws. -/
theorem State.WorkLawful.move {s u : State} (h : s.WorkLawful) (hport : s.Live ∨ s.Lost) (hr : s.inReset = false)
    (hu : Move s u) : u.WorkLawful := by
  have hlater : ∀ d, (elapse d s).WorkLawful := fun d => h.kept (.elapse d s)
  have hstays := fun d => elapse_keeps hport d
  cases hu
  case select p =>
    unfold selectActive; split
    · exact h.kept (.arrive p s)
    · exact h.kept (.setHost _ s)
  case deselect => unfold selectInactive; split <;> exact h.kept (.setHost _ s)
  case flushLevel high =>
    unfold takeFlushLevel; dsimp only; split_ifs
    · exact h.kept ((Kept.same rfl rfl rfl : Kept s (s.setMc _)).trans (.markAll _))
    · exact h.kept (.same rfl rfl rfl)
  case gap d =>
    unfold gapTimeoutTaken; split_ifs
    · exact (hlater d).kept (.same rfl rfl rfl)
    · exact hlater d
  case stall d => exact (hlater d).kept (.stallExpiryTaken _)
  case pass d => exact hlater d
  case wordEnd k pass w =>
    exact h.arrayMove hport hr (fun hw => (hw.reportEnd k pass w).lawful) fun hs => by simp [reportEnd, hs]
  case eraseEnd pass =>
    exact h.arrayMove hport hr (fun hw => (hw.reportEraseEnd pass).lawful) fun hs => by simp [reportEraseEnd, hs]
  case acknowledged =>
    exact h.arrayMove hport hr (fun hw => hw.reportAcknowledgement.lawful) fun hs => by simp [reportAcknowledgement, hs]
  case opTimeout d =>
    exact (hlater d).arrayMove (hstays d) hr (·.operationTimeoutTaken) operationTimeoutTaken_stopped
  case suspTimeout l d =>
    exact (hlater d).arrayMove (hstays d) hr (·.suspendTimeoutTaken l) (suspendTimeoutTaken_stopped · l)
  case innerTimeout d =>
    exact (hlater d).arrayMove (hstays d) hr (·.innerTimeoutTaken) innerTimeoutTaken_stopped
  case pulse d => exact (hlater d).kept (.endPulse _)
  case command hc => exact h.commandMove hc

theorem State.WorkLawful.finish {s : State} (h : s.WorkLawful) (hport : s.Live ∨ s.Lost) (hr : s.inReset = false) :
    (finish s).WorkLawful := by
  rcases hport with hl | hl
  · exact (hl.working h hr).finish.lawful
  · obtain ⟨l, x, hx⟩ := finish_offline hl.2.2.1 hl.2.1
    rw [hx]; exact h.kept (.same rfl rfl rfl)

theorem State.WorkLawful.takeLimits {s : State} (h : s.WorkLawful) (hport : s.Live ∨ s.Lost) (hr : s.inReset = false) :
    (takeLimits s).WorkLawful := by
  have hlimit := h.arrayMove hport hr (·.takePortLimit) takePortLimit_stopped
  have hstall : (takeStallLimit (takePortLimit s)).WorkLawful := by
    unfold takeStallLimit; split_ifs
    · exact hlimit.kept (.stallExpiryTaken _)
    · exact hlimit
  rw [takeLimits_eq]
  rcases takeGapLimit_cases (takeStallLimit (takePortLimit s)) with he | he <;> rw [he]
  · exact hstall
  · exact hstall.kept (.same rfl rfl rfl)

/-- The release of RST# begins the reading of copy A, with no copy judged (R148). -/
theorem State.WorkLawful.beginStartUp {s : State} (h : s.WorkLawful) (hr : s.inReset = true) (pins : ReleasePins) :
    (beginStartUp pins s).WorkLawful := by
  unfold Machine.beginStartUp; dsimp only
  generalize hu : claimCopyRead _ _ = u
  have hclaimed : u.WorkLawful := by
    obtain ⟨hmap, htrial, ⟨h1, h2, h3, h4, h5⟩, -⟩ := h
    rw [← hu]
    exact ⟨hmap, htrial, ⟨h1, h2, h3, fun _ => h4 (.inr hr), h5⟩, by rintro v ⟨⟩; simp⟩
  split_ifs
  · exact hclaimed.kept (.arrive _ _)
  · exact hclaimed

theorem resetPart_workLawful (s : State) : (resetPart s).WorkLawful := by
  have hmap : (resetPart s).map.Lawful 0 := ⟨by simp [resetPart, State.reset], by simp [resetPart, State.reset],
    by simp [resetPart, State.reset]⟩
  refine ⟨⟨hmap, by simp [resetPart, State.reset]⟩, State.trialLawful_none ?_ ?_ rfl, ⟨?_, fun _ => rfl, ?_, fun _ => rfl,
    fun _ => rfl⟩, by rintro u ⟨⟩⟩
  · simp [resetPart, State.reset, Engine.reset, Phase.items]
  · simp [resetPart, State.reset, Engine.reset]
  · simp [resetPart, State.reset]
  · simp [resetPart, State.reset, Engine.reset]

/-- The laws of the map, the trial, the modes and the copies are kept by every step, beside those of the port. -/
theorem step_keeps_workLawful {s t : State} (hport : s.PortLawful) (hwork : s.WorkLawful) (ht : step s = .next t) :
    t.WorkLawful := by
  rw [State.portLawful_iff] at hport
  have hlines : ∀ s u : State, u.workCore = s.workCore → u.queues = s.queues → u.stall = s.stall →
      s.WorkLawful → u.WorkLawful := fun s u hc hq hs h => h.kept (.same hc hq hs)
  refine (step_keeps_of_moves (P := fun s => (s.Live ∨ s.Lost) ∧ s.WorkLawful)
    (fun _ _ ⟨hp, h⟩ => ⟨hp, hlines _ _ rfl rfl rfl h⟩) (fun _ _ ⟨hp, h⟩ => ⟨hp, hlines _ _ rfl rfl rfl h⟩)
    (fun _ _ ⟨hp, h⟩ => ⟨hp, hlines _ _ rfl rfl rfl h⟩) (fun _ _ ⟨hp, h⟩ => ⟨hp, hlines _ _ rfl rfl rfl h⟩)
    (fun _ ⟨hp, h⟩ => ⟨hp, hlines _ _ rfl rfl rfl h⟩) (fun s u hu hr ⟨hp, h⟩ => ⟨?_, h.move hp hr hu⟩)
    (fun s hr ⟨hp, h⟩ => ⟨?_, h.finish hp hr⟩)
    (fun s hr ⟨hp, h⟩ => ⟨takeLimits_keeps (elapse_keeps hp 1),
      State.WorkLawful.takeLimits (h.kept (.elapse 1 s)) (elapse_keeps hp 1) hr⟩)
    (fun c s _ ⟨hp, h⟩ => ?_) (fun s _ => ⟨.inl ?_, resetPart_workLawful s⟩)
    (fun s pins hr ⟨hp, h⟩ => ⟨beginStartUp_keeps hp pins, h.beginStartUp hr pins⟩) ⟨hport, hwork⟩ ht).2
  · exact hp.elim (move_live · hu) fun hl => .inr (move_lost hl hu)
  · exact hp.imp ends_live.finish finish_lost
  · unfold effectInReset; split <;> exact ⟨hp, hlines _ _ rfl rfl rfl h⟩
  · obtain ⟨-, -, -, -, -, hreset, -⟩ := resetMeetsTheLaws
    exact (State.reset.portLawful_iff.mp hreset).resolve_right fun hl => by simp [State.Lost, State.reset] at hl

/-- Settles O60: every step keeps the laws on which translation rests, and a lawful table translates injectively. -/
theorem translationIsInjective : Obligations.TranslationIsInjective :=
  ⟨fun _ _ hport hwork ht => step_keeps_workLawful hport hwork ht, fun _ _ _ _ hm hx hp => hm.translate_inj hx hp⟩

end Sys2Proof.Machine

/-! Two runs side by side: what the host path, the queue manager, the commit engine and the end of an event do in two
states that differ only in what none of them reads. -/

namespace Sys2Proof.Machine

/-! ### The start of a REGION_COMMIT in two steps -/

/-- The engine as a REGION_COMMIT of region r takes it (R69). -/
def Engine.committing (e : Engine) (r : Nat) : Engine :=
  { e with item := .regionCommit, itemRegion := some r, phase := .gather }

/-- The gather, and the choice of path (R69, R70). -/
def gatherStart (r : Nat) (s : State) : State :=
  match s.gatherSector r with
  | none => endEmptyCommit s
  | some x =>
    let gs := s.gatherSet r x
    let psec := (s.map.translate x).getD x
    let s := gatherEntries r x s
    let s := s.setEngine { s.engine with itemSector := some x, itemPhys := some psec, gathered := gs
                                         entryCount := gs.length, path := some .gather, cursor := 0 }
    if gs.length ≤ gatherLimit then engineRead ((gs.head?.map fun g => offsetOf g.addr).getD 0) s
    else enterLoad s

theorem startCommit_eq (r : Nat) (s : State) : startCommit r s = gatherStart r (s.setEngine (s.engine.committing r)) := rfl

/-! ### What the engine and the queue manager read -/

/-- A stalled write without its timer. -/
def StalledWrite.untimed (w : StalledWrite) : StalledWrite := { w with timer := 0 }

/-- What the rules of the engine, the queues and the ends of host accesses read, but for the host port and the port's
state: everything else is put at a fixed value. -/
def State.core (s : State) : State :=
  { State.reset with
    time := s.time, image := s.image, queues := s.queues, engine := s.engine, map := s.map, cru := s.cru
    stall := s.stall.map StalledWrite.untimed
    mc := { s.mc with drained := false }
    reader := { state := .idle, access := s.reader.access }
    port := { ArrayPort.reset with direct := s.port.direct, hostClaim := s.port.hostClaim, engClaim := s.port.engClaim } }

/-- `R` relates two runs: related states read alike, and stay related under the moves of which the rules of the engine
are made; what accesses do when their holds go is one of these moves. -/
structure Sim (R : State → State → Prop) : Prop where
  core      : ∀ {t s}, R t s → t.core = s.core
  setEngine : ∀ {t s} e, R t s → R (t.setEngine e) (s.setEngine e)
  setMap    : ∀ {t s} m, R t s → R (t.setMap m) (s.setMap m)
  setCru    : ∀ {t s} c, R t s → R (t.setCru c) (s.setCru c)
  setQueues : ∀ {t s} q, R t s → R (t.setQueues q) (s.setQueues q)
  setMode   : ∀ {t s} m k, R t s →
    R (t.setMc { t.mc with mode := m, clearIndex := k }) (s.setMc { s.mc with mode := m, clearIndex := k })
  unstall   : ∀ {t s}, R t s → R (t.setStall none) (s.setStall none)
  report    : ∀ {t s} f, R t s → R (report f t) (report f s)
  complete  : ∀ {t s} e d, R t s → R (completeAccess e d t) (completeAccess e d s)
  engClaim  : ∀ {t s} o, R t s → R (raiseEngineClaim o t) (raiseEngineClaim o s)
  holds     : ∀ {t s} x, R t s → R (releaseHolds x t) (releaseHolds x s)

/-- `R` is kept by the moves of which the ends of host accesses, and the claims of held ones, are made. -/
structure Accesses (R : State → State → Prop) : Prop where
  core     : ∀ {t s}, R t s → t.core = s.core
  held     : ∀ {t s}, R t s → (t.reader.state = .eraseHold ↔ s.reader.state = .eraseHold)
  report   : ∀ {t s} f, R t s → R (report f t) (report f s)
  complete : ∀ {t s} e d, R t s → R (completeAccess e d t) (completeAccess e d s)
  waits    : ∀ {t s} a, R t s →
    R (t.setReader { state := .portWait, access := a }) (s.setReader { state := .portWait, access := a })
  rests    : ∀ {t s}, R t s →
    R (t.setReader { state := .idle, access := none }) (s.setReader { state := .idle, access := none })
  claim    : ∀ {t s} (o : ArrayOp), o.kind ≠ .erase → o.issuer.ofHost = true → R t s →
    R (raiseHostClaim o t) (raiseHostClaim o s)
  direct   : ∀ {t s} d, R t s → R (t.setPort { t.port with direct := d }) (s.setPort { s.port with direct := d })
  unclaim  : ∀ {t s}, R t s →
    R (t.setPort { t.port with hostClaim := none }) (s.setPort { s.port with hostClaim := none })

namespace Accesses

variable {R : State → State → Prop} (h : Accesses R) {t s : State} (hr : R t s)
include h hr

theorem reads {α : Type} (f : State → α) : f t.core = f s.core := congrArg f (h.core hr)

theorem map : t.map = s.map := h.reads hr State.map
theorem access : t.reader.access = s.reader.access := h.reads hr (fun u : State => u.reader.access)
theorem directs : t.port.direct = s.port.direct := h.reads hr (fun u : State => u.port.direct)
theorem reportRegion (d : DirectWrite) : t.reportRegion d = s.reportRegion d :=
  h.reads hr (fun u : State => u.reportRegion d)

theorem endRead (e : Bool) (w : Word) : R (endRead e w t) (endRead e w s) := h.complete _ _ (h.rests hr)

theorem claimRead (x : ReadAccess) : R (claimRead x t) (claimRead x s) :=
  h.claim _ (by simp [ReadAccess.op]) rfl (h.waits _ hr)

theorem claimDirect (d : DirectWrite) : R (claimDirect d t) (claimDirect d s) :=
  h.claim _ (by simp [DirectWrite.op]) rfl (h.direct _ hr)

theorem endDirect (e : Bool) : R (endDirect e t) (endDirect e s) := h.complete _ _ (h.unclaim (h.direct none hr))

theorem releaseHeldRead (x : Nat) : R (releaseHeldRead x t) (releaseHeldRead x s) := by
  unfold Machine.releaseHeldRead
  simp only [h.access hr, h.map hr, h.held hr]
  split
  · split_ifs
    · split
      · exact h.claimRead hr _
      · exact h.endRead hr _ _
    · exact hr
  · exact hr

theorem releaseHeldWrite (x : Nat) : R (releaseHeldWrite x t) (releaseHeldWrite x s) := by
  unfold Machine.releaseHeldWrite
  simp only [h.directs hr, h.map hr, h.reportRegion hr]
  split
  · split_ifs
    · split
      · exact h.claimDirect hr _
      · exact h.endDirect (h.report _ hr) _
    · exact hr
  · exact hr

theorem releaseHolds (x : Nat) : R (releaseHolds x t) (releaseHolds x s) := h.releaseHeldWrite (h.releaseHeldRead hr x) x

theorem directAttemptEnd (pass : Bool) : R (directAttemptEnd pass t) (directAttemptEnd pass s) := by
  unfold Machine.directAttemptEnd
  simp only [h.directs hr, h.reportRegion hr]
  split
  · split_ifs
    · exact h.endDirect hr _
    · exact hr
    · exact h.endDirect (h.report _ hr) _
  · exact hr

end Accesses

namespace Sim

variable {R : State → State → Prop} (h : Sim R) {t s : State} (hr : R t s)
include h hr

/-! ### What is read -/

theorem reads {α : Type} (f : State → α) : f t.core = f s.core := congrArg f (h.core hr)

theorem engine : t.engine = s.engine := h.reads hr State.engine
theorem map : t.map = s.map := h.reads hr State.map
theorem cru : t.cru = s.cru := h.reads hr State.cru
theorem queues : t.queues = s.queues := h.reads hr State.queues
theorem image : t.image = s.image := h.reads hr State.image
theorem mode : t.mc.mode = s.mc.mode := h.reads hr (fun u : State => u.mc.mode)
theorem clearIndex : t.mc.clearIndex = s.mc.clearIndex := h.reads hr (fun u : State => u.mc.clearIndex)
theorem flushHigh : t.mc.flushHigh = s.mc.flushHigh := h.reads hr (fun u : State => u.mc.flushHigh)
theorem msTick : t.msTick = s.msTick := h.reads hr State.msTick
theorem access : t.reader.access = s.reader.access := h.reads hr (fun u : State => u.reader.access)
theorem directs : t.port.direct = s.port.direct := h.reads hr (fun u : State => u.port.direct)
theorem stall : t.stall.map StalledWrite.untimed = s.stall.map StalledWrite.untimed := h.reads hr State.stall

theorem region? (r : Nat) : t.region? r = s.region? r := h.reads hr (fun u : State => u.region? r)
theorem regionOf (x : Nat) : t.regionOf x = s.regionOf x := h.reads hr (fun u : State => u.regionOf x)
theorem window : t.window = s.window := h.reads hr State.window
theorem capacity (r : Nat) : t.capacity r = s.capacity r := h.reads hr (fun u : State => u.capacity r)
theorem count (r : Nat) : t.count r = s.count r := h.reads hr (fun u : State => u.count r)
theorem queue (r : Nat) : t.queue r = s.queue r := h.reads hr (fun u : State => u.queue r)
theorem lowestFree : t.lowestFree = s.lowestFree := h.reads hr State.lowestFree
theorem hasRoom : t.hasRoom = s.hasRoom := h.reads hr State.hasRoom
theorem retiringRegion : t.retiringRegion = s.retiringRegion := h.reads hr State.retiringRegion
theorem waitingIn (r x : Nat) : t.waitingIn r x = s.waitingIn r x := h.reads hr (fun u : State => u.waitingIn r x)
theorem reportRegion (d : DirectWrite) : t.reportRegion d = s.reportRegion d :=
  h.reads hr (fun u : State => u.reportRegion d)
theorem gatherSector (r : Nat) : t.gatherSector r = s.gatherSector r :=
  h.reads hr (fun u : State => u.gatherSector r)
theorem gatherSet (r x : Nat) : t.gatherSet r x = s.gatherSet r x :=
  h.reads hr (fun u : State => u.gatherSet r x)
theorem nextToClear : t.nextToClear = s.nextToClear := h.reads hr State.nextToClear
theorem jobMayStart (x : Nat) : t.jobMayStart x = s.jobMayStart x :=
  h.reads hr (fun u : State => u.jobMayStart x)
theorem maySelect : t.maySelect = s.maySelect := h.reads hr State.maySelect
theorem queuesEmpty : t.queuesEmpty = s.queuesEmpty := h.reads hr State.queuesEmpty
theorem endOfLoadWaits : t.endOfLoadWaits = s.endOfLoadWaits := h.reads hr State.endOfLoadWaits
theorem newEntry (r : Nat) (a : HostAddr) (m : LaneMask) (d : Word) : t.newEntry r a m d = s.newEntry r a m d :=
  h.reads hr (fun u : State => u.newEntry r a m d)

omit h hr in
theorem dueRegion_core (u : State) : u.core.dueRegion = u.dueRegion := by
  have hstalled : ∀ r, u.core.stalled r = u.stalled r := fun r => by
    unfold State.stalled State.core
    cases u.stall <;> rfl
  have hclass : u.core.dueClass = u.dueClass := by
    funext r
    unfold State.dueClass
    rw [hstalled]; rfl
  unfold State.dueRegion
  rw [hclass]; rfl

theorem dueRegion : t.dueRegion = s.dueRegion := by
  rw [← dueRegion_core t, ← dueRegion_core s, h.core hr]

theorem refuseWrite (x : FaultReason) (r : Option Nat) (a : HostAddr) : R (refuseWrite x r a t) (refuseWrite x r a s) :=
  h.complete _ _ (h.report _ hr)

/-! ### Queues -/

theorem updateQueue (r : Nat) (f : RegionQueue → RegionQueue) : R (updateQueue r f t) (updateQueue r f s) := by
  unfold Machine.updateQueue
  rw [h.queues hr]
  exact h.setQueues _ hr

theorem appendEntry (r : Nat) (a : HostAddr) (m : LaneMask) (d : Word) :
    R (appendEntry r a m d t) (appendEntry r a m d s) := by
  unfold Machine.appendEntry
  rw [h.newEntry hr, h.flushHigh hr]
  exact h.updateQueue hr _ _

theorem stalledMayAppend (r : Nat) : R (stalledMayAppend r t) (stalledMayAppend r s) := by
  have hstall := h.stall hr
  unfold Machine.stalledMayAppend
  simp only [h.count hr, h.capacity hr]
  cases ht : t.stall <;> cases hs : s.stall <;> rw [ht, hs] at hstall
  · exact hr
  · exact absurd hstall (by simp)
  · exact absurd hstall (by simp)
  · rename_i v w
    have hvw : v.untimed = w.untimed := Option.some.inj hstall
    have hregion : v.region = w.region := (congrArg StalledWrite.region hvw : v.untimed.region = w.untimed.region)
    have haddr : v.addr = w.addr := (congrArg StalledWrite.addr hvw : v.untimed.addr = w.untimed.addr)
    have hmask : v.mask = w.mask := (congrArg StalledWrite.mask hvw : v.untimed.mask = w.untimed.mask)
    have hdata : v.data = w.data := (congrArg StalledWrite.data hvw : v.untimed.data = w.untimed.data)
    dsimp only
    rw [hregion, haddr, hmask, hdata]
    split_ifs
    · exact h.complete _ _ (h.unstall (h.appendEntry hr _ _ _ _))
    · exact hr

theorem keepEntries (r : Nat) (k : Entry → Bool) : R (keepEntries r k t) (keepEntries r k s) := h.updateQueue hr _ _
theorem removeEntries (r : Nat) (g : Entry → Bool) : R (removeEntries r g t) (removeEntries r g s) :=
  h.stalledMayAppend (h.keepEntries hr _ _) _
theorem releaseOne (r : Nat) (a : HostAddr) : R (releaseOne r a t) (releaseOne r a s) := h.removeEntries hr _ _
theorem releaseAll (r : Nat) : R (releaseAll r t) (releaseAll r s) := h.removeEntries hr _ _
theorem gatherEntries (r x : Nat) : R (gatherEntries r x t) (gatherEntries r x s) := h.updateQueue hr _ _
theorem discardSector (r x : Nat) : R (discardSector r x t) (discardSector r x s) := h.keepEntries hr _ _

theorem stalledAfterRetirement (r x : Nat) : R (stalledAfterRetirement r x t) (stalledAfterRetirement r x s) := by
  have hstall := h.stall hr
  unfold Machine.stalledAfterRetirement
  cases ht : t.stall <;> cases hs : s.stall <;> rw [ht, hs] at hstall
  · exact hr
  · exact absurd hstall (by simp)
  · exact absurd hstall (by simp)
  · rename_i v w
    have hvw : v.untimed = w.untimed := Option.some.inj hstall
    have hregion : v.region = w.region := (congrArg StalledWrite.region hvw : v.untimed.region = w.untimed.region)
    have haddr : v.addr = w.addr := (congrArg StalledWrite.addr hvw : v.untimed.addr = w.untimed.addr)
    dsimp only
    rw [hregion, haddr]
    split_ifs
    · exact h.refuseWrite (h.unstall hr) _ _ _
    · exact h.stalledMayAppend hr _

/-! ### The commit engine -/

/-- A change of the engine made from what it is. -/
theorem modifyEngine (f : Engine → Engine) : R (t.setEngine (f t.engine)) (s.setEngine (f s.engine)) := by
  rw [h.engine hr]; exact h.setEngine _ hr

theorem setUpdatePending : R (setUpdatePending t) (setUpdatePending s) := by
  unfold Machine.setUpdatePending; rw [h.cru hr]; exact h.setCru _ hr

theorem engineRead (o : Nat) : R (engineRead o t) (engineRead o s) := by
  unfold Machine.engineRead; rw [h.engine hr]; exact h.engClaim _ hr

theorem engineProgram (o : Nat) (v : Word) : R (engineProgram o v t) (engineProgram o v s) := by
  unfold Machine.engineProgram; rw [h.engine hr]; exact h.engClaim _ (h.setEngine _ hr)

theorem engineErase (f : Phase) (p : Nat) : R (engineErase f p t) (engineErase f p s) := by
  unfold Machine.engineErase; rw [h.engine hr]; exact h.engClaim _ (h.setEngine _ hr)

theorem endCommit : R (endCommit t) (endCommit s) := h.modifyEngine hr fun e => { e.toIdle with lastServed := e.itemRegion }
theorem endEmptyCommit : R (endEmptyCommit t) (endEmptyCommit s) := h.modifyEngine hr Engine.toIdle

theorem endJob (x : JobResult) : R (endJob x t) (endJob x s) := by
  unfold Machine.endJob; dsimp only
  rw [h.engine hr]
  exact h.holds _ (h.setEngine _ hr)

theorem completeClear : R (completeClear t) (completeClear s) := by
  unfold Machine.completeClear
  rw [h.map hr]
  refine h.setUpdatePending ?_
  have hmode := h.setMode .held s.mc.clearIndex (h.setMap { s.map with protection := [] } hr)
  have ht : ({ t.mc with mode := Mode.held, clearIndex := s.mc.clearIndex } : ModeControl) = { t.mc with mode := .held } := by
    rw [← h.clearIndex hr]
  rw [State.setMap_mc, ht] at hmode
  exact hmode

theorem setClearIndex (k : Nat) : R (t.setMc { t.mc with clearIndex := k }) (s.setMc { s.mc with clearIndex := k }) := by
  have hmode := h.setMode s.mc.mode k hr
  have ht : ({ t.mc with mode := s.mc.mode, clearIndex := k } : ModeControl) = { t.mc with clearIndex := k } := by
    rw [← h.mode hr]
  rw [ht] at hmode
  exact hmode

theorem endClearStep : R (endClearStep t) (endClearStep s) := by
  have hstep := h.holds s.engine.sector (h.setClearIndex (h.setEngine s.engine.toIdle hr) (s.engine.sector + 1))
  unfold Machine.endClearStep; dsimp only
  rw [h.engine hr]
  have hwindow := h.window hstep
  rw [State.setEngine_mc, State.setEngine_mc] at hstep hwindow
  rw [hwindow]
  split_ifs
  · exact h.completeClear hstep
  · exact hstep

theorem controlFailure (p : Nat) (x : FaultReason) : R (controlFailure p x t) (controlFailure p x s) := by
  unfold Machine.controlFailure; dsimp only
  have hreport := h.report { kind := .controlWriteFailed, psec := some p, reason := some x } hr
  rw [h.cru hreport]
  exact h.setCru _ hreport

theorem endUpdateBad (x : FaultReason) : R (endUpdateBad x t) (endUpdateBad x s) := by
  unfold Machine.endUpdateBad; dsimp only
  rw [h.engine hr]
  exact h.modifyEngine (h.controlFailure hr _ _) Engine.toIdle

theorem endUpdateGood : R (endUpdateGood t) (endUpdateGood s) := by
  unfold Machine.endUpdateGood; dsimp only
  rw [h.engine hr, h.cru hr]
  exact h.setEngine _ (h.setCru _ hr)

theorem endRelocated (x : JobResult) : R (endRelocated x t) (endRelocated x s) := by
  unfold Machine.endRelocated
  rw [h.engine hr]
  split
  · exact h.endCommit hr
  · exact h.endJob hr _
  · exact h.endClearStep hr
  · exact hr

theorem markSpareBad (i : Nat) : R (markSpareBad i t) (markSpareBad i s) := by
  unfold Machine.markSpareBad; dsimp only
  rw [h.map hr]
  exact h.setUpdatePending (h.report _ (h.setMap _ hr))

theorem markOldSpare (o : Option RemapEntry) : R (markOldSpare o t) (markOldSpare o s) := by
  unfold Machine.markOldSpare; split
  · exact h.markSpareBad hr _
  · exact hr

theorem remapTo (i : Nat) : R (remapTo i t) (remapTo i s) := by
  unfold Machine.remapTo; dsimp only
  rw [h.engine hr, h.map hr]
  exact h.endRelocated (h.setUpdatePending (h.markOldSpare (h.report _ (h.setMap _ hr)) _)) _

theorem retireSector : R (retireSector t) (retireSector s) := by
  unfold Machine.retireSector; dsimp only
  rw [h.engine hr, h.map hr, h.retiringRegion hr, h.waitingIn hr]
  exact h.endRelocated (h.stalledAfterRetirement (h.setUpdatePending (h.markOldSpare
    (h.report _ (h.discardSector (h.setMap _ hr) _ _)) _)) _ _) _

theorem loseData : R (loseData t) (loseData s) := by
  unfold Machine.loseData; dsimp only
  rw [h.engine hr]
  exact h.endRelocated (h.report _ hr) _

theorem trySpare : R (trySpare t) (trySpare s) := by
  unfold Machine.trySpare
  rw [h.lowestFree hr, h.engine hr]
  split
  · exact h.engineErase (h.setEngine _ hr) _ _
  · exact h.retireSector hr

theorem enterRelocate : R (enterRelocate t) (enterRelocate s) := by
  unfold Machine.enterRelocate; dsimp only
  rw [h.engine hr, h.hasRoom (h.setEngine _ hr)]
  split_ifs
  · exact h.trySpare (h.setEngine _ hr)
  · exact h.loseData (h.setEngine _ hr)

theorem spareFails : R (spareFails t) (spareFails s) := by
  unfold Machine.spareFails; rw [h.engine hr]; exact h.trySpare (h.markSpareBad hr _)

theorem spareSucceeds : R (spareSucceeds t) (spareSucceeds s) := by
  unfold Machine.spareSucceeds; rw [h.engine hr]; exact h.remapTo hr _

theorem enterLoad : R (enterLoad t) (enterLoad s) := by
  unfold Machine.enterLoad; rw [h.engine hr]; exact h.engineRead (h.setEngine _ hr) _

theorem writeImage (o : Nat) : R (writeImage o t) (writeImage o s) := by
  unfold Machine.writeImage
  rw [h.engine hr]
  split
  · exact h.engineProgram hr _ _
  · split_ifs
    · exact h.spareSucceeds hr
    · exact h.endCommit hr

theorem programChanged (o : Nat) : R (programChanged o t) (programChanged o s) := by
  unfold Machine.programChanged
  rw [h.engine hr]
  split
  · exact h.engineProgram hr _ _
  · exact h.endCommit hr

theorem endOfLoad : R (endOfLoad t) (endOfLoad s) := by
  unfold Machine.endOfLoad; dsimp only
  rw [h.engine hr]
  have hreleased := fun r e => h.releaseAll (h.setEngine e hr) r
  split_ifs
  · exact h.enterRelocate (hreleased _ _)
  · rw [h.engine (hreleased _ _)]; exact h.engineErase (hreleased _ _) _ _
  · rw [h.engine (hreleased _ _)]; exact h.programChanged (h.setEngine _ (hreleased _ _)) _
  · exact h.endCommit (hreleased _ _)

theorem endWaitingLoad : R (endWaitingLoad t) (endWaitingLoad s) := by
  unfold Machine.endWaitingLoad
  rw [h.endOfLoadWaits hr]
  split_ifs
  · exact h.endOfLoad hr
  · exact hr

theorem startTry : R (startTry t) (startTry s) := by
  unfold Machine.startTry; rw [h.engine hr]; exact h.engineErase (h.setEngine _ hr) _ _

theorem tryFails (x : FaultReason) : R (tryFails x t) (tryFails x s) := by
  unfold Machine.tryFails; rw [h.engine hr]
  split_ifs
  · exact h.endUpdateBad hr _
  · exact h.startTry (h.setEngine _ hr)

/-! ### What a failed attempt leads to -/

theorem programExhausted : R (programExhausted t) (programExhausted s) := by
  unfold Machine.programExhausted
  rw [h.engine hr]
  split
  · split_ifs
    · exact h.enterLoad (h.setEngine _ hr)
    · exact h.enterRelocate hr
  · exact h.enterRelocate hr
  · exact h.spareFails hr
  · exact hr

theorem engineProgramFail (o : ArrayOp) : R (engineProgramFail o t) (engineProgramFail o s) := by
  unfold Machine.engineProgramFail
  rw [h.engine hr]
  split_ifs
  · exact h.tryFails hr _
  · exact h.engClaim _ hr
  · exact h.programExhausted hr

theorem engineEraseFail (o : ArrayOp) : R (engineEraseFail o t) (engineEraseFail o s) := by
  unfold Machine.engineEraseFail
  rw [h.engine hr]
  split
  · exact h.tryFails hr _
  · split_ifs
    · exact h.engClaim _ hr
    · exact h.spareFails hr
  · split_ifs
    · exact h.engClaim _ hr
    · exact h.enterRelocate hr
  · split_ifs
    · exact h.engClaim _ hr
    · exact h.enterRelocate hr
  · split_ifs
    · exact h.engClaim _ hr
    · exact h.enterRelocate hr
  · exact hr

/-! ### The end of an event -/

theorem gatherStart (r : Nat) : R (gatherStart r t) (gatherStart r s) := by
  unfold Machine.gatherStart; dsimp only
  rw [h.gatherSector hr]
  split
  · exact h.endEmptyCommit hr
  · rename_i x _
    rw [h.gatherSet hr, h.map hr]
    have hgather := h.gatherEntries hr r x
    rw [h.engine hgather]
    split_ifs
    · exact h.engineRead (h.setEngine _ hgather) _
    · exact h.enterLoad (h.setEngine _ hgather)

theorem startCommit (r : Nat) : R (startCommit r t) (startCommit r s) := by
  rw [startCommit_eq, startCommit_eq]
  exact h.gatherStart (h.modifyEngine hr fun e => e.committing r) r

theorem startJob : R (startJob t) (startJob s) := by
  unfold Machine.startJob; dsimp only
  rw [h.engine hr, h.jobMayStart hr, h.map hr]
  split_ifs
  · exact h.engineErase (h.setEngine _ hr) _ _
  · exact h.endJob hr _

theorem startClearStep : R (startClearStep t) (startClearStep s) := by
  unfold Machine.startClearStep; dsimp only
  rw [h.nextToClear hr]
  have hindex := h.setClearIndex hr s.nextToClear
  rw [h.window hindex, h.map hindex, h.engine hindex]
  split_ifs
  · exact h.completeClear hindex
  · exact h.engineErase (h.setEngine _ hindex) _ _

theorem startUpdate : R (startUpdate t) (startUpdate s) := by
  have hcru := h.setCru { s.cru with updatePending := false } hr
  by_cases hg : generationLimit ≤ s.cru.generation
  · rw [startUpdate_fails hg, startUpdate_fails (by rw [h.cru hr]; exact hg), h.cru hr]
    exact h.controlFailure hcru _ _
  · have hrecord : ∀ im, t.liveRecord im = s.liveRecord im := fun im => by
      unfold State.liveRecord
      rw [h.cru hr, h.map hr]
    rw [startUpdate_eq (Nat.not_le.mp hg), startUpdate_eq (by rw [h.cru hr]; exact Nat.not_le.mp hg), h.cru hr,
      h.engine hr, h.image hr, hrecord]
    exact h.startTry (h.setEngine _ hcru)

theorem drain : R (drain t) (drain s) := by
  unfold Machine.drain
  rw [h.mode hr, h.queuesEmpty hr, h.engine hr]
  split_ifs
  · have hmode := h.setMode .held s.mc.clearIndex hr
    have ht : ({ t.mc with mode := Mode.held, clearIndex := s.mc.clearIndex } : ModeControl) = { t.mc with mode := .held } := by
      rw [← h.clearIndex hr]
    rw [ht] at hmode
    exact hmode
  · exact hr

/-- Related states select alike. -/
theorem selectOnce : (∀ u, selectOnce t = some u → ∃ v, selectOnce s = some v ∧ R u v)
    ∧ (selectOnce t = none → selectOnce s = none) := by
  unfold Machine.selectOnce
  rw [h.maySelect hr, h.cru hr, h.engine hr, h.mode hr, h.dueRegion hr]
  split_ifs
  · exact ⟨fun _ hu => absurd hu (by simp), id⟩
  · exact ⟨fun u hu => ⟨_, rfl, Option.some.inj hu ▸ h.startUpdate hr⟩, fun hn => absurd hn (by simp)⟩
  · exact ⟨fun u hu => ⟨_, rfl, Option.some.inj hu ▸ h.startJob hr⟩, fun hn => absurd hn (by simp)⟩
  · exact ⟨fun u hu => ⟨_, rfl, Option.some.inj hu ▸ h.startClearStep hr⟩, fun hn => absurd hn (by simp)⟩
  · cases s.dueRegion with
    | none => exact ⟨fun _ hu => absurd hu (by simp), id⟩
    | some r => exact ⟨fun u hu => ⟨_, rfl, Option.some.inj hu ▸ h.startCommit hr r⟩, fun hn => absurd hn (by simp)⟩

theorem selectItems (n : Nat) : R (selectItems n t) (selectItems n s) := by
  induction n generalizing t s with
  | zero => exact hr
  | succ n ih =>
    obtain ⟨hsome, hnone⟩ := h.selectOnce hr
    unfold Machine.selectItems
    cases ht : Machine.selectOnce t with
    | none => rw [hnone ht]; exact hr
    | some u =>
      obtain ⟨v, hv, huv⟩ := hsome u ht
      rw [hv]
      exact ih huv

/-- Before their grants the ends of two events are related. -/
theorem selections : R (Machine.selectItems selectionsPerEvent (Machine.drain t))
    (Machine.selectItems selectionsPerEvent (Machine.drain s)) := h.selectItems (h.drain hr) _

end Sim

end Sys2Proof.Machine

/-! Settles O54: the tick that the age limit is reached at, and the selection that a due region leads to. -/

namespace Sys2Proof.Machine

/-! ### Some region is taken when one is due -/

/-- Every region in range has a turn, whatever region was served last (R68). -/
theorem mem_roundRobin {n r : Nat} (hr : r < n) (last : Option Nat) : r ∈ roundRobin n last := by
  cases last with
  | none => simpa [roundRobin] using hr
  | some l =>
    refine List.mem_map.mpr ⟨(r + (l + 1) * (n - 1)) % n, by simpa using Nat.mod_lt _ (by omega), ?_⟩
    have hsum : l + 1 + (r + (l + 1) * (n - 1)) = r + (l + 1) * n := by
      obtain ⟨m, rfl⟩ : ∃ m, n = m + 1 := ⟨n - 1, by omega⟩
      rw [Nat.add_sub_cancel, Nat.mul_succ]; omega
    rw [Nat.add_mod_mod, hsum, Nat.add_mul_mod_self_right, Nat.mod_eq_of_lt hr]

/-- When a region is due, a selection takes one, and it holds entries (R67). -/
theorem dueRegion_isSome {s : State} {r c : Nat} (hr : r < s.regions.length) (hc : s.dueClass r = some c) :
    ∃ k, s.dueRegion = some k ∧ s.count k ≠ 0 := by
  cases hk : s.dueRegion with
  | none =>
    have hnone := List.findSome?_eq_none_iff.mp hk c (dueClass_mem hc)
    have := List.find?_eq_none.mp hnone r (mem_roundRobin hr _)
    simp [hc] at this
  | some k =>
    obtain ⟨c', -, hfound⟩ := List.exists_of_findSome?_eq_some hk
    have hclass : s.dueClass k = some c' := by simpa using List.find?_some hfound
    refine ⟨k, rfl, fun hzero => ?_⟩
    rw [dueClass_eq, if_pos (.inr hzero)] at hclass
    simp at hclass

/-- An aged STAGED region that holds entries is due (R67). -/
theorem dueClass_of_aged {s : State} {r : Nat} (hstaged : s.hasPolicy r .staged = true) (hcount : s.count r ≠ 0)
    (haged : s.aged r = true) : ∃ c, s.dueClass r = some c := by
  rw [dueClass_eq, if_neg (by simp [hstaged, hcount]), if_pos haged]
  split_ifs <;> exact ⟨_, rfl⟩

/-- A REGION_COMMIT that finds a WAITING entry goes to work (R69, R70). -/
theorem startCommit_works {s : State} {r x : Nat} (h : s.gatherSector r = some x) :
    (startCommit r s).engine.item = .regionCommit ∧ (startCommit r s).engine.phase ≠ .idle := by
  have hsector : (s.setEngine (s.engine.committing r)).gatherSector r = some x := h
  rw [startCommit_eq, gatherStart, hsector]
  dsimp only
  split_ifs
  · exact ⟨rfl, by simp [engineRead, raiseEngineClaim, Engine.committing, gatherEntries, updateQueue]⟩
  · exact ⟨rfl, by simp [enterLoad, engineRead, raiseEngineClaim]⟩

/-- In RUN, with no update and no job, an event that finds a region due ends with a REGION_COMMIT at work (R65 to R67). -/
theorem settle_commits {s : State} (hmay : s.maySelect = true) (hp : s.cru.updatePending = false)
    (hj : s.engine.jobPending = false) (hm : s.mc.mode = .run) (hwait : ∀ k, ∀ e ∈ s.queue k, e.state = .waiting)
    {r c : Nat} (hr : r < s.regions.length) (hc : s.dueClass r = some c) :
    (settle s).engine.item = .regionCommit ∧ (settle s).engine.phase ≠ .idle := by
  obtain ⟨k, hk, hcount⟩ := dueRegion_isSome hr hc
  have hdrain : drain s = s := drain_of_mode (by simp [hm])
  have hselect : selectOnce (drain s) = some (startCommit k s) := by
    rw [hdrain, selectOnce, if_neg (by simp [hmay]), if_neg (by simp [hp]), if_neg (by simp [hj]), if_neg (by simp [hm]), hk]
    rfl
  obtain ⟨x, hx⟩ : ∃ x, s.gatherSector k = some x := by
    obtain ⟨e, rest, hq⟩ := List.exists_cons_of_length_pos (Nat.pos_of_ne_zero hcount)
    have hwaits : e.waits = true := by simp [Entry.waits, hwait k e (by simp [hq])]
    exact ⟨sectorOf e.addr, by simp [State.gatherSector, hq, hwaits]⟩
  obtain ⟨hitem, hphase⟩ := startCommit_works hx
  rw [settle_of_started hselect (maySelect_of_phase hphase), grant_item, grant_phase]
  exact ⟨hitem, hphase⟩

/-! ### The tick of the limit -/

/-- The ticks to the age limit end on the millisecond at which the head age stamp is as old as the limit (R35, R214). -/
theorem ticksToAge_ends {s : State} {r : Nat} {g : RegionRec} {h : BitVec 32} {l : Nat} (hg : s.region? r = some g)
    (hpolicy : g.policy = .staged) (hl : ageLimit g.ageCode = some l) (hh : s.headStamp r = some h)
    (hyoung : (s.msTick - h).toNat < l) :
    s.time + s.ticksToAge r = (s.time / 1000 + (l - (s.msTick - h).toNat)) * 1000 := by
  have hticks : s.ticksToAge r = s.ticksToMs (l - (s.msTick - h).toNat) := by
    simp [State.ticksToAge, hg, hh, hl, hpolicy]
  rw [hticks, State.ticksToMs, if_neg (by omega)]
  omega

/-- At that tick the region is aged. -/
theorem elapse_aged {s : State} {r : Nat} {g : RegionRec} {h : BitVec 32} {l : Nat} (hg : s.region? r = some g)
    (hpolicy : g.policy = .staged) (hl : ageLimit g.ageCode = some l) (hh : s.headStamp r = some h)
    (hyoung : (s.msTick - h).toNat < l) : (elapse (s.ticksToAge r) s).aged r = true := by
  have hends := ticksToAge_ends hg hpolicy hl hh hyoung
  have hg' : (elapse (s.ticksToAge r) s).region? r = some g := hg
  refine (aged_iff hg').mpr ⟨hpolicy, h, l, hh, ageLimit_eq_some.mp hl, ?_⟩
  have htime : (elapse (s.ticksToAge r) s).time = s.time + s.ticksToAge r := rfl
  have hlimit : l ≤ 1024 := by
    have := ageLimit_eq_some.mp hl
    simp only [List.mem_cons, Prod.mk.injEq, List.not_mem_nil, or_false] at this
    omega
  rw [State.msTick, BitVec.toNat_sub, BitVec.toNat_ofNat] at hends hyoung
  rw [htime, hends]
  have := h.isLt
  omega

/-- The claims and grants leave what makes a region aged. -/
theorem grant_aged (s : State) (r : Nat) : (grant s).aged r = s.aged r := by
  obtain ⟨_, _, _, _, h⟩ := grant_frame s
  rw [h]; rfl

/-- Settles O54: the time that passes ends on the tick of the limit; an engine at work goes on, and one that may take a
selection finds the region due. -/
theorem ageLimitMakesRegionDue : Obligations.AgeLimitMakesRegionDue := by
  intro s r g h l hawake hg hpolicy hl hh hyoung hres
  have haged := elapse_aged hg hpolicy hl hh hyoung
  have hends := ticksToAge_ends hg hpolicy hl hh hyoung
  have hrun : exec (.regionAgeLimit r) s = .next (refresh (settle (elapse (s.ticksToAge r.toNat) s))) := by
    rw [exec_awake hawake (by simp) (by simp)]
    rw [effect, finish_eq_settle (by exact hres)]
  have hframe : ∀ d, (elapse d s).contents = s.contents ∧ (elapse d s).marked = s.marked
      ∧ (elapse d s).maySelect = s.maySelect ∧ (elapse d s).cru = s.cru ∧ (elapse d s).engine = s.engine
      ∧ (elapse d s).mc = s.mc ∧ (elapse d s).regions = s.regions ∧ (elapse d s).queue = s.queue :=
    fun d => ⟨rfl, rfl, rfl, rfl, rfl, rfl, rfl, rfl⟩
  have htime : (elapse (s.ticksToAge r.toNat) s).time = s.time + s.ticksToAge r.toNat := rfl
  obtain ⟨hcontents, hmarked, hmay, hcru, hengine, hmc, hregions, hqueue⟩ := hframe (s.ticksToAge r.toNat)
  generalize elapse (s.ticksToAge r.toNat) s = u at *
  refine ⟨_, hrun, ?_, fun k => ?_, fun hbusy => ?_, fun hsel hp hj hm hwait => ?_⟩
  · rw [refresh_time, show (settle u).time = u.time from congrArg Outer.time (settle_outer u), htime, hends]
  · rw [refresh_contents, refresh_marked, settle_contents, settle_marked, hcontents, hmarked]
    exact ⟨rfl, rfl⟩
  · obtain ⟨m, hm⟩ := drain_frame u
    rw [settle_of_busy (hmay.trans hbusy), refresh_engine, grant_item, drain_engine, hengine]
    refine ⟨?_, rfl⟩
    have hgrant : (refresh (grant (drain u))).aged r.toNat = (grant (drain u)).aged r.toNat := rfl
    rw [hgrant, grant_aged, hm]
    exact haged
  · have hdue : ∃ c, u.dueClass r.toNat = some c := by
      have hg' : u.region? r.toNat = some g := by rw [State.region?, hregions]; exact hg
      refine dueClass_of_aged (by simp [State.hasPolicy, hg', hpolicy]) (fun hzero => ?_) haged
      rw [State.count, hqueue, List.length_eq_zero_iff] at hzero
      simp [State.headStamp, hzero] at hh
    obtain ⟨c, hc⟩ := hdue
    have hr : r.toNat < u.regions.length := by
      rw [hregions]
      exact (List.getElem?_eq_some_iff.mp hg).1
    rw [refresh_engine]
    exact settle_commits (hmay.trans hsel) (by rw [hcru]; exact hp) (by rw [hengine]; exact hj) (by rw [hmc]; exact hm)
      (by rw [hqueue]; exact hwait) hr hc

end Sys2Proof.Machine

/-! Two runs that differ in a select that waits, in the outputs or in the setup port: the blocks read none of them, so that
an access is taken, and an event ends, alike in both. -/

namespace Sys2Proof.Machine

/-! ### The relation -/

/-- A state without its select, its outputs and its setup port. -/
def State.mask (s : State) : State :=
  { s with
    host := { s.host with select := false, reselect := false }
    log := { s.log with attn := false }
    mc := { s.mc with drained := false }
    setup := SetupPort.reset }

/-- What the mask drops, but for the outputs: the level at HCS#, a select that waits, and the setup port; and the host's
pins. -/
structure Lines where
  select   : Bool
  reselect : Bool
  setup    : SetupPort
  pins     : HostPins

/-- Those components of a state. -/
def State.lines (s : State) : Lines := 
  { select := s.host.select, reselect := s.host.reselect, setup := s.setup, pins := s.host.pins }

/-- `t` with lines `x` is `s` with lines `y` but for those and the outputs, and an access that completes is presented in both
or in neither (R209). -/
def Alike (x y : Lines) (t s : State) : Prop :=
  t.mask = s.mask ∧ t.lines = x ∧ s.lines = y ∧ (x.select && !x.reselect) = (y.select && !y.reselect)

/-- The log takes a report whatever ATTN is. -/
theorem FaultLog.take_attn (l : FaultLog) (f : FaultReport) (tick : BitVec 32) (b : Bool) :
    FaultLog.take { l with attn := b } f tick = { l.take f tick with attn := b } := by
  unfold FaultLog.take FaultLog.form
  dsimp only
  split
  · split_ifs <;> rfl
  · split_ifs <;> rfl

namespace Alike

variable {x y : Lines} {t s : State}

theorem reads {α : Type} (h : Alike x y t s) (f : State → α) : f t.mask = f s.mask := congrArg f h.1

theorem core (h : Alike x y t s) : t.core = s.core := h.reads State.core
theorem port (h : Alike x y t s) : t.port = s.port := h.reads State.port
theorem reader (h : Alike x y t s) : t.reader = s.reader := h.reads State.reader
theorem engine (h : Alike x y t s) : t.engine = s.engine := h.reads State.engine
theorem map (h : Alike x y t s) : t.map = s.map := h.reads State.map
theorem flash (h : Alike x y t s) : t.flash = s.flash := h.reads State.flash
theorem stall (h : Alike x y t s) : t.stall = s.stall := h.reads State.stall
theorem startup (h : Alike x y t s) : t.startup = s.startup := h.reads State.startup
theorem inReset (h : Alike x y t s) : t.inReset = s.inReset := h.reads State.inReset
theorem stream (h : Alike x y t s) : t.stream = s.stream := h.reads State.stream
theorem msTick (h : Alike x y t s) : t.msTick = s.msTick := h.reads State.msTick
theorem hostState (h : Alike x y t s) : t.host.state = s.host.state := h.reads fun u : State => u.host.state
theorem access (h : Alike x y t s) : t.host.access = s.host.access := h.reads fun u : State => u.host.access
theorem pins (h : Alike x y t s) : t.host.pins = s.host.pins := h.reads fun u : State => u.host.pins
theorem mode (h : Alike x y t s) : t.mc.mode = s.mc.mode := h.reads fun u : State => u.mc.mode
theorem window (h : Alike x y t s) : t.window = s.window := h.reads State.window
theorem regionOf (h : Alike x y t s) (n : Nat) : t.regionOf n = s.regionOf n := h.reads fun u : State => u.regionOf n
theorem region? (h : Alike x y t s) (r : Nat) : t.region? r = s.region? r := h.reads fun u : State => u.region? r
theorem hasPolicy (h : Alike x y t s) (r : Nat) (p : Policy) : t.hasPolicy r p = s.hasPolicy r p :=
  h.reads fun u : State => u.hasPolicy r p
theorem assemble (h : Alike x y t s) (a : ReadAccess) (w : Word) : t.assemble a w = s.assemble a w :=
  h.reads fun u : State => u.assemble a w
theorem fastRead (h : Alike x y t s) (a : ReadAccess) : t.fastRead a = s.fastRead a := h.reads fun u : State => u.fastRead a
theorem eraseHeld (h : Alike x y t s) (n : Nat) : t.eraseHeld n = s.eraseHeld n := h.reads fun u : State => u.eraseHeld n
theorem jobHeld (h : Alike x y t s) (n : Nat) : t.jobHeld n = s.jobHeld n := h.reads fun u : State => u.jobHeld n
theorem waitingAt (h : Alike x y t s) (r : Nat) (a : HostAddr) : t.waitingAt r a = s.waitingAt r a :=
  h.reads fun u : State => u.waitingAt r a
theorem queues (h : Alike x y t s) : t.queues = s.queues := h.reads State.queues
theorem count (h : Alike x y t s) (r : Nat) : t.count r = s.count r := h.reads fun u : State => u.count r
theorem capacity (h : Alike x y t s) (r : Nat) : t.capacity r = s.capacity r := h.reads fun u : State => u.capacity r
theorem newEntry (h : Alike x y t s) (r : Nat) (a : HostAddr) (m : LaneMask) (d : Word) :
    t.newEntry r a m d = s.newEntry r a m d := h.reads fun u : State => u.newEntry r a m d

/-! ### The moves keep it -/

theorem setEngine (h : Alike x y t s) (e : Engine) : Alike x y (t.setEngine e) (s.setEngine e) :=
  ⟨congrArg (State.setEngine · e) h.1, h.2⟩
theorem setMap (h : Alike x y t s) (m : SectorMap) : Alike x y (t.setMap m) (s.setMap m) :=
  ⟨congrArg (State.setMap · m) h.1, h.2⟩
theorem setCru (h : Alike x y t s) (c : ControlUnit) : Alike x y (t.setCru c) (s.setCru c) :=
  ⟨congrArg (State.setCru · c) h.1, h.2⟩
theorem setQueues (h : Alike x y t s) (q : List RegionQueue) : Alike x y (t.setQueues q) (s.setQueues q) :=
  ⟨congrArg (State.setQueues · q) h.1, h.2⟩
theorem setStall (h : Alike x y t s) (w : Option StalledWrite) : Alike x y (t.setStall w) (s.setStall w) :=
  ⟨congrArg (State.setStall · w) h.1, h.2⟩
theorem setReader (h : Alike x y t s) (r : Reader) : Alike x y (t.setReader r) (s.setReader r) :=
  ⟨congrArg (State.setReader · r) h.1, h.2⟩
theorem setPort (h : Alike x y t s) (p : ArrayPort) : Alike x y (t.setPort p) (s.setPort p) :=
  ⟨congrArg (State.setPort · p) h.1, h.2⟩
theorem setFlash (h : Alike x y t s) (b : FlashBank) : Alike x y (t.setFlash b) (s.setFlash b) :=
  ⟨congrArg (State.setFlash · b) h.1, h.2⟩
theorem setStartup (h : Alike x y t s) (u : Option StartUp) : Alike x y (t.setStartup u) (s.setStartup u) :=
  ⟨congrArg (State.setStartup · u) h.1, h.2⟩
theorem setStream (h : Alike x y t s) (l : StatusStream) : Alike x y (t.setStream l) (s.setStream l) :=
  ⟨congrArg (State.setStream · l) h.1, h.2⟩
theorem setMode (h : Alike x y t s) (m : Mode) (k : Nat) :
    Alike x y (t.setMc { t.mc with mode := m, clearIndex := k }) (s.setMc { s.mc with mode := m, clearIndex := k }) :=
  ⟨congrArg (fun u : State => u.setMc { u.mc with mode := m, clearIndex := k }) h.1, h.2⟩
theorem countRefused (h : Alike x y t s) : Alike x y (countRefused t) (countRefused s) :=
  ⟨congrArg Machine.countRefused h.1, h.2⟩
theorem modifyPort (h : Alike x y t s) (f : ArrayPort → ArrayPort) : Alike x y (t.setPort (f t.port)) (s.setPort (f s.port)) := by
  rw [h.port]; exact h.setPort _

/-- A select that is taken sets the whole host port. -/
theorem setHost (h : Alike x y t s) (v : HostPort) :
    Alike ⟨v.select, v.reselect, x.setup, v.pins⟩ ⟨v.select, v.reselect, y.setup, v.pins⟩ (t.setHost v) (s.setHost v) := by
  obtain ⟨hmask, rfl, rfl, -⟩ := h
  exact ⟨congrArg (fun u : State => u.setHost { v with select := false, reselect := false }) hmask, rfl, rfl, rfl⟩

theorem report (h : Alike x y t s) (f : FaultReport) : Alike x y (report f t) (report f s) := by
  have hmask : ∀ u : State, (Machine.report f u).mask = u.mask.setLog (u.mask.log.take f u.msTick) := fun u => by
    have hlog : u.mask.log.take f u.msTick = { u.log.take f u.msTick with attn := false } :=
      u.log.take_attn f u.msTick false
    rw [hlog]
    rfl
  exact ⟨by rw [hmask, hmask, h.msTick, h.1], h.2⟩

theorem complete (h : Alike x y t s) (e : Bool) (d : Option Word) : Alike x y (completeAccess e d t) (completeAccess e d s) := by
  have hstate := h.hostState
  obtain ⟨hmask, ht, hs, hxy⟩ := h
  have hsel : (t.host.select && !t.host.reselect) = (s.host.select && !s.host.reselect) := by
    rw [← ht, ← hs] at hxy; exact hxy
  unfold completeAccess
  rw [hsel, hstate]
  have hpresents : ∀ u : State, u.mask.setHost { u.mask.host with state := .done, data := d, herr := e }
      = (u.setHost { u.host with state := .done, data := d, herr := e }).mask := fun _ => rfl
  have hends : ∀ u : State, u.mask.setHost { u.mask.host with state := .idle, access := none, data := none, herr := false }
      = (u.setHost { u.host with state := .idle, access := none, data := none, herr := false }).mask := fun _ => rfl
  split_ifs
  · exact ⟨by rw [← hpresents, ← hpresents, hmask], ht, hs, hxy⟩
  · exact ⟨by rw [← hends, ← hends, hmask], ht, hs, hxy⟩
  · exact ⟨hmask, ht, hs, hxy⟩

/-! ### Claims and grants -/

theorem readIssued (h : Alike x y t s) (o : RunningOp) : Alike x y (readIssued o t) (readIssued o s) := by
  unfold Machine.readIssued
  rw [h.reader]
  split_ifs
  · exact h.setReader _
  · exact h

theorem countAttempt (h : Alike x y t s) (o : ArrayOp) : Alike x y (countAttempt o t) (countAttempt o s) := by
  unfold Machine.countAttempt
  rw [h.engine, h.port]
  split
  · exact h.setEngine _
  · exact h.setEngine _
  · exact h.setPort _
  · exact h

theorem issueOp (h : Alike x y t s) (o : ArrayOp) : Alike x y (issueOp o t) (issueOp o s) := by
  have hcount := h.countAttempt o
  unfold Machine.issueOp
  dsimp only
  rw [h.port, hcount.port]
  exact (hcount.setPort _).readIssued _

theorem grant (h : Alike x y t s) : Alike x y (grant t) (grant s) := by
  unfold Machine.grant
  rw [h.port]
  split_ifs
  · split
    · exact h.issueOp _
    · split
      · exact h.issueOp _
      · exact h
  · exact h

theorem considerSuspend (h : Alike x y t s) : Alike x y (considerSuspend t) (considerSuspend s) := by
  have hrun : t.eraseRunning = s.eraseRunning := h.reads State.eraseRunning
  have hlimit : t.suspendLimit = s.suspendLimit := h.reads State.suspendLimit
  unfold Machine.considerSuspend
  rw [hrun, hlimit, h.port]
  split_ifs
  · exact h.setPort _
  · exact h

theorem raiseHostClaim (h : Alike x y t s) (o : ArrayOp) : Alike x y (raiseHostClaim o t) (raiseHostClaim o s) := by
  unfold Machine.raiseHostClaim
  rw [h.port]
  exact (h.setPort _).grant.considerSuspend

end Alike

/-- The ends of host accesses, and the claims of held ones, read nothing in which the runs differ. -/
theorem accesses_alike (x y : Lines) : Accesses (Alike x y) where
  core h := h.core
  held h := by rw [h.reader]
  report f h := h.report f
  complete e d h := h.complete e d
  waits a h := h.setReader _
  rests h := h.setReader _
  claim o _ _ h := h.raiseHostClaim o
  direct d h := h.modifyPort fun p => { p with direct := d }
  unclaim h := h.modifyPort fun p => { p with hostClaim := none }

/-- The engine and the end of an event read nothing in which the runs differ. -/
theorem sim_alike (x y : Lines) : Sim (Alike x y) where
  core h := h.core
  setEngine e h := h.setEngine e
  setMap m h := h.setMap m
  setCru c h := h.setCru c
  setQueues q h := h.setQueues q
  setMode m k h := h.setMode m k
  unstall h := h.setStall none
  report f h := h.report f
  complete e d h := h.complete e d
  engClaim o h := h.modifyPort fun p => { p with engClaim := some o }
  holds n h := (accesses_alike x y).releaseHolds h n

namespace Alike

variable {x y : Lines} {t s : State}

theorem settle (h : Alike x y t s) : Alike x y (settle t) (settle s) := ((sim_alike x y).selections h).grant

/-! ### An access is taken -/

theorem takeRead (h : Alike x y t s) (a : ReadAccess) : Alike x y (takeRead a t) (takeRead a s) := by
  unfold Machine.takeRead
  rw [h.eraseHeld, h.fastRead, h.assemble]
  split_ifs
  · exact h.setReader _
  · exact (accesses_alike x y).endRead h _ _
  · exact (accesses_alike x y).claimRead h a

theorem directWrite (h : Alike x y t s) (r : Nat) (a : HostAddr) (p : Nat) (m : LaneMask) (d : Word) :
    Alike x y (directWrite r a p m d t) (directWrite r a p m d s) := by
  unfold Machine.directWrite
  dsimp only
  rw [h.jobHeld, h.port]
  split_ifs
  · exact h.setPort _
  · exact (accesses_alike x y).claimDirect h _

theorem updateQueue (h : Alike x y t s) (r : Nat) (f : RegionQueue → RegionQueue) :
    Alike x y (updateQueue r f t) (updateQueue r f s) := (sim_alike x y).updateQueue h r f

theorem stagedWrite (h : Alike x y t s) (r : Nat) (a : HostAddr) (m : LaneMask) (d : Word) :
    Alike x y (stagedWrite r a m d t) (stagedWrite r a m d s) := by
  unfold Machine.stagedWrite
  rw [h.waitingAt, h.count, h.capacity]
  split_ifs
  · exact (h.updateQueue _ _).complete _ _
  · exact ((sim_alike x y).appendEntry h _ _ _ _).complete _ _
  · exact h.setStall _

theorem refuseSilently (h : Alike x y t s) (p : HostPins) : Alike x y (refuseSilently p t) (refuseSilently p s) := by
  unfold Machine.refuseSilently
  split_ifs <;> exact h.complete _ _

theorem classifyWrite (h : Alike x y t s) (p : HostPins) (r psec : Nat) :
    Alike x y (classifyWrite p r psec t) (classifyWrite p r psec s) := by
  unfold Machine.classifyWrite
  rw [h.map, h.hasPolicy, h.hasPolicy]
  split_ifs
  · exact (sim_alike x y).refuseWrite h _ _ _
  · exact (sim_alike x y).refuseWrite h _ _ _
  all_goals split
  · exact h.complete _ _
  · exact h.directWrite _ _ _ _ _
  · exact h.complete _ _
  · exact h.stagedWrite _ _ _ _

theorem classifyInRegion (h : Alike x y t s) (p : HostPins) (r : Nat) (g : RegionRec) :
    Alike x y (classifyInRegion p r g t) (classifyInRegion p r g s) := by
  unfold Machine.classifyInRegion
  rw [h.map]
  split
  · split_ifs
    · exact (sim_alike x y).refuseWrite h _ _ _
    · exact h.complete _ _
  · split_ifs
    · exact h.classifyWrite _ _ _
    · exact h.takeRead _

theorem classify (h : Alike x y t s) (p : HostPins) : Alike x y (classify p t) (classify p s) := by
  unfold Machine.classify classifyInside
  rw [h.window, h.mode, h.regionOf]
  split_ifs
  · exact (sim_alike x y).refuseWrite h _ _ _
  · exact h.complete _ _
  · exact h.refuseSilently p
  · exact h.countRefused.complete _ _
  · split
    · exact h.refuseSilently p
    · rw [h.region?]
      split
      · exact h.refuseSilently p
      · exact h.classifyInRegion _ _ _

/-- An arrival sets the lines alike, and goes on alike (R208). -/
theorem arrive (h : Alike x y t s) (p : HostPins) :
    Alike ⟨true, false, x.setup, p⟩ ⟨true, false, y.setup, p⟩ (arrive p t) (arrive p s) := by
  have hhost := h.setHost { state := .busy, access := some p, data := none, herr := false, select := true, pins := p
                            reselect := false }
  unfold Machine.arrive
  dsimp only
  rw [hhost.mode]
  split_ifs
  · exact hhost
  · exact hhost.classify p

/-! ### The outputs -/

/-- With the same lines, the outputs refreshed are the same, and so the whole state. -/
theorem refresh_eq (h : Alike x x t s) : refresh t = refresh s := by
  have hattn : t.attnFacts = s.attnFacts := h.reads State.attnFacts
  have hdrained : t.drainedFacts = s.drainedFacts := h.reads State.drainedFacts
  obtain ⟨hmask, ht, hs, -⟩ := h
  have hlines : t.lines = s.lines := ht.trans hs.symm
  have hself : ∀ u : State, refresh u = { u.mask with
      host := { u.mask.host with select := u.lines.select, reselect := u.lines.reselect }
      log := { u.mask.log with attn := u.attnFacts }
      mc := { u.mask.mc with drained := u.drainedFacts }
      setup := u.lines.setup } := fun _ => rfl
  rw [hself t, hself s, hmask, hattn, hdrained, hlines]

/-- A state beside itself with the outputs refreshed. -/
theorem refreshed (s : State) : Alike s.lines s.lines s (Machine.refresh s) := ⟨rfl, rfl, rfl, rfl⟩

end Alike

/-- An arrival at a port that is IDLE goes on alike whether or not the outputs have been refreshed before it, and ends no
other way than in the same event. -/
theorem exec_arrival_refreshed {v : State} (hawake : v.inReset = false) (hidle : v.host.state = .idle) (p : HostPins) :
    exec (.hostAccessArrival p) (refresh v) = .next (refresh (settle (arrive p v))) := by
  have halike := (Alike.refreshed v).arrive p
  have hcalm : (arrive p (refresh v)).host.reselect = false := congrArg Lines.reselect halike.2.2.1
  have hselect : selectActive p (refresh v) = arrive p (refresh v) := by
    rw [selectActive, show (refresh v).host.state = .idle from hidle]
  rw [exec_awake (by exact hawake) (by simp) (by simp), effect, hselect, finish_eq_settle hcalm, halike.settle.refresh_eq]

end Sys2Proof.Machine

/-! Settles O6: the release of RST#, and the reading of the copies up to the tables that it ends with. -/

namespace Sys2Proof.Machine

/-! ### The release of RST# -/

/-- The part as the release of RST# leaves it before the grant of copy A's first READ. -/
def released (pins : ReleasePins) (u : State) : State :=
  { resetPart u with
    inReset := false, straps := pins.straps, time := 0
    host := if u.host.select then HostPort.holds u.host.pins else { State.reset.host with pins := u.host.pins }
    port := { ArrayPort.reset.released pins.aready with engClaim := some (copyRead .a 0) }
    startup := some { copy := .a, words := [], judgedA := none } }

theorem beginStartUp_reset (pins : ReleasePins) (u : State) : beginStartUp pins (resetPart u) = released pins u := by
  unfold beginStartUp released
  dsimp only
  cases hs : u.host.select
  · have hsel : (resetPart u).host.select = false := hs
    rw [if_neg (by exact fun h => absurd (hsel.symm.trans h) (by decide)), if_neg (by decide)]
    unfold claimCopyRead raiseEngineClaim resetPart
    rw [hs]
    rfl
  · have hsel : (resetPart u).host.select = true := hs
    rw [if_pos (by exact hsel), if_pos rfl]
    rfl

/-- In STARTUP an event ends with the grant of what is claimed. -/
theorem finish_startingUp {v : State} (hm : v.mc.mode = .startup) (hres : v.host.reselect = false) : finish v = grant v := by
  have hmay : v.maySelect = false := by simp [State.maySelect, hm]
  rw [finish_eq_settle hres, settle_of_busy hmay, drain_of_mode (by simp [hm])]

/-- The READ of word 0 of copy A is granted at the release, and issued in that event when AREADY is high. -/
theorem grant_released (pins : ReleasePins) (u : State) : grant (released pins u) = (released pins u).setPort
    { (released pins u).port with
      state := .running, op := some { op := copyRead .a 0, timer := 0, issued := pins.aready } } := by
  unfold grant issueOp readIssued
  cases h : pins.aready <;> simp [released, h, ArrayPort.released, ArrayPort.reset, copyRead, countAttempt]; rfl

theorem exec_resetRelease_reset (pins : ReleasePins) (u : State) : exec (.resetRelease pins) (resetPart u)
    = .next (refresh ((released pins u).setPort { (released pins u).port with
      state := .running, op := some { op := copyRead .a 0, timer := 0, issued := pins.aready } })) := by
  have hreset : (resetPart u).inReset = true := rfl
  have hexec : exec (.resetRelease pins) (resetPart u) = .next (refresh (finish (beginStartUp pins (resetPart u)))) := by
    change execResetRelease pins (resetPart u) = _
    rw [execResetRelease, if_pos hreset]
  have hcalm : (released pins u).host.reselect = false := by unfold released; dsimp only; split_ifs <;> rfl
  rw [hexec, beginStartUp_reset, finish_startingUp (by rfl) hcalm, grant_released]

/-! ### A word of a copy -/

/-- The state in which a word of a copy reaches start-up. -/
theorem exec_startUpRead {s : State} {x : RunningOp} (h : s.Runs x) (hk : x.op.kind = .read)
    (hi : x.op.issuer = .startUp) (w : Word) :
    exec (.arrayReadEnd w) s = .next (refresh (finish (startUpRead w (s.engineEnded x true w)))) := by
  rw [exec_arrayReadEnd h hk, issuerEnd, hi]
  rfl

/-- The reading goes on with the READ of a word of a copy (R148, R149). -/
theorem finish_claimCopyRead {s : State} {v : StartUp} (hm : s.mc.mode = .startup) (hres : s.host.reselect = false)
    (hfree : s.port.state = .free) (hclaim : s.port.hostClaim = none) (harst : s.port.arst = .inactive) :
    let t := refresh (finish (claimCopyRead v s))
    t.mc.mode = .startup ∧ t.startup = some v ∧ t.Issues (copyRead v.copy v.words.length) := by
  have hfin : finish (claimCopyRead v s) = grant (claimCopyRead v s) := finish_startingUp hm hres
  dsimp only
  rw [hfin, refresh_issues]
  refine ⟨?_, ?_, grant_engineClaim hfree hclaim rfl harst⟩
  · rw [show ∀ z : State, (refresh z).mc.mode = z.mc.mode from fun _ => rfl, grant_mc]
    exact hm
  · exact congrArg WorkCore.startup (Kept.grant (claimCopyRead v s)).1

/-! ### The end of start-up -/

/-- The reports of start-up go to the log one after another. -/
theorem foldl_report (fs : List FaultReport) (s : State) :
    fs.foldl (fun t f => report f t) s = s.setLog (fs.foldl (fun l f => l.take f s.msTick) s.log) := by
  induction fs generalizing s with
  | nil => rfl
  | cons f fs ih => rw [List.foldl_cons, List.foldl_cons, ih]; rfl

/-- With every queue empty no region is due. -/
theorem dueRegion_of_empty {s : State} (h : ∀ r, s.queue r = []) : s.dueRegion = none := by
  have hclass : ∀ r, s.dueClass r = none := fun r => by rw [dueClass_eq, if_pos (.inr (by simp [State.count, h r]))]
  simp [State.dueRegion, hclass]

/-- The tables as installed in a part with nothing in hand: nothing waits for the end of the event. -/
theorem install_rests {s : State} {a b : Option ControlRecord} (hjob : s.engine.jobPending = false) (hclaims : s.port.hostClaim = none ∧ s.port.engClaim = none)
    (hres : s.host.reselect = false) : (install a b s).Rests := by
  have hempty : ∀ r, (install a b s).queue r = [] := by
    refine (queuesEmpty_iff _).mp ?_
    simp [State.queuesEmpty, install, emptyQueues]
  refine ⟨?_, ?_, fun _ => hclaims, fun h => ?_⟩
  · rw [State.hasWork, dueRegion_of_empty hempty]
    simp [install, startUpUnit, hjob]
  · exact fun h => absurd (show Mode.run = Mode.holding from h.1) (by decide)
  · exact absurd (hres.symm.trans h.2) (by decide)

/-- The end of start-up with no access held. -/
theorem endStartUp_idle {s : State} (hidle : s.host.state = .idle) (a b : Option ControlRecord) :
    endStartUp a b s = install a b (s.setLog
      ((startUpReports s.straps.cfgIgnore a b).foldl (fun l f => l.take f s.msTick) s.log)) := by
  have hhost : (install a b (s.setLog ((startUpReports s.straps.cfgIgnore a b).foldl (fun l f => l.take f s.msTick)
      s.log))).host.state = .idle := hidle
  unfold endStartUp
  dsimp only
  rw [foldl_report, classifyHeld, hhost]

/-- The end of start-up with an access held is the arrival of that access in RUN (R11). -/
theorem endStartUp_held (s : State) (p : HostPins) (a b : Option ControlRecord) :
    endStartUp a b (s.setHost (HostPort.holds p)) = arrive p (install a b (s.setLog
      ((startUpReports s.straps.cfgIgnore a b).foldl (fun l f => l.take f s.msTick) s.log))) := by
  unfold endStartUp
  dsimp only
  rw [foldl_report]
  rfl

/-! ### The obligation -/

/-- What the tables are chosen from is judged valid in one copy at least. -/
theorem chooseCopy_isSome (a b : Option ControlRecord) : (chooseCopy a b).isSome = (a.isSome || b.isSome) := by
  unfold chooseCopy
  split
  · split_ifs <;> rfl
  all_goals rfl

/-- The reports of start-up by what of the copies is judged valid (R150, R151). -/
theorem startUpReports_eq (straps : Straps) (a b : Option ControlRecord) : startUpReports straps.cfgIgnore a b
    = (match a, b with
        | some _, some _ => []
        | some _, none => [copyInvalid .b]
        | none, some _ => [copyInvalid .a]
        | none, none => [startupDefaults .noValidCopy])
      ++ if straps.cfgIgnore = true ∧ (chooseCopy a b).isSome = true then [startupDefaults .strap] else [] := by
  unfold startUpReports
  rw [chooseCopy_isSome]
  simp only [Bool.and_eq_true] <;> rfl

/-- The last word of copy B ends start-up with the tables of the chosen copy, and an access held goes on as it would have
begun in RUN (R11, R140, R150 to R153). -/
theorem readsCopy_last {s : State} {u : StartUp} {x : RunningOp} (h : s.ReadsCopy u x) {w : Word}
    {a judged : Option ControlRecord} (hcopy : u.copy = .b) (ha : u.judgedA = some a)
    (hjudge : judgeCopy (u.words ++ [w]) = (match judged with
      | some r => .valid r
      | none => .invalid)) :
    let v := install a judged ((s.engineEnded x true w).setLog
      ((startUpReports s.straps.cfgIgnore a judged).foldl (fun l f => l.take f s.msTick) s.log))
    exec (.arrayReadEnd w) s = .next (refresh v)
      ∧ ∀ p, exec (.arrayReadEnd w) (s.setHost (HostPort.holds p)) = exec (.hostAccessArrival p) (refresh v) := by
  intro v
  have hend : ∀ z : State, z.startup = some u → startUpRead w z = endStartUp a judged z := fun z hz => by
    cases judged <;> simp only [startUpRead, hz, hjudge, copyJudged, hcopy, ha, Option.getD_some]
  obtain ⟨hrun, hstart, hop, hclaim, -, hmode, -, hjob, hidle, hres⟩ := h
  have hrests : v.Rests := install_rests hjob ⟨hclaim, rfl⟩ hres
  refine ⟨?_, fun p => ?_⟩
  · rw [exec_startUpRead hrun (by rw [hop]) (by rw [hop]), hend _ (by exact hstart), endStartUp_idle (by exact hidle)]
    exact congrArg (fun z => Host.Outcome.next (refresh z)) (finish_of_rests hrests)
  · have hheld : endStartUp a judged ((s.setHost (HostPort.holds p)).engineEnded x true w) = arrive p v :=
      endStartUp_held (s.engineEnded x true w) p a judged
    have hcalm : (arrive p v).host.reselect = false := congrArg Lines.reselect ((Alike.refreshed v).arrive p).2.1
    rw [exec_startUpRead (by exact hrun) (by rw [hop]) (by rw [hop]), hend _ (by exact hstart), hheld, exec_arrival_refreshed (by exact hrun.1) (by exact hidle),
      finish_eq_settle hcalm]

/-- Settles O6: the release grants the first READ, each word leads to the next, and the last one to the tables. -/
theorem resetReleaseBeginsStartUp : Obligations.ResetReleaseBeginsStartUp := by
  refine ⟨fun u pins => ⟨resetPart u, _, rfl, exec_resetRelease_reset pins u, rfl, rfl, rfl, rfl, ?_, rfl, rfl, ?_, ?_, rfl, rfl,
    rfl, rfl, rfl, rfl⟩, fun s u x w h => ?_⟩
  · cases hr : pins.aready <;> simp [State.arstPin, released, ArrayPort.released, hr, arstLimit]
  · intro hr; simp [released, ArrayPort.released, hr]
  · intro hr
    refine ⟨by simp [released, ArrayPort.released, hr], by simp [released, ArrayPort.released, hr, arstLimit], fun d => ?_⟩
    simp [elapse, ArrayPort.passes, released, ArrayPort.released, ArrayPort.reset, hr, RunningOp.passes, copyRead,
      copySector]
  · have hall := h
    obtain ⟨hruns, hstart, hop, hclaim, harst, hmode, hphase, hjob, hidle, hres⟩ := h
    have hreads : ∀ v, startUpRead w (s.engineEnded x true w) = v → exec (.arrayReadEnd w) s = .next (refresh (finish v)) :=
      fun v hv => by rw [exec_startUpRead hruns (by rw [hop]) (by rw [hop]), hv]
    have hstart' : (s.engineEnded x true w).startup = some u := hstart
    have hgoes := fun v => finish_claimCopyRead (s := s.engineEnded x true w) (v := v) hmode hres rfl hclaim harst
    refine ⟨fun hjudge => ?_, fun judged hjudge => ⟨fun hcopy => ?_, fun a hcopy ha => ?_⟩⟩
    · obtain ⟨hm, hs, hi⟩ := hgoes { u with words := u.words ++ [w] }
      refine ⟨_, hreads (claimCopyRead { u with words := u.words ++ [w] } (s.engineEnded x true w)) ?_, hm, hs, ?_⟩
      · simp only [startUpRead, hstart', hjudge]
      · rw [hop]; exact hi
    · obtain ⟨hm, hs, hi⟩ := hgoes { copy := .b, words := [], judgedA := some judged }
      refine ⟨_, hreads (claimCopyRead { copy := .b, words := [], judgedA := some judged } (s.engineEnded x true w)) ?_, hm,
        hs, hi⟩
      cases judged <;> simp only [startUpRead, hstart', hjudge, copyJudged, hcopy]
    · obtain ⟨hlast, hheld⟩ := readsCopy_last hall hcopy ha hjudge
      have himage : ∀ c : Option (Copy × ControlRecord), startUpImage s.straps c = (match c with
          | some (_, r) => if s.straps.cfgIgnore then defaultImage r.image.spares s.straps.defAf else r.image
          | none => defaultImage 16 s.straps.defAf) := fun c => by cases c <;> rfl
      have hmap : ∀ c : Option (Copy × ControlRecord), startUpMap c = (match c with
          | some (_, r) => { remap := r.remap, bad := r.bad, protection := r.protection }
          | none => { remap := [], bad := 0, protection := [] }) := fun c => by cases c <;> rfl
      rw [startUpReports_eq] at hlast hheld
      exact ⟨_, hlast, rfl, rfl, rfl, congrArg some (himage _), congrArg emptyQueues (himage _), rfl, hmap _, rfl, rfl, rfl,
        hheld⟩

end Sys2Proof.Machine

/-! The array's reports, the timeouts and start-up in two runs that differ in a select that waits: they go on alike. -/

namespace Sys2Proof.Machine

namespace Alike

variable {x y : Lines} {t s : State}

/-! ### The engine's operations end -/

theorem modifyEngine (h : Alike x y t s) (f : Engine → Engine) :
    Alike x y (t.setEngine (f t.engine)) (s.setEngine (f s.engine)) := (sim_alike x y).modifyEngine h f

theorem engClaim (h : Alike x y t s) (o : ArrayOp) : Alike x y (raiseEngineClaim o t) (raiseEngineClaim o s) :=
  (sim_alike x y).engClaim o h

theorem releaseGathered (h : Alike x y t s) (g : GatheredEntry) :
    Alike x y (releaseGathered g t) (releaseGathered g s) := by
  unfold Machine.releaseGathered
  dsimp only
  rw [h.engine]
  exact (sim_alike x y).releaseOne (h.setEngine _) _ _

theorem programGathered (h : Alike x y t s) (gs : List GatheredEntry) :
    Alike x y (programGathered gs t) (programGathered gs s) := by
  induction gs generalizing t s with
  | nil => exact (sim_alike x y).endCommit h
  | cons g rest ih =>
    unfold Machine.programGathered
    split_ifs
    · exact ih h
    · exact ih (h.releaseGathered g)
    · exact (sim_alike x y).engineProgram h _ _

theorem gatherRead (h : Alike x y t s) (w : Word) : Alike x y (gatherRead w t) (gatherRead w s) := by
  unfold Machine.gatherRead
  rw [h.engine]
  split
  · exact h
  · dsimp only
    split_ifs
    · exact (sim_alike x y).enterLoad (h.setEngine _)
    · split
      · exact (sim_alike x y).engineRead (h.setEngine _) _
      · exact ((h.setEngine _).setEngine _).programGathered _

theorem lastWordLoaded (h : Alike x y t s) : Alike x y (lastWordLoaded t) (lastWordLoaded s) := by
  have hretires : t.loadRetires = s.loadRetires := h.reads State.loadRetires
  have hwaits : t.itemReadWaits = s.itemReadWaits := h.reads State.itemReadWaits
  unfold Machine.lastWordLoaded
  rw [hretires, hwaits]
  split_ifs
  · exact h
  · exact (sim_alike x y).endOfLoad h

theorem loadRead (h : Alike x y t s) (w : Word) : Alike x y (loadRead w t) (loadRead w s) := by
  unfold Machine.loadRead
  dsimp only
  rw [h.engine]
  split_ifs
  · exact (sim_alike x y).engineRead (h.setEngine _) _
  · exact (h.setEngine _).lastWordLoaded

theorem writeRecordFrom (h : Alike x y t s) (k : Nat) : Alike x y (writeRecordFrom k t) (writeRecordFrom k s) := by
  unfold Machine.writeRecordFrom
  rw [h.engine]
  split
  · exact (sim_alike x y).engineProgram (h.setEngine _) _ _
  · exact (sim_alike x y).engineRead (h.setEngine _) _

theorem verifyRead (h : Alike x y t s) (w : Word) : Alike x y (verifyRead w t) (verifyRead w s) := by
  unfold Machine.verifyRead
  dsimp only
  rw [h.engine]
  split_ifs
  · exact (sim_alike x y).engineRead (h.setEngine _) _
  · exact (sim_alike x y).endUpdateGood h
  · exact (sim_alike x y).tryFails h _

theorem engineReadEnd (h : Alike x y t s) (w : Word) : Alike x y (engineReadEnd w t) (engineReadEnd w s) := by
  unfold Machine.engineReadEnd
  rw [h.engine]
  split
  · exact h.gatherRead w
  · exact h.loadRead w
  · exact h.verifyRead w
  · exact h

theorem engineProgramPass (h : Alike x y t s) (o : ArrayOp) : Alike x y (engineProgramPass o t) (engineProgramPass o s) := by
  unfold Machine.engineProgramPass
  rw [h.engine]
  split
  · split_ifs
    · split
      · have hrel := h.releaseGathered ‹_›
        dsimp only
        rw [hrel.engine]
        exact hrel.programGathered _
      · exact (sim_alike x y).endCommit h
    · exact (sim_alike x y).programChanged h _
  · exact (sim_alike x y).writeImage h _
  · exact (sim_alike x y).writeImage h _
  · exact h.writeRecordFrom _
  · exact h

theorem engineErasePass (h : Alike x y t s) : Alike x y (engineErasePass t) (engineErasePass s) := by
  unfold Machine.engineErasePass
  rw [h.engine]
  split
  · exact (sim_alike x y).writeImage (h.setEngine _) _
  · split_ifs
    · exact (sim_alike x y).writeImage h _
    · exact (sim_alike x y).spareSucceeds h
  · exact (sim_alike x y).endJob h _
  · exact (sim_alike x y).endClearStep h
  · exact h.writeRecordFrom 0
  · exact h

theorem engineOpEnd (h : Alike x y t s) (o : ArrayOp) (pass : Bool) (w : Word) :
    Alike x y (engineOpEnd o pass w t) (engineOpEnd o pass w s) := by
  unfold Machine.engineOpEnd
  split
  · exact h.engineReadEnd w
  · exact h.engineProgramPass o
  · exact (sim_alike x y).engineProgramFail h o
  · exact h.engineErasePass
  · exact (sim_alike x y).engineEraseFail h o

theorem engineOpTimeout (h : Alike x y t s) (o : ArrayOp) : Alike x y (engineOpTimeout o t) (engineOpTimeout o s) := by
  unfold Machine.engineOpTimeout
  split
  · unfold engineReadTimeout
    rw [h.engine]
    split
    · exact (sim_alike x y).tryFails h _
    · exact h.engClaim o
  · exact (sim_alike x y).engineProgramFail h o
  · exact (sim_alike x y).engineEraseFail h o

/-! ### Start-up -/

theorem claimCopyRead (h : Alike x y t s) (u : StartUp) : Alike x y (claimCopyRead u t) (claimCopyRead u s) :=
  (h.setStartup _).engClaim _

theorem install (h : Alike x y t s) (a b : Option ControlRecord) : Alike x y (install a b t) (install a b s) := by
  have hstraps : t.straps = s.straps := h.reads State.straps
  obtain ⟨hmask, rfl, rfl, hsel⟩ := h
  refine ⟨?_, rfl, rfl, hsel⟩
  have hi : ∀ u : State, (Machine.install a b u).mask = Machine.install a b u.mask := fun _ => rfl
  rw [hi, hi, hmask]

theorem endStartUp (h : Alike x y t s) (a b : Option ControlRecord) : Alike x y (endStartUp a b t) (endStartUp a b s) := by
  have hreports : ∀ (fs : List FaultReport) (u v : State), Alike x y u v →
      Alike x y (fs.foldl (fun t f => Machine.report f t) u) (fs.foldl (fun t f => Machine.report f t) v) := by
    intro fs
    induction fs with
    | nil => exact fun u v huv => huv
    | cons f fs ih => exact fun u v huv => ih _ _ (huv.report f)
  have hstraps : t.straps = s.straps := h.reads State.straps
  have hinst := (hreports (startUpReports s.straps.cfgIgnore a b) t s h).install a b
  unfold Machine.endStartUp classifyHeld
  dsimp only
  rw [hstraps, hinst.hostState, hinst.access]
  split
  · exact hinst.classify _
  · exact hinst

theorem copyJudged (h : Alike x y t s) (u : StartUp) (r : Option ControlRecord) :
    Alike x y (copyJudged u r t) (copyJudged u r s) := by
  unfold Machine.copyJudged
  split
  · exact h.claimCopyRead _
  · exact h.endStartUp _ _

theorem startUpRead (h : Alike x y t s) (w : Word) : Alike x y (startUpRead w t) (startUpRead w s) := by
  unfold Machine.startUpRead
  rw [h.startup]
  split
  · exact h
  · dsimp only
    split
    · exact h.claimCopyRead _
    · exact h.copyJudged _ _
    · exact h.copyJudged _ _

/-! ### The array's reports -/

theorem hostReadEnd (h : Alike x y t s) (w : Word) : Alike x y (hostReadEnd w t) (hostReadEnd w s) := by
  have hclaim := h.modifyPort fun p => { p with hostClaim := none }
  unfold Machine.hostReadEnd
  dsimp only
  rw [hclaim.reader]
  split
  · rw [hclaim.assemble]
    exact (sim_alike x y).endWaitingLoad ((accesses_alike x y).endRead hclaim _ _)
  · exact (sim_alike x y).endWaitingLoad hclaim

theorem issuerEnd (h : Alike x y t s) (o : ArrayOp) (pass : Bool) (w : Word) :
    Alike x y (issuerEnd o pass w t) (issuerEnd o pass w s) := by
  have hclaim := h.modifyPort fun p => { p with engClaim := none }
  unfold Machine.issuerEnd
  split
  · exact h.hostReadEnd w
  · exact (accesses_alike x y).directAttemptEnd h pass
  · exact hclaim.engineOpEnd o pass w
  · exact hclaim.startUpRead w

theorem issuerTimeout (h : Alike x y t s) (o : ArrayOp) : Alike x y (issuerTimeout o t) (issuerTimeout o s) := by
  unfold Machine.issuerTimeout
  split
  · exact (sim_alike x y).endWaitingLoad
      ((accesses_alike x y).endRead (h.modifyPort fun p => { p with hostClaim := none }) _ _)
  · exact (accesses_alike x y).directAttemptEnd h false
  · exact (h.modifyPort fun p => { p with engClaim := none }).engineOpTimeout o
  · exact h.engClaim o

theorem issueInner (h : Alike x y t s) : Alike x y (issueInner t) (issueInner s) := by
  unfold Machine.issueInner
  rw [h.port]
  split
  · have hcount := h.countAttempt ‹_›
    dsimp only
    rw [hcount.port]
    exact (hcount.setPort _).readIssued _
  · exact h

theorem clearConsecutive (h : Alike x y t s) : Alike x y (clearConsecutive t) (clearConsecutive s) :=
  h.modifyPort fun p => { p with consecutive := 0 }

theorem freePort (h : Alike x y t s) : Alike x y (freePort t) (freePort s) :=
  h.modifyPort fun p => { p with state := .free, op := none, inner := none, ackTimer := 0, suspCount := 0 }

theorem ended (h : Alike x y t s) (o : ArrayOp) (pass : Bool) (w : Word) :
    Alike x y (t.setFlash (t.flash.ended o pass w)) (s.setFlash (s.flash.ended o pass w)) := by
  rw [h.flash]; exact h.setFlash _

theorem operationEnd (h : Alike x y t s) (o : RunningOp) (pass : Bool) (w : Word) :
    Alike x y (operationEnd o pass w t) (operationEnd o pass w s) :=
  ((h.ended o.op pass w).freePort.clearConsecutive).issuerEnd _ _ _

theorem innerEnd (h : Alike x y t s) (o : RunningOp) (pass : Bool) (w : Word) :
    Alike x y (innerEnd o pass w t) (innerEnd o pass w s) := by
  have hended := (h.ended o.op pass w).clearConsecutive.issuerEnd o.op pass w
  unfold Machine.innerEnd
  dsimp only
  rw [hended.port]
  split_ifs
  · exact hended.issueInner
  · unfold resumeErase
    rw [hended.port]
    exact hended.setPort _

theorem reportEnd (h : Alike x y t s) (k : OpKind) (pass : Bool) (w : Word) :
    Alike x y (reportEnd k pass w t) (reportEnd k pass w s) := by
  unfold Machine.reportEnd
  rw [h.port]
  split
  · split
    · exact h.operationEnd _ _ _
    · exact h
  · split
    · exact h.innerEnd _ _ _
    · exact h
  · exact h

theorem reportEraseEnd (h : Alike x y t s) (pass : Bool) : Alike x y (reportEraseEnd pass t) (reportEraseEnd pass s) := by
  unfold Machine.reportEraseEnd
  rw [h.port]
  split_ifs
  · split
    · exact h.operationEnd _ _ _
    · exact h
  · exact h

theorem reportAcknowledgement (h : Alike x y t s) : Alike x y (reportAcknowledgement t) (reportAcknowledgement s) := by
  unfold Machine.reportAcknowledgement
  rw [h.port]
  split_ifs
  · exact h.clearConsecutive.issueInner
  · exact h

theorem endPulse (h : Alike x y t s) : Alike x y (endPulse t) (endPulse s) := by
  have hpulse := h.modifyPort fun p => { p with arst := .inactive, arstTimer := 0 }
  unfold Machine.endPulse
  simp only [h.port, State.setPort_port] at hpulse ⊢
  split_ifs
  · split
    · split_ifs
      · exact hpulse
      · exact ((hpulse.setPort _).readIssued _).considerSuspend
    · exact hpulse
  · exact h

/-! ### Timeouts -/

theorem abandonOps (h : Alike x y t s) : Alike x y (abandonOps t) (abandonOps s) := by
  unfold Machine.abandonOps
  rw [h.flash, h.port]
  exact h.setFlash _

theorem failHeldAccess (h : Alike x y t s) : Alike x y (failHeldAccess t) (failHeldAccess s) := by
  unfold Machine.failHeldAccess failRead
  rw [h.access]
  split
  · split_ifs <;> exact h.complete _ _
  · exact h

theorem setOffline (h : Alike x y t s) :
    Alike x y (t.setMc { t.mc with mode := .offline }) (s.setMc { s.mc with mode := .offline }) :=
  ⟨congrArg (fun u : State => u.setMc { u.mc with mode := .offline }) h.1, h.2⟩

/-- A status stream that does not run begins in both (R206). -/
theorem runStream (h : Alike x y t s) (l : StatusStream) : Alike x y (if t.stream.running then t else t.setStream l)
    (if s.stream.running then s else s.setStream l) := by
  rw [h.stream]
  split_ifs
  · exact h
  · exact h.setStream l

theorem enterOffline (h : Alike x y t s) : Alike x y (enterOffline t) (enterOffline s) := by
  have habandoned := h.abandonOps
  have hstopped := habandoned.modifyPort fun p => { p with
    state := PortState.stopped, op := none, inner := none, hostClaim := none, engClaim := none, direct := none, arst := .held
    ackTimer := 0, arstTimer := 0, suspCount := 0 }
  have hlost := (((hstopped.modifyEngine fun e => { e with stopped := true }).setStall none).setReader
    { state := .idle, access := none }).setStartup none
  exact ((hlost.runStream { running := true, position := none, sts := 0, stsync := false }).setOffline).failHeldAccess

theorem timeout (h : Alike x y t s) (r : FaultReason) (p : Nat) {f : State → State}
    (hf : ∀ u v, Alike x y u v → Alike x y (f u) (f v)) : Alike x y (timeout r p f t) (timeout r p f s) := by
  have hreported := (h.report { kind := .arrayTimeout, psec := some p, reason := some r }).modifyPort fun q =>
    { q with consecutive := q.consecutive + 1 }
  have hcount := congrArg ArrayPort.consecutive hreported.port
  unfold Machine.timeout
  dsimp only at hcount ⊢
  rw [hcount]
  split_ifs
  · exact (hreported.report _).enterOffline
  · exact hf _ _ (hreported.abandonOps.freePort.modifyPort fun q => { q with arst := .pulse, arstTimer := 0 })

theorem operationTimeoutTaken (h : Alike x y t s) : Alike x y (operationTimeoutTaken t) (operationTimeoutTaken s) := by
  unfold Machine.operationTimeoutTaken
  rw [h.port]
  split_ifs
  · split
    · exact h.timeout _ _ fun u v huv => huv.issuerTimeout _
    · exact h
  · exact h

theorem suspendTimeoutTaken (h : Alike x y t s) (l : SuspendLimit) :
    Alike x y (suspendTimeoutTaken l t) (suspendTimeoutTaken l s) := by
  unfold Machine.suspendTimeoutTaken
  rw [h.port]
  split_ifs
  · split
    · exact h.timeout _ _ fun u v huv => huv.issuerTimeout _
    · exact h
  · exact h

theorem innerTimeoutTaken (h : Alike x y t s) : Alike x y (innerTimeoutTaken t) (innerTimeoutTaken s) := by
  unfold Machine.innerTimeoutTaken
  rw [h.port]
  split_ifs
  · split
    · exact h.timeout _ _ fun u v huv => (huv.issuerTimeout _).issuerTimeout _
    · exact h
  · exact h

theorem stallExpiryTaken (h : Alike x y t s) : Alike x y (stallExpiryTaken t) (stallExpiryTaken s) := by
  unfold Machine.stallExpiryTaken
  rw [h.stall]
  split
  · exact ((h.setStall none).report _).complete _ _
  · exact h

end Alike

end Sys2Proof.Machine

/-! Settles O45: a select that waits is nothing that the command in hand reads, and is taken as an arrival when the port is
IDLE after the command's own work (R208, R209; log entries 6 and 16). -/

namespace Sys2Proof.Machine

/-! ### Setup commands and time in the two runs -/

namespace Alike

variable {x y : Lines} {t s : State}

/-- The setup port of one run is nothing that the relation sees but by its line. -/
theorem setSetupLeft (h : Alike x y t s) (a : SetupPort) : Alike { x with setup := a } y (t.setSetup a) s := by
  obtain ⟨hmask, rfl, rfl, hsel⟩ := h
  exact ⟨hmask, rfl, rfl, hsel⟩

theorem setSetupRight (h : Alike x y t s) (b : SetupPort) : Alike x { y with setup := b } t (s.setSetup b) := by
  obtain ⟨hmask, rfl, rfl, hsel⟩ := h
  exact ⟨hmask, rfl, rfl, hsel⟩

theorem markRegion (h : Alike x y t s) (r : Nat) : Alike x y (markRegion r t) (markRegion r s) := by
  unfold Machine.markRegion
  rw [h.hasPolicy, h.count]
  split_ifs
  · exact h.updateQueue _ _
  · exact h

theorem markAll (h : Alike x y t s) : Alike x y (markAll t) (markAll s) := by
  unfold Machine.markAll
  rw [h.queues]
  generalize List.range s.queues.length = l
  induction l generalizing t s with
  | nil => exact h
  | cons r l ih => exact ih (h.markRegion r)

theorem takeFlushLevel (h : Alike x y t s) (high : Bool) : Alike x y (takeFlushLevel high t) (takeFlushLevel high s) := by
  have hlevel : Alike x y (t.setMc { t.mc with flushHigh := high }) (s.setMc { s.mc with flushHigh := high }) :=
    ⟨congrArg (fun u : State => u.setMc { u.mc with flushHigh := high }) h.1, h.2⟩
  unfold Machine.takeFlushLevel
  dsimp only
  split_ifs
  · exact hlevel.markAll
  · exact hlevel

theorem refuseStalled (h : Alike x y t s) : Alike x y (refuseStalled t) (refuseStalled s) := by
  unfold Machine.refuseStalled
  rw [h.stall]
  split
  · exact ((h.setStall none).countRefused).complete _ _
  · exact h

theorem enterHolding (h : Alike x y t s) : Alike x y (enterHolding t) (enterHolding s) := by
  have hheld : Alike x y (t.setMc { t.mc with refused := 0, mode := .holding })
      (s.setMc { s.mc with refused := 0, mode := .holding }) :=
    ⟨congrArg (fun u : State => u.setMc { u.mc with refused := 0, mode := .holding }) h.1, h.2⟩
  exact hheld.markAll.refuseStalled

theorem setModeOnly (h : Alike x y t s) (m : Mode) :
    Alike x y (t.setMc { t.mc with mode := m }) (s.setMc { s.mc with mode := m }) :=
  ⟨congrArg (fun u : State => u.setMc { u.mc with mode := m }) h.1, h.2⟩

theorem applyImage (h : Alike x y t s) (im : SetupImage) : Alike x y (applyImage im t) (applyImage im s) := by
  have hcommutes : ∀ u : State, (Machine.applyImage im u).mask = Machine.applyImage im u.mask := fun _ => rfl
  obtain ⟨hmask, rfl, rfl, hsel⟩ := h
  exact ⟨by rw [hcommutes, hcommutes, hmask], rfl, rfl, hsel⟩

theorem addRange (h : Alike x y t s) (p : ProtRange) : Alike x y (addRange p t) (addRange p s) := by
  unfold Machine.addRange
  rw [h.map]
  exact (sim_alike x y).setUpdatePending (h.setMap _)

theorem elapse (h : Alike x y t s) (d : Nat) : Alike { x with setup := (elapse d t).setup }
    { y with setup := (Machine.elapse d s).setup } (Machine.elapse d t) (Machine.elapse d s) := by
  have hcommutes : ∀ u : State, (Machine.elapse d u).mask = (Machine.elapse d u.mask).mask := fun _ => rfl
  obtain ⟨hmask, rfl, rfl, hsel⟩ := h
  exact ⟨by rw [hcommutes, hcommutes s, hmask], rfl, rfl, hsel⟩

end Alike

/-! ### A setup command in the two runs -/

/-- Two states as a move leaves them: neither touches the host port, or the two are alike up to the end of the event. -/
def Paired (x y : Lines) (t s t' s' : State) : Prop :=
  (t'.host = t.host ∧ s'.host = s.host) ∨ ∃ u v, Alike x y u v ∧ t' = finish u ∧ s' = finish v

namespace Alike

variable {x y : Lines} {t s : State}

theorem ends {u v : State} (h : Alike x y u v) : Paired x y t s (finish u) (finish v) := .inr ⟨u, v, h, rfl, rfl⟩

/-- Neither state changes. -/
theorem unchanged : Paired x y t s t s := .inl ⟨rfl, rfl⟩

/-- Each setup command changes the two states alike. -/
theorem runCommand (h : Alike x y t s) (c : SetupCommand) (p : List Byte) :
    Paired x y t s (runCommand c p t).2 (runCommand c p s).2 := by
  have hregions : t.regions = s.regions := h.reads State.regions
  have hspares : t.sparesRefused = s.sparesRefused := h.reads State.sparesRefused
  have hdirect : ∀ n, t.inDirect n = s.inDirect n := fun n => h.reads fun u : State => u.inDirect n
  have hrecords : t.log.records = s.log.records := h.reads fun u : State => u.log.records
  cases c
  case ident => exact unchanged
  case status => exact unchanged
  case faultRead =>
    unfold Machine.runCommand runFaultRead
    dsimp only
    rw [hrecords]
    split
    · exact unchanged
    · exact .inl ⟨rfl, rfl⟩
  case setupRead => exact unchanged
  case remapRead => exact unchanged
  case flush =>
    unfold Machine.runCommand runFlush
    dsimp only
    rw [hregions]
    split_ifs
    · dsimp only; exact h.markAll.ends
    · dsimp only; exact (h.markRegion _).ends
    · exact unchanged
  case purge =>
    unfold Machine.runCommand runPurge
    dsimp only
    rw [hregions]
    split_ifs
    · dsimp only; exact ((sim_alike x y).removeEntries h _ _).ends
    · exact unchanged
  case hold =>
    unfold Machine.runCommand runHold
    dsimp only
    exact h.enterHolding.ends
  case release =>
    unfold Machine.runCommand runRelease
    dsimp only
    exact (h.setModeOnly _).ends
  case setupLoad =>
    unfold Machine.runCommand runSetupLoad
    dsimp only
    rw [hspares]
    generalize validateImage s.sparesRefused p = v
    cases v with
    | invalid reason r => exact unchanged
    | valid im => dsimp only; exact (h.applyImage im).ends
  case setupStore =>
    unfold Machine.runCommand runSetupStore
    dsimp only
    exact ((sim_alike x y).setUpdatePending h).ends
  case protect =>
    unfold Machine.runCommand runProtect
    dsimp only
    rw [h.window, h.map]
    split_ifs
    · exact unchanged
    · exact unchanged
    · exact unchanged
    · dsimp only; exact (h.addRange _).ends
  case sectorErase =>
    unfold Machine.runCommand runSectorErase acceptJob
    dsimp only
    rw [h.engine, h.window, hdirect, h.map]
    split_ifs
    · exact unchanged
    · exact unchanged
    · exact unchanged
    · exact unchanged
    · exact unchanged
    · dsimp only; exact (h.setEngine _).ends
  case arrayClear =>
    unfold Machine.runCommand runArrayClear enterClearing
    dsimp only
    rw [h.engine]
    split_ifs
    · exact unchanged
    · dsimp only; exact (h.setMode _ _).ends

end Alike

/-- What a frame that completes does, by the selection, the transmitter and the buffer. -/
theorem completeFrame_eq (f : SetupFrame) (s : State) : completeFrame f s =
    if s.setup.selection = .none then s
    else if s.setup.dropPart.tx = .quiet then executeFrame f s.setup.dropPart.selection (s.setSetup s.setup.dropPart)
    else if s.setup.dropPart.buffer.isNone then s.setSetup
      { s.setup.dropPart with buffer := some { frame := f, selection := s.setup.dropPart.selection } }
    else s.setSetup s.setup.dropPart := rfl

theorem takeEdge_host (s : State) : (takeEdge s).host = s.host := by unfold takeEdge; split_ifs <;> rfl

theorem takeFramingError_host (s : State) : (takeFramingError s).host = s.host := by
  unfold takeFramingError; split_ifs <;> rfl

theorem startReply_host (s : State) : (startReply s).host = s.host := by unfold startReply; split_ifs <;> rfl

theorem gapTimeoutTaken_host (s : State) : (gapTimeoutTaken s).host = s.host := by
  unfold gapTimeoutTaken; split_ifs <;> rfl

/-! ### A command with and without the select that waits -/

/-- A setup port set to what it is changes nothing. -/
theorem State.setSetup_eq {s : State} {z : SetupPort} (h : s.setup = z) : s = s.setSetup z := by subst h; rfl

/-- `t` is `s` with a select that waits. -/
def Waits (t s : State) : Prop :=
  s.host.select = false ∧ s.host.reselect = false
    ∧ ∃ a, t = s.setHost { s.host with select := a, reselect := true }

/-- Of two effects, neither touches the host port, or both are alike up to the end of the event, which leaves the setup port
the same in both. -/
def Concludes (t s t' s' : State) : Prop :=
  (t'.host = t.host ∧ s'.host = s.host)
    ∨ ∃ x y u v z, Alike x y u v ∧ x.reselect = true ∧ y.reselect = false ∧ x.pins = t.host.pins
        ∧ t' = (finish u).setSetup z ∧ s' = (finish v).setSetup z

/-- What precedes the effects may change all but the host ports. -/
theorem Concludes.after {t s u v t' s' : State} (h : Concludes u v t' s') (ht : u.host = t.host) (hs : v.host = s.host) :
    Concludes t s t' s' := by rwa [Concludes, ← ht, ← hs]

namespace Waits

variable {t s : State}

theorem alike (h : Waits t s) : Alike t.lines s.lines t s := by
  obtain ⟨hselect, hreselect, a, rfl⟩ := h
  exact ⟨rfl, rfl, rfl, by simp [State.lines, hselect]⟩

theorem setSetup (h : Waits t s) (z : SetupPort) : Waits (t.setSetup z) (s.setSetup z) := by
  obtain ⟨hselect, hreselect, a, rfl⟩ := h
  exact ⟨hselect, hreselect, a, rfl⟩

theorem elapse (h : Waits t s) (d : Nat) : Waits (elapse d t) (elapse d s) := by
  obtain ⟨hselect, hreselect, a, rfl⟩ := h
  exact ⟨hselect, hreselect, a, rfl⟩

theorem setup (h : Waits t s) : t.setup = s.setup := by obtain ⟨-, -, a, rfl⟩ := h; rfl

theorem mode (h : Waits t s) : t.mc.mode = s.mc.mode := h.alike.mode

/-- The select that waits is in no reply. -/
theorem reply (h : Waits t s) (c : SetupCommand) (p : List Byte) : (runCommand c p t).1 = (runCommand c p s).1 := by
  obtain ⟨-, -, a, rfl⟩ := h
  have hregions : (s.setHost { s.host with select := a, reselect := true }).regions = s.regions := rfl
  have hwindow : (s.setHost { s.host with select := a, reselect := true }).window = s.window := rfl
  have hdirect : ∀ n, (s.setHost { s.host with select := a, reselect := true }).inDirect n = s.inDirect n := fun _ => rfl
  cases c
  case ident => rfl
  case status => rfl
  case faultRead =>
    cases hrecords : s.log.records with
    | nil => simp [runCommand, runFaultRead, hrecords]
    | cons f fs => simp [runCommand, runFaultRead, hrecords]
  case setupRead => rfl
  case remapRead => rfl
  case flush =>
    rw [runCommand, runCommand, runFlush, runFlush, hregions]
    dsimp only
    split_ifs <;> rfl
  case purge =>
    rw [runCommand, runCommand, runPurge, runPurge, hregions]
    dsimp only
    split_ifs <;> rfl
  case hold => rfl
  case release => rfl
  case setupLoad =>
    rw [runCommand, runCommand, runSetupLoad, runSetupLoad]
    generalize hv : validateImage s.sparesRefused p = v
    rw [show validateImage (s.setHost { s.host with select := a, reselect := true }).sparesRefused p = v from hv]
    cases v <;> rfl
  case setupStore => rfl
  case protect =>
    rw [runCommand, runCommand, runProtect, runProtect, hwindow, State.setHost_map]
    dsimp only
    split_ifs <;> rfl
  case sectorErase =>
    rw [runCommand, runCommand, runSectorErase, runSectorErase, hwindow, hdirect, State.setHost_map,
      State.setHost_engine]
    dsimp only
    split_ifs <;> rfl
  case arrayClear =>
    rw [runCommand, runCommand, runArrayClear, runArrayClear, State.setHost_engine]
    dsimp only
    split_ifs <;> rfl

/-- Neither effect touches the host port. -/
theorem leaves {t' s' : State} (ht : t'.host = t.host) (hs : s'.host = s.host) : Concludes t s t' s' := .inl ⟨ht, hs⟩

/-- Two states that are paired after a move, the setup port then set in both. -/
theorem concludes (h : Waits t s) {t' s' : State} (hpaired : Paired t.lines s.lines t s t' s') (z : SetupPort) :
    Concludes t s (t'.setSetup z) (s'.setSetup z) := by
  obtain ⟨-, hreselect, a, ht⟩ := h
  rcases hpaired with ⟨ht', hs'⟩ | ⟨u, v, huv, rfl, rfl⟩
  · exact leaves ht' hs'
  · have hwaits : t.lines.reselect = true := by rw [ht]; rfl
    exact .inr ⟨t.lines, s.lines, u, v, z, huv, hwaits, hreselect, rfl, rfl, rfl⟩

/-- Two states that are alike after a move, and end their event. -/
theorem ends (h : Waits t s) {u v : State} (huv : Alike t.lines s.lines u v) : Concludes t s (finish u) (finish v) := by
  have hu : (finish u).setup = t.setup := (finish_setup u).trans (congrArg Lines.setup huv.2.1)
  have hv : (finish v).setup = t.setup :=
    ((finish_setup v).trans (congrArg Lines.setup huv.2.2.1)).trans h.setup.symm
  rw [State.setSetup_eq hu, State.setSetup_eq hv]
  exact h.concludes huv.ends _

/-- A reply goes to the setup port alone, and is the same in both. -/
theorem answers (h : Waits t s) (sel : Selection) (r : Reply) {t' s' : State}
    (hpaired : Paired t.lines s.lines t s t' s') (hsetup : t'.setup = t.setup) (hsetup' : s'.setup = s.setup) :
    Concludes t s (answer sel r t') (answer sel r s') := by
  have hsame : t'.setup = s'.setup := hsetup.trans (h.setup.trans hsetup'.symm)
  unfold answer
  split_ifs
  · rw [hsame]
    exact h.concludes hpaired _
  · rw [State.setSetup_eq hsame, State.setSetup_eq (rfl : s'.setup = s'.setup)]
    exact h.concludes hpaired _

theorem executeCommand (h : Waits t s) (c : SetupCommand) (f : SetupFrame) (sel : Selection) :
    Concludes t s (executeCommand c f sel t) (executeCommand c f sel s) := by
  unfold Machine.executeCommand
  dsimp only
  rw [h.mode, h.reply]
  split_ifs
  · exact leaves rfl rfl
  · exact h.answers _ _ Alike.unchanged rfl rfl
  · exact h.answers _ _ Alike.unchanged rfl rfl
  · exact h.answers _ _ (h.alike.runCommand c f.payload) (runCommand_setup _ _ _) (runCommand_setup _ _ _)

theorem executeFrame (h : Waits t s) (f : SetupFrame) (sel : Selection) :
    Concludes t s (executeFrame f sel t) (executeFrame f sel s) := by
  unfold Machine.executeFrame
  split_ifs
  · exact h.answers _ _ Alike.unchanged rfl rfl
  · exact h.answers _ _ Alike.unchanged rfl rfl
  · split
    · exact h.answers _ _ Alike.unchanged rfl rfl
    · exact h.executeCommand _ _ _

theorem completeFrame (h : Waits t s) (f : SetupFrame) : Concludes t s (completeFrame f t) (completeFrame f s) := by
  rw [completeFrame_eq, completeFrame_eq, h.setup]
  split_ifs
  · exact leaves rfl rfl
  · exact (h.setSetup _).executeFrame f _
  · exact leaves rfl rfl
  · exact leaves rfl rfl

theorem endReply (h : Waits t s) : Concludes t s (endReply t) (endReply s) := by
  unfold Machine.endReply
  rw [h.setup]
  split_ifs
  · split
    · exact (h.setSetup _).executeFrame _ _
    · exact leaves rfl rfl
  · exact leaves rfl rfl

theorem takeFrameCharacter (h : Waits t s) (v : Byte) :
    Concludes t s (takeFrameCharacter v t) (takeFrameCharacter v s) := by
  unfold Machine.takeFrameCharacter
  rw [h.setup]
  split_ifs
  · exact leaves rfl rfl
  · exact h.completeFrame _
  · exact leaves rfl rfl

theorem gapTimeoutTaken (h : Waits t s) : Waits (gapTimeoutTaken t) (gapTimeoutTaken s) := by
  unfold Machine.gapTimeoutTaken
  rw [h.setup]
  split_ifs
  · exact h.setSetup _
  · exact h

/-- Every command but those at HCS# has its effect alike in both. -/
theorem effect (h : Waits t s) (c : Instr) (harrival : ∀ p, c ≠ .hostAccessArrival p)
    (hwhile : ∀ p, c ≠ .hostSelectWhileBusy p) (hrelease : c ≠ .hostSelectRelease) :
    Concludes t s (effect c t) (effect c s) := by
  have hstall : t.ticksToStallLimit = s.ticksToStallLimit := h.alike.reads State.ticksToStallLimit
  have hage : ∀ r, t.ticksToAge r = s.ticksToAge r := fun r => h.alike.reads fun u : State => u.ticksToAge r
  have hop : t.ticksToOpLimit = s.ticksToOpLimit := h.alike.reads State.ticksToOpLimit
  have hsuspend : ∀ l, t.ticksToSuspendLimit l = s.ticksToSuspendLimit l := fun l =>
    h.alike.reads fun u : State => u.ticksToSuspendLimit l
  have hinner : t.ticksToInnerLimit = s.ticksToInnerLimit := h.alike.reads State.ticksToInnerLimit
  have hpulse : t.ticksToPulseEnd = s.ticksToPulseEnd := h.alike.reads State.ticksToPulseEnd
  have hgap : t.ticksToGapLimit = s.ticksToGapLimit := by obtain ⟨-, -, a, rfl⟩ := h; rfl
  cases c with
  | hostAccessArrival p => exact absurd rfl (harrival p)
  | hostSelectWhileBusy p => exact absurd rfl (hwhile p)
  | hostSelectRelease => exact absurd rfl hrelease
  | reset => exact leaves rfl rfl
  | resetRelease pins => exact leaves rfl rfl
  | flushLevelChange high => exact h.ends (h.alike.takeFlushLevel high)
  | stsclkRisingEdge => exact leaves (takeEdge_host t) (takeEdge_host s)
  | addressCharacter v => exact leaves rfl rfl
  | framingError => exact leaves (takeFramingError_host t) (takeFramingError_host s)
  | breakDetected => exact leaves rfl rfl
  | gapTimeout =>
    rw [Machine.effect, Machine.effect, hgap]
    have hgone := (h.elapse s.ticksToGapLimit).gapTimeoutTaken
    exact (hgone.ends hgone.alike).after (gapTimeoutTaken_host _) (gapTimeoutTaken_host _)
  | replyStart => exact leaves (startReply_host t) (startReply_host s)
  | replyEnd => exact h.endReply
  | frameCharacter v => exact h.takeFrameCharacter v
  | stallLimitExpiry =>
    rw [Machine.effect, Machine.effect, hstall]
    exact (h.elapse _).ends (h.elapse _).alike.stallExpiryTaken
  | regionAgeLimit r =>
    rw [Machine.effect, Machine.effect, hage]
    exact (h.elapse _).ends (h.elapse _).alike
  | arrayReadEnd w => exact h.ends (h.alike.reportEnd _ _ _)
  | arrayProgramEnd pass => exact h.ends (h.alike.reportEnd _ _ _)
  | arrayEraseEnd pass => exact h.ends (h.alike.reportEraseEnd _)
  | suspendAcknowledgement => exact h.ends h.alike.reportAcknowledgement
  | operationTimeout =>
    rw [Machine.effect, Machine.effect, hop]
    exact (h.elapse _).ends (h.elapse _).alike.operationTimeoutTaken
  | suspendTimeout l =>
    rw [Machine.effect, Machine.effect, hsuspend]
    exact (h.elapse _).ends ((h.elapse _).alike.suspendTimeoutTaken l)
  | innerOperationTimeout =>
    rw [Machine.effect, Machine.effect, hinner]
    exact (h.elapse _).ends (h.elapse _).alike.innerTimeoutTaken
  | arstPulseEnd =>
    rw [Machine.effect, Machine.effect, hpulse]
    exact (h.elapse _).ends (h.elapse _).alike.endPulse
  | _ => exact h.completeFrame _

end Waits

/-- Where the effect without the select ends at an IDLE port, the one with it goes on with the arrival of the select. -/
theorem Concludes.arrival {t s t' s' : State} (h : Concludes t s t' s') (hbusy : s.host.state = .busy)
    (hidle : s'.host.state = .idle) : refresh t' = refresh (settle (arrive t.host.pins s')) := by
  rcases h with ⟨-, hs⟩ | ⟨x, y, u, v, z, huv, hx, hy, hpins, rfl, rfl⟩
  · rw [hs, hbusy] at hidle; simp at hidle
  · have hv : finish v = settle v := finish_eq_settle ((congrArg Lines.reselect huv.2.2.1).trans hy)
    have hsettled := huv.settle
    have hsel : (settle u).host.reselect = true := (congrArg Lines.reselect hsettled.2.1).trans hx
    have hidle' : (settle u).host.state = .idle := by
      rw [hsettled.hostState, ← hv]; exact hidle
    have hu : finish u = settle (arrive t.host.pins (settle u)) := by
      have hp : (settle u).host.pins = t.host.pins := (congrArg Lines.pins hsettled.2.1).trans hpins
      rw [finish, if_pos ⟨hidle', hsel⟩, takeReselect, if_pos ⟨hidle', hsel⟩, hp]
    have harrived := (((hsettled.setSetupRight z).arrive t.host.pins).settle).setSetupLeft z
    rw [hu, hv, harrived.refresh_eq]

/-- With nothing waiting but a select, the end of an event takes it as an arrival. -/
theorem finish_reselect {s : State} (h : s.Idles)
    (hport : s.port.state = .free → s.port.hostClaim = none ∧ s.port.engClaim = none) (hidle : s.host.state = .idle) (hsel : s.host.reselect = true) : finish s = settle (arrive s.host.pins s) := by
  have hgrant : grant s = s := by
    unfold grant
    split_ifs with hfree
    · obtain ⟨hhost, heng⟩ := hport hfree
      rw [hhost, heng]
    · rfl
  rw [finish, h.settle, hgrant, if_pos ⟨hidle, hsel⟩, takeReselect, if_pos ⟨hidle, hsel⟩]

/-- An arrival at an IDLE port, to the end of its event. -/
theorem effect_arrival {s : State} (hidle : s.host.state = .idle) (p : HostPins) :
    effect (.hostAccessArrival p) s = settle (arrive p s) := by
  have hcalm : (arrive p s).host.reselect = false := congrArg Lines.reselect ((Alike.refreshed s).arrive p).2.1
  rw [effect, selectActive, hidle]
  exact finish_eq_settle hcalm

/-- Settles O45: the select that waits is nothing that a command's work reads (`Waits.effect`), so the work ends in the state
without it, and the arrival at the end of the event is the arrival from that state (R208, R209). -/
theorem selectIsReleasedOrWaits : Obligations.SelectIsReleasedOrWaits := by
  refine ⟨fun s hawake hrests hcalm => ⟨fun hdone => ?_, fun hbusy => ?_, fun p hworks => ?_⟩,
    fun s hawake hrests hdone hsel => ?_, fun s t c hawake hbusy hsel harrival hwhile hrelease hreset hstart hexec hidle => ?_⟩
  · obtain ⟨hwork, hdrain, hport, -⟩ := hrests
    rw [exec_awake hawake (by simp) (by simp), effect, selectInactive, hdone]
    have hrests' : (s.setHost { state := .idle, access := none, data := none, herr := false, select := false
                                pins := s.host.pins, reselect := false }).Rests := ⟨hwork, hdrain, hport, by simp⟩
    dsimp only
    rw [hcalm, finish_of_rests hrests']
  · rw [exec_awake hawake (by simp) (by simp), effect, selectInactive, hbusy]
    dsimp only
    rw [← hcalm, finish_of_rests (hrests.setHost (by simp [hbusy]))]
  · have hselect : selectActive p s = s.setHost { s.host with select := true, pins := p, reselect := true } := by
      unfold selectActive
      split
      · next hidle => exact absurd hidle hworks
      · rfl
    have hrests' : (s.setHost { s.host with select := true, pins := p, reselect := true }).Rests := hrests.setHost hworks
    refine ⟨_, exec_awake hawake (by simp) (by simp), ?_, ?_⟩
    · rw [effect, hselect, finish_of_rests hrests']
      simp [State.hwait]
    · rw [effect, hselect, finish_of_rests hrests']
  · have hidles := hrests.idles
    rw [exec_awake hawake (by simp) (by simp), exec_awake (by exact hawake) (by simp) (by simp), effect_arrival (by rfl),
      effect, selectInactive, hdone]
    have hwaits := finish_reselect
      (s := s.setHost { state := .idle, access := none, data := none, herr := false, select := s.host.reselect
                        pins := s.host.pins, reselect := s.host.reselect }) (hidles.host _) hrests.2.2.1 rfl hsel
    dsimp only
    rw [hwaits]
    rfl
  · have hwaits : Waits s (s.setHost { s.host with select := false, reselect := false }) :=
      ⟨rfl, rfl, s.host.select, by rw [← hsel]; rfl⟩
    rw [exec_awake (by exact hawake) hreset hstart] at hexec
    rw [exec_awake hawake hreset hstart]
    obtain rfl := Host.Outcome.next.inj hexec
    have hlast : (effect c (s.setHost { s.host with select := false, reselect := false })).inReset = false :=
      (effect_pending_inReset c _).2.trans hawake
    rw [exec_arrival_refreshed hlast hidle, (hwaits.effect c harrival hwhile hrelease).arrival hbusy hidle]

end Sys2Proof.Machine

/-! The end of an item of the engine (R80, R84, R86, R125): what its last move and the selections after it leave of the
map, the queues, the fault log and the host access. -/

namespace Sys2Proof.Machine

/-! ### What a selection leaves -/

/-- What one selection, or several, leave of the map, the served region, a merge buffer that is not valid, and the progress
of a clear. -/
structure Selected (s t : State) : Prop where
  remap  : t.map.remap = s.map.remap
  bad    : t.map.bad = s.map.bad
  served : t.engine.lastServed = s.engine.lastServed
  merge  : s.engine.mergeValid = false → t.engine.mergeValid = false
  window : t.window = s.window
  clear  : ∀ k, k < s.mc.clearIndex → k < s.window → k < t.mc.clearIndex
  words  : t.engine.merge = s.engine.merge

theorem Selected.trans {s t u : State} (h : Selected s t) (h' : Selected t u) : Selected s u where
  remap := h'.remap.trans h.remap
  bad := h'.bad.trans h.bad
  served := h'.served.trans h.served
  merge hs := h'.merge (h.merge hs)
  window := h'.window.trans h.window
  clear k hk hw := h'.clear k (h.clear k hk hw) (by rw [h.window]; exact hw)
  words := h'.words.trans h.words

/-- A move that leaves all that is at stake. -/
theorem selected_same {s t : State} (hmap : t.map = s.map) (hserved : t.engine.lastServed = s.engine.lastServed)
    (hmerge : t.engine.mergeValid = s.engine.mergeValid) (himage : t.image = s.image) (hmc : t.mc.clearIndex = s.mc.clearIndex)
    (hwords : t.engine.merge = s.engine.merge) : Selected s t where
  remap := by rw [hmap]
  bad := by rw [hmap]
  served := hserved
  merge hs := hmerge.trans hs
  window := by unfold State.window; rw [himage]
  clear k hk _ := by rw [hmc]; exact hk
  words := hwords

theorem Selected.refl (s : State) : Selected s s := selected_same rfl rfl rfl rfl rfl rfl

namespace Selected

variable {s u : State} (h : Selected s u)
include h

theorem setEngine {e : Engine} (hserved : e.lastServed = u.engine.lastServed)
    (hmerge : u.engine.mergeValid = false → e.mergeValid = false) (hwords : e.merge = u.engine.merge) :
    Selected s (u.setEngine e) :=
  h.trans { remap := rfl, bad := rfl, served := hserved, merge := hmerge, window := rfl, clear := fun _ hk _ => hk
            words := hwords }

theorem setCru (c : ControlUnit) : Selected s (u.setCru c) := h.trans (selected_same rfl rfl rfl rfl rfl rfl)
theorem setPort (p : ArrayPort) : Selected s (u.setPort p) := h.trans (selected_same rfl rfl rfl rfl rfl rfl)
theorem report (f : FaultReport) : Selected s (Machine.report f u) := h.trans (selected_same rfl rfl rfl rfl rfl rfl)
theorem gather (r x : Nat) : Selected s (gatherEntries r x u) := h.trans (selected_same rfl rfl rfl rfl rfl rfl)

theorem engineErase (f : Phase) (p : Nat) : Selected s (engineErase f p u) :=
  (h.setEngine (e := { u.engine with phase := f, itemPhys := some p, eraseAttempts := 0 }) rfl id rfl).setPort _

theorem completeClear : Selected s (completeClear u) :=
  h.trans { remap := rfl, bad := rfl, served := rfl, merge := id, window := rfl, clear := fun _ hk _ => hk, words := rfl }

theorem startUpdate : Selected s (startUpdate u) := by
  by_cases hg : generationLimit ≤ u.cru.generation
  · rw [startUpdate_fails hg, controlFailure]
    exact ((h.setCru _).report _).setCru _
  · rw [startUpdate_eq (Nat.not_le.mp hg), startTry]
    refine engineErase (setEngine (setEngine (setCru h _) ?_ ?_ ?_) ?_ ?_ ?_) _ _
    · rfl
    · exact id
    · rfl
    · rfl
    · exact id
    · rfl

theorem startJob : Selected s (startJob u) := by
  unfold Machine.startJob; dsimp only; split_ifs
  · refine engineErase (setEngine h ?_ ?_ ?_) _ _
    · rfl
    · exact id
    · rfl
  · have hover : Selected s (u.jobOver .none) := h.setEngine rfl (fun _ => rfl) rfl
    have hside : HostSide (u.jobOver .none) (endJob .none u) := hostSide_releaseHolds u.engine.sector (u.jobOver .none)
    exact hover.trans (selected_same hside.map (by rw [hside.engine]) (by rw [hside.engine]) hside.image (by rw [hside.mc])
      (by rw [hside.engine]))

theorem startCommit (r : Nat) : Selected s (startCommit r u) := by
  unfold Machine.startCommit; dsimp only
  split
  · refine setEngine (setEngine h ?_ ?_ ?_) ?_ ?_ ?_
    · rfl
    · exact id
    · rfl
    · rfl
    · exact fun _ => rfl
    · rfl
  · split_ifs
    · refine setPort (setEngine (gather (setEngine h ?_ ?_ ?_) _ _) ?_ ?_ ?_) _
      · rfl
      · exact id
      · rfl
      · rfl
      · exact id
      · rfl
    · refine setPort (setEngine (setEngine (gather (setEngine h ?_ ?_ ?_) _ _) ?_ ?_ ?_) ?_ ?_ ?_) _
      · rfl
      · exact id
      · rfl
      · rfl
      · exact id
      · rfl
      · rfl
      · exact fun _ => rfl
      · rfl

end Selected

/-- The next sector to clear is no sector below the progress index. -/
theorem State.lt_nextToClear {s : State} {k : Nat} (hk : k < s.mc.clearIndex) (hw : k < s.window) : k < s.nextToClear := by
  rcases clearStep_cases s with ⟨n, hn, hnw, hlive, hleast⟩ | hdone
  · rw [nextToClear_eq hn hnw hlive hleast]; omega
  · rw [nextToClear_done hdone]; exact hw

theorem selected_startClearStep (s : State) : Selected s (startClearStep s) := by
  have hpassed : Selected s (s.setMc { s.mc with clearIndex := s.nextToClear }) :=
    { remap := rfl, bad := rfl, served := rfl, merge := id, window := rfl, clear := fun _ hk hw => s.lt_nextToClear hk hw
      words := rfl }
  unfold startClearStep; dsimp only; split_ifs
  · exact hpassed.completeClear
  · refine Selected.engineErase (Selected.setEngine hpassed ?_ ?_ ?_) _ _
    · rfl
    · exact id
    · rfl

theorem selected_selectOnce {s t : State} (ht : selectOnce s = some t) : Selected s t := by
  unfold selectOnce at ht
  split_ifs at ht
  · cases ht; exact (Selected.refl s).startUpdate
  · cases ht; exact (Selected.refl s).startJob
  · cases ht; exact selected_startClearStep s
  · obtain ⟨r, -, rfl⟩ := Option.map_eq_some_iff.mp ht
    exact (Selected.refl s).startCommit r

theorem selected_selectItems (n : Nat) (s : State) : Selected s (selectItems n s) := by
  induction n generalizing s with
  | zero => exact .refl s
  | succ n ih =>
    unfold selectItems; split
    · exact (selected_selectOnce ‹_›).trans (ih _)
    · exact .refl s

/-- The end of an event is a number of selections and a grant. -/
theorem selected_settle (s : State) : Selected s (settle s) := by
  have hdrain : Selected s (drain s) := by
    obtain ⟨m, hm⟩ := drain_frame s
    rw [hm]
    exact selected_same rfl rfl rfl rfl rfl rfl
  have hgrant : ∀ u : State, Selected u (grant u) := fun u => by
    obtain ⟨ea, pa, p, rd, hg⟩ := grant_frame u
    rw [hg]
    exact selected_same rfl rfl rfl rfl rfl rfl
  exact (hdrain.trans (selected_selectItems _ _)).trans (hgrant _)

/-- Below the generation limit, with no direct write in progress, the end of an event reports no fault. -/
theorem settle_reportsNone {s : State} (hg : s.cru.generation < generationLimit) (hd : s.port.direct = none) :
    (settle s).log = s.log := by
  have hwork : Work fun t => t.log = s.log ∧ t.cru.generation < generationLimit ∧ t.port.direct.isNone = true :=
    { engine := fun _ _ h => h, reading := fun _ h => h
      port := fun _ _ _ _ hd _ h => ⟨h.1, h.2.1, by rw [State.setPort_port, hd]; exact h.2.2⟩
      failed := fun _ _ _ hg h => absurd h.2.1 (Nat.not_lt.mpr hg)
      gather := fun _ _ _ h => h, map := fun _ _ h => h
      cru := fun _ _ hx h => ⟨h.1, by rw [State.setCru_cru, hx]; exact h.2.1, h.2.2⟩
      control := fun _ _ _ h => h, held := fun _ h => h
      holds := fun x t h => by
        obtain ⟨hlog, hnone⟩ := releaseHolds_log x h.2.2
        exact ⟨hlog.trans h.1, by rw [releaseHolds_cru]; exact h.2.1, hnone⟩ }
  exact (hwork.settle ⟨rfl, hg, by simp [hd]⟩).1

/-! ### The last move of an item -/

/-- The items that a sector of the array can be retired or relocated for. -/
def WorkItem.ofSector (i : WorkItem) : Prop := i = .regionCommit ∨ i = .eraseJob ∨ i = .clearStep

/-- What the last move of an item leaves, before the selections of its event. -/
structure ItemOver (s t : State) (result : JobResult) : Prop where
  remap : t.map.remap = s.map.remap
  bad   : t.map.bad = s.map.bad
  commit : s.engine.item = .regionCommit → t.engine.lastServed = s.engine.itemRegion ∧ t.engine.mergeValid = false
    ∧ t.map = s.map ∧ t.mc = s.mc ∧ t.queues = s.queues
  job   : s.engine.item = .eraseJob →
    t.engine.jobPending = false ∧ t.engine.jobSector = none ∧ t.engine.lastJobResult = result
  clear : s.engine.item = .clearStep →
    s.engine.sector < t.mc.clearIndex ∧ (s.engine.sector < t.window ∨ t.mc.mode = .held)
  asks  : s.cru.updatePending = true → t.cru.updatePending = true
  generation : t.cru.generation = s.cru.generation
  log   : s.port.direct = none → t.log = s.log ∧ t.port.direct = none
  host  : s.reader.state = .idle → s.port.direct = none → t.host = s.host ∧ t.reader.state = .idle
  calm  : t.host.reselect = s.host.reselect
  stall : t.stall = s.stall
  words : t.engine.merge = s.engine.merge

theorem itemOver_endCommit {s : State} (hi : s.engine.item = .regionCommit) (result : JobResult) :
    ItemOver s (endCommit s) result where
  remap := rfl
  bad := rfl
  commit _ := ⟨rfl, rfl, rfl, rfl, rfl⟩
  job h := by simp [hi] at h
  clear h := by simp [hi] at h
  asks h := h
  generation := rfl
  log h := ⟨rfl, h⟩
  host hr _ := ⟨rfl, hr⟩
  calm := rfl
  stall := rfl
  words := rfl

theorem itemOver_endJob {s : State} (hi : s.engine.item = .eraseJob) (result : JobResult) :
    ItemOver s (endJob result s) result := by
  have hside := hostSide_releaseHolds s.engine.sector (s.jobOver result)
  have hlog := fun hd : (s.jobOver result).port.direct.isNone = true => releaseHolds_log s.engine.sector hd
  have hnone := fun (hr : (s.jobOver result).reader.state ≠ .eraseHold) (hd : (s.jobOver result).port.direct.isNone = true) =>
    releaseHolds_none s.engine.sector hr hd
  have hstaged := releaseHolds_staged s.engine.sector (s.jobOver result)
  exact {
    remap := congrArg SectorMap.remap hside.map
    bad := congrArg SectorMap.bad hside.map
    commit := fun h => absurd h (by simp [hi])
    job := fun _ => by
      rw [show (endJob result s).engine = (s.jobOver result).engine from hside.engine]
      exact ⟨rfl, rfl, rfl⟩
    clear := fun h => absurd h (by simp [hi])
    asks := fun h => (congrArg ControlUnit.updatePending hside.cru).trans h
    generation := congrArg ControlUnit.generation hside.cru
    log := fun hd => by
      obtain ⟨hl, hd'⟩ := hlog (by exact Option.isNone_iff_eq_none.mpr hd)
      exact ⟨hl, Option.isNone_iff_eq_none.mp hd'⟩
    host := fun hr hd => by
      rw [show endJob result s = s.jobOver result from
        hnone (by change s.reader.state ≠ .eraseHold; simp [hr]) (by exact Option.isNone_iff_eq_none.mpr hd)]
      exact ⟨rfl, hr⟩
    calm := congrArg Staged.reselect hstaged
    stall := congrArg Staged.stall hstaged
    words := by
      rw [show (endJob result s).engine = (s.jobOver result).engine from hside.engine]
      rfl }

/-- A clear step's end, with the accesses it held: the sector is passed, and no more is changed but by the completion of
the clear. -/
theorem itemOver_endClearStep {s : State} (hi : s.engine.item = .clearStep) (result : JobResult) :
    ItemOver s (endClearStep s) result := by
  obtain ⟨u, ⟨v, hvu, hv⟩, heq⟩ : ∃ u, (∃ v, u = releaseHolds s.engine.sector v
      ∧ v = (s.setEngine s.engine.toIdle).setMc { s.mc with clearIndex := s.engine.sector + 1 })
      ∧ endClearStep s = if u.window ≤ s.engine.sector + 1 then completeClear u else u := ⟨_, ⟨_, rfl, rfl⟩, rfl⟩
  have hkept : v.map = s.map ∧ v.cru = s.cru ∧ v.log = s.log ∧ v.port = s.port ∧ v.host = s.host ∧ v.reader = s.reader
      ∧ v.stall = s.stall ∧ v.mc.clearIndex = s.engine.sector + 1 ∧ v.engine.merge = s.engine.merge := by
    rw [hv]; exact ⟨rfl, rfl, rfl, rfl, rfl, rfl, rfl, rfl, rfl⟩
  clear hv
  obtain ⟨hmap, hcru, hlog, hport, hhost, hreader, hstall, hindex, hwords⟩ := hkept
  have hside : HostSide v u := hvu ▸ hostSide_releaseHolds s.engine.sector v
  have hstaged : u.staged = v.staged := hvu ▸ releaseHolds_staged s.engine.sector v
  have hmap' := hside.map.trans hmap
  have hcru' := hside.cru.trans hcru
  have hindex' : u.mc.clearIndex = s.engine.sector + 1 := by rw [hside.mc, hindex]
  have hwords' : u.engine.merge = s.engine.merge := by rw [hside.engine, hwords]
  have hcalm : u.host.reselect = s.host.reselect :=
    (congrArg Staged.reselect hstaged).trans (congrArg HostPort.reselect hhost)
  have hstall' : u.stall = s.stall := (congrArg Staged.stall hstaged).trans hstall
  have hhost' : s.reader.state = .idle → s.port.direct = none → u.host = s.host ∧ u.reader.state = .idle := fun hr hd => by
    rw [hvu, releaseHolds_none _ (by simp [hreader, hr]) (by simp [hport, hd])]
    exact ⟨hhost, by rw [hreader, hr]⟩
  have hlog' : s.port.direct = none → u.log = s.log ∧ u.port.direct = none := fun hd => by
    obtain ⟨hl, hd'⟩ := releaseHolds_log (s := v) s.engine.sector (by simp [hport, hd])
    rw [← hvu] at hl hd'
    exact ⟨hl.trans hlog, Option.isNone_iff_eq_none.mp hd'⟩
  rw [heq]
  clear heq hside hstaged hvu
  split_ifs with hlast
  · exact { remap := (congrArg SectorMap.remap hmap' : u.map.remap = s.map.remap)
            bad := (congrArg SectorMap.bad hmap' : u.map.bad = s.map.bad)
            commit := fun h => by simp [hi] at h
            job := fun h => by simp [hi] at h
            clear := fun _ => ⟨by change s.engine.sector < u.mc.clearIndex; omega, .inr rfl⟩
            asks := fun _ => rfl
            generation := (congrArg ControlUnit.generation hcru' : u.cru.generation = s.cru.generation)
            log := hlog', host := hhost', calm := hcalm, stall := hstall', words := hwords' }
  · exact { remap := congrArg SectorMap.remap hmap', bad := congrArg SectorMap.bad hmap'
            commit := fun h => by simp [hi] at h
            job := fun h => by simp [hi] at h
            clear := fun _ => ⟨by omega, .inl (by omega)⟩
            asks := fun hp => by rw [hcru', hp]
            generation := by rw [hcru']
            log := hlog', host := hhost', calm := hcalm, stall := hstall', words := hwords' }

/-- The last move of an item that a sector fails or succeeds for. -/
theorem itemOver_endRelocated {s : State} (hi : s.engine.item.ofSector) (result : JobResult) :
    ItemOver s (endRelocated result s) result := by
  unfold endRelocated
  rcases hi with hi | hi | hi <;> rw [hi]
  · exact itemOver_endCommit hi result
  · exact itemOver_endJob hi result
  · exact itemOver_endClearStep hi result

/-! ### To the end of the event -/

/-- The item of `s` has ended in `t`, with the map and the faults as the item's last move found them. -/
structure ItemClosed (s t : State) (result : JobResult) : Prop where
  remap : t.map.remap = s.map.remap
  bad   : t.map.bad = s.map.bad
  ended : s.ItemEnded t result
  map   : s.engine.item = .regionCommit → s.mc.mode ≠ .clearing → t.map = s.map
  asks  : s.cru.updatePending = true →
    t.cru.updatePending = true ∨ t.engine.item = .controlUpdate ∨ generationLimit ≤ s.cru.generation
  records : s.port.direct = none → s.cru.generation < generationLimit → t.log.records = s.log.records
  host  : s.reader.state = .idle → s.port.direct = none → t.host = s.host
  stall : t.stall = s.stall
  contents : s.engine.item = .regionCommit → ∀ r, t.contents r = s.contents r
  words : t.engine.merge = s.engine.merge

/-- The outputs are no part of it. -/
theorem ItemClosed.refreshed {s t : State} {result : JobResult} (h : ItemClosed s t result) :
    ItemClosed s (refresh t) result := by
  obtain ⟨h1, h2, h3, h4, h5, h6, h7, h8, h9, h10⟩ := h
  exact ⟨h1, h2, h3, h4, h5, h6, h7, h8, h9, h10⟩

theorem ItemOver.ended {s u : State} {result : JobResult} (h : ItemOver s u result) : s.ItemEnded (settle u) result := by
  have hsel := selected_settle u
  refine ⟨fun hi => ?_, fun hi => ?_, fun hi => ?_⟩
  · obtain ⟨hserved, hmerge, -⟩ := h.commit hi
    exact ⟨hsel.served.trans hserved, hsel.merge hmerge⟩
  · obtain ⟨hpending, hsector, hresult⟩ := h.job hi
    obtain ⟨hpending', hsector', hresult', -⟩ := settle_jobless hpending
    exact ⟨hpending', hsector'.trans hsector, hresult'.trans hresult⟩
  · obtain ⟨hindex, hw | hheld⟩ := h.clear hi
    · exact hsel.clear _ hindex hw
    · rw [settle_mc (by simp [hheld]), drain_of_mode (by simp [hheld])]
      exact hindex

theorem ItemOver.asked {s u : State} {result : JobResult} (h : ItemOver s u result) (hp : s.cru.updatePending = true) :
    (settle u).cru.updatePending = true ∨ (settle u).engine.item = .controlUpdate
      ∨ generationLimit ≤ s.cru.generation := by
  rcases settle_asksUpdate (h.asks hp) with hp' | ⟨-, hi⟩ | ⟨-, hg⟩
  · exact .inl hp'
  · exact .inr (.inl hi)
  · exact .inr (.inr (by rw [← h.generation]; exact hg))

theorem ItemOver.closed {s u : State} {result : JobResult} (h : ItemOver s u result) (hres : s.host.reselect = false) :
    ItemClosed s (finish u) result := by
  have hsel := selected_settle u
  rw [finish_eq_settle (h.calm.trans hres)]
  refine ⟨hsel.remap.trans h.remap, hsel.bad.trans h.bad, h.ended, fun hi hm => ?_, h.asked, fun hd hg => ?_, fun hr hd => ?_,
    (settle_stall u).trans h.stall, fun hi r => ?_, hsel.words.trans h.words⟩
  · obtain ⟨-, -, hmap, hmc, -⟩ := h.commit hi
    exact (settle_map (by rw [hmc]; exact hm)).trans hmap
  · obtain ⟨hlog, hd'⟩ := h.log hd
    rw [settle_reportsNone (by rw [h.generation]; exact hg) hd', hlog]
  · obtain ⟨hhost, hr'⟩ := h.host hr hd
    exact (settle_host (by simp [hr']) (by simp [(h.log hd).2])).trans hhost
  · obtain ⟨-, -, -, -, hqueues⟩ := h.commit hi
    refine (settle_contents u r).trans ?_
    unfold State.contents State.queue
    rw [hqueues]

end Sys2Proof.Machine

/-! A sector that fails, a spare that fails or passes its trial, and what follows: the next spare, retirement, or no room
(R118, R120 to R127). -/

namespace Sys2Proof.Machine

/-! ### The engine's claim at the end of an event -/

theorem State.EngineGoesOn.granted {s : State} {o : ArrayOp} (h : s.EngineGoesOn o) : finish s = issueOp o (drain s) := by
  have heq := h.finish_eq
  obtain ⟨-, ⟨hfree, hhost, -⟩, hclaim, -⟩ := h
  rw [heq, grant, if_pos (by rw [drain_port]; exact hfree), drain_port, hhost]
  dsimp only
  rw [hclaim]

theorem State.EngineGoesOn.map {s : State} {o : ArrayOp} (h : s.EngineGoesOn o) : (finish s).map = s.map := by
  obtain ⟨m, hm⟩ := drain_frame s
  rw [h.finish_eq, grant_map, hm]
  rfl

/-- An ERASE or a PROGRAM of the engine is counted when it is issued, and no more of the engine changes (R73, R77). -/
theorem issueOp_engine {o : ArrayOp} (ho : o.issuer = .engine) (s : State) : (issueOp o s).engine = match o.kind with
    | .erase => { s.engine with eraseAttempts := s.engine.eraseAttempts + 1 }
    | .program => { s.engine with programAttempts := s.engine.programAttempts + 1 }
    | .read => s.engine := by
  have hcount : (countAttempt o s).engine = match o.kind with
      | .erase => { s.engine with eraseAttempts := s.engine.eraseAttempts + 1 }
      | .program => { s.engine with programAttempts := s.engine.programAttempts + 1 }
      | .read => s.engine := by
    unfold countAttempt
    rw [ho]
    cases o.kind <;> rfl
  rw [← hcount]
  unfold issueOp readIssued
  dsimp only
  split_ifs <;> rfl

theorem State.EngineGoesOn.erases {s : State} {o : ArrayOp} (h : s.EngineGoesOn o) (ho : o.issuer = .engine)
    (hk : o.kind = .erase) :
    (finish s).engine = { s.engine with eraseAttempts := s.engine.eraseAttempts + 1 } ∧ (finish s).port.suspCount = 0 := by
  rw [h.granted, issueOp_engine ho, hk, drain_engine]
  refine ⟨rfl, ?_⟩
  unfold issueOp readIssued
  dsimp only
  split_ifs <;> rfl

theorem State.EngineGoesOn.programs {s : State} {o : ArrayOp} (h : s.EngineGoesOn o) (ho : o.issuer = .engine)
    (hk : o.kind = .program) :
    (finish s).engine = { s.engine with programAttempts := s.engine.programAttempts + 1 } := by
  rw [h.granted, issueOp_engine ho, hk, drain_engine]

/-! ### The map -/

theorem SectorMap.setEntry_remap (m : SectorMap) (x : Nat) (t : Option Nat) : (m.setEntry x t).remap
    = if (m.entryOf x).isSome then m.remap.map fun e => if e.sector = x then { e with target := t } else e
      else m.remap ++ [{ sector := x, target := t }] := by
  unfold SectorMap.setEntry
  split_ifs <;> simp

theorem SectorMap.setEntry_bad (m : SectorMap) (x : Nat) (t : Option Nat) : (m.setEntry x t).bad = m.bad := by
  unfold SectorMap.setEntry; split_ifs <;> rfl

/-- The lowest FREE spare is the one that a trial takes (R118). -/
theorem State.lowestFree_eq {s : State} {k : Nat} (hk : k < s.spareCount) (hfree : s.map.spareState k = .free)
    (hleast : ∀ j < k, s.map.spareState j ≠ .free) : s.lowestFree = some k := by
  unfold State.lowestFree
  rw [List.find?_range_eq_some]
  exact ⟨by simp [hfree], by simpa using hk, fun j hj => by simp [hleast j hj]⟩

theorem State.lowestFree_none {s : State} (h : ∀ k < s.spareCount, s.map.spareState k ≠ .free) : s.lowestFree = none := by
  unfold State.lowestFree
  rw [List.find?_range_eq_none]
  exact fun k hk => by simp [h k hk]

/-! ### A spare that is given up (R123, R124) -/

/-- The bad-spare set with the old spare of a sector, where it had one. -/
def badWith (old : Option Nat) (b : BitVec 32) : BitVec 32 :=
  match old with
  | some j => b ||| BitVec.ofNat 32 (2 ^ j)
  | none => b

/-- The fault log with the report of that spare. -/
def logWith (old : Option Nat) (tick : BitVec 32) (l : FaultLog) : FaultLog :=
  match old with
  | some j => l.take { kind := .spareBad, spare := some j, psec := some (1021 - j) } tick
  | none => l

/-- What the mark of the old spare does, with the update that every change of the map asks for. -/
theorem markOldSpare_eq (old : Option RemapEntry) (s : State) : setUpdatePending (markOldSpare old s)
    = ((s.setMap { s.map with bad := badWith (old.bind (·.target)) s.map.bad }).setLog
        (logWith (old.bind (·.target)) s.msTick s.log)).setCru { s.cru with updatePending := true } := by
  unfold markOldSpare
  cases old.bind (·.target) <;> rfl

/-! ### A write stalled on a sector that is retired (R30, R43) -/

theorem completeAccess_reselect (e : Bool) (d : Option Word) (s : State) :
    (completeAccess e d s).host.reselect = s.host.reselect := by
  unfold completeAccess; split_ifs <;> rfl

/-- Only the queues, the fault log, the stalled write and the host access can change. -/
theorem stalledAfterRetirement_frame (r x : Nat) (s : State) : ∃ q l w h, h.reselect = s.host.reselect
    ∧ stalledAfterRetirement r x s = (((s.setQueues q).setLog l).setStall w).setHost h := by
  have hsame : ∃ q l w h, h.reselect = s.host.reselect ∧ s = (((s.setQueues q).setLog l).setStall w).setHost h :=
    ⟨s.queues, s.log, s.stall, s.host, rfl, rfl⟩
  unfold stalledAfterRetirement
  split
  · next w _ =>
    split_ifs
    · obtain ⟨h, hh⟩ := completeAccess_eq true none (report (refusal .retiredSector (some w.region) w.addr) (s.setStall none))
      have hres := completeAccess_reselect true none
        (report (refusal .retiredSector (some w.region) w.addr) (s.setStall none))
      rw [hh] at hres
      rw [refuseWrite, hh]
      exact ⟨s.queues, _, none, h, hres, rfl⟩
    · unfold stalledMayAppend
      split
      · next w' _ =>
        split_ifs
        · obtain ⟨h, hh⟩ := completeAccess_eq false none ((appendEntry r w'.addr w'.mask w'.data s).setStall none)
          have hres := completeAccess_reselect false none ((appendEntry r w'.addr w'.mask w'.data s).setStall none)
          rw [hh] at hres
          rw [hh]
          exact ⟨(appendEntry r w'.addr w'.mask w'.data s).queues, s.log, none, h, hres, rfl⟩
        · exact hsame
      · exact hsame
  · exact hsame

theorem stalledAfterRetirement_none {s : State} (h : s.stall = none) (r x : Nat) : stalledAfterRetirement r x s = s := by
  unfold stalledAfterRetirement; rw [h]

theorem stalledAfterRetirement_refused {s : State} {w : StalledWrite} {p : HostPins} (hw : s.stall = some w) {x : Nat}
    (hx : sectorOf w.addr = x) (hhost : s.host = HostPort.holds p) (r : Nat) : stalledAfterRetirement r x s
      = ((s.setStall none).setLog (s.log.take (refusal .retiredSector (some w.region) w.addr) s.msTick)).setHost
        (HostPort.presents p none true) := by
  unfold stalledAfterRetirement
  rw [hw]
  dsimp only
  rw [if_pos hx, refuseWrite, completeAccess_held (by exact hhost)]
  rfl

/-! ### The part in a relocation -/

/-- The part when a sector or a spare has failed: in RELOCATE, with the bad-spare set, the fault log and the control record
unit as the failure leaves them. -/
def State.failing (s : State) (x : RunningOp) (bad : BitVec 32) (log : FaultLog) (c : ControlUnit) : State :=
  ((((s.engineEnded x false 0).setEngine { s.engine with phase := .relocate }).setMap { s.map with bad := bad }).setLog
    log).setCru c

/-- The report of a sector whose data is lost with it (R125). -/
def State.retirementReport (s : State) : FaultReport :=
  { kind := .sectorRetired, lsec := some s.engine.sector
    count := if s.engine.item = .regionCommit then s.engine.entryCount + s.waitingIn s.retiringRegion s.engine.sector
      else 0 }

/-- The part when a sector's retirement is through but for the end of its item (R125). -/
def State.retired (s : State) : State :=
  stalledAfterRetirement s.retiringRegion s.engine.sector (setUpdatePending (markOldSpare (s.map.entryOf s.engine.sector)
    (report s.retirementReport (discardSector s.retiringRegion s.engine.sector
      (s.setMap (s.map.setEntry s.engine.sector none))))))

theorem retireSector_eq (s : State) : retireSector s = endRelocated .retired s.retired := rfl

/-- The part before the write stalled on the sector is looked at. -/
def State.discarded (s : State) : State :=
  (((discardSector s.retiringRegion s.engine.sector s).setMap { s.map.setEntry s.engine.sector none with
      bad := badWith ((s.map.entryOf s.engine.sector).bind (·.target)) (s.map.setEntry s.engine.sector none).bad }).setLog
    (logWith ((s.map.entryOf s.engine.sector).bind (·.target)) s.msTick (s.log.take s.retirementReport s.msTick))).setCru
    { s.cru with updatePending := true }

theorem State.retired_eq (s : State) :
    s.retired = stalledAfterRetirement s.retiringRegion s.engine.sector s.discarded := by
  unfold State.retired
  rw [markOldSpare_eq]
  rfl

/-- What a retirement leaves, whatever becomes of a stalled write. -/
structure Retirement (s t : State) : Prop where
  engine : t.engine = s.engine
  remap  : t.map.remap = (s.map.setEntry s.engine.sector none).remap
  bad    : t.map.bad = badWith ((s.map.entryOf s.engine.sector).bind (·.target)) s.map.bad
  cru    : t.cru = { s.cru with updatePending := true }
  port   : t.port = s.port
  reader : t.reader = s.reader
  mc     : t.mc = s.mc
  calm   : t.host.reselect = s.host.reselect

theorem State.discarded_leaves (s : State) : Retirement s s.discarded where
  engine := rfl
  remap := rfl
  bad := by
    rw [← s.map.setEntry_bad s.engine.sector none]
    rfl
  cru := rfl
  port := rfl
  reader := rfl
  mc := rfl
  calm := rfl

theorem Retirement.stalled {s u : State} (hu : Retirement s u) (q : List RegionQueue) (l : FaultLog)
    (w : Option StalledWrite) {h : HostPort} (hres : h.reselect = u.host.reselect) :
    Retirement s ((((u.setQueues q).setLog l).setStall w).setHost h) := by
  obtain ⟨h1, h2, h3, h4, h5, h6, h7, h8⟩ := hu
  exact ⟨h1, h2, h3, h4, h5, h6, h7, hres.trans h8⟩

theorem State.retired_leaves (s : State) : Retirement s s.retired := by
  obtain ⟨q, l, w, h, hres, heq⟩ := stalledAfterRetirement_frame s.retiringRegion s.engine.sector s.discarded
  rw [s.retired_eq, heq]
  exact s.discarded_leaves.stalled q l w hres

/-- With no write stalled, the sector's WAITING entries are gone, and the reports are those of the sector and its old
spare. -/
theorem State.retired_unstalled {s : State} (h : s.stall = none) : s.retired = s.discarded := by
  rw [s.retired_eq, stalledAfterRetirement_none (by exact h)]

theorem State.discarded_queue (s : State) (r : Nat) : s.discarded.queue r = if r = s.retiringRegion then
      (s.queue s.retiringRegion).filter fun e => !(e.waits && sectorOf e.addr == s.engine.sector)
    else s.queue r := keepEntries_queue _ _ s r

/-- A write stalled on the sector is refused. -/
theorem State.retired_stalled {s : State} {w : StalledWrite} {p : HostPins} (hw : s.stall = some w)
    (hx : sectorOf w.addr = s.engine.sector) (hhost : s.host = HostPort.holds p) : s.retired
      = ((s.discarded.setStall none).setLog (s.discarded.log.take (refusal .retiredSector (some w.region) w.addr)
        s.msTick)).setHost (HostPort.presents p none true) := by
  rw [s.retired_eq, stalledAfterRetirement_refused (by exact hw) hx (by exact hhost)]
  rfl

/-! ### To the end of the event -/

/-- An item's fields are all that the end of the item speaks of. -/
theorem State.ItemEnded.congr {s u t : State} {result : JobResult} (h : u.ItemEnded t result)
    (hitem : u.engine.item = s.engine.item) (hregion : u.engine.itemRegion = s.engine.itemRegion)
    (hsector : u.engine.sector = s.engine.sector) : s.ItemEnded t result := by
  unfold State.ItemEnded at h ⊢
  rwa [hitem, hregion, hsector] at h

/-- The retirement of a sector, to the end of its event (R125, R127). -/
structure RetirementSeen (s t : State) (bad : BitVec 32) (log : FaultLog) : Prop where
  words : t.engine.merge = s.engine.merge
  remap : t.map.remap = (s.map.setEntry s.engine.sector none).remap
  bad   : t.map.bad = badWith ((s.map.entryOf s.engine.sector).bind (·.target)) bad
  ended : s.ItemEnded t .retired
  asks  : t.cru.updatePending = true ∨ t.engine.item = .controlUpdate ∨ generationLimit ≤ s.cru.generation
  records : s.stall = none → s.port.direct = none → s.cru.generation < generationLimit → t.log.records
    = (logWith ((s.map.entryOf s.engine.sector).bind (·.target)) s.msTick (log.take s.retirementReport s.msTick)).records
  contents : s.engine.item = .regionCommit → s.stall = none → ∀ r, t.contents r = (if r = s.retiringRegion then
      (s.queue s.retiringRegion).filter fun e => !(e.waits && sectorOf e.addr == s.engine.sector)
    else s.queue r).map Entry.content
  stalled : ∀ w p, s.stall = some w → sectorOf w.addr = s.engine.sector → s.host = HostPort.holds p →
    s.reader.state = .idle → s.port.direct = none → t.stall = none ∧ t.host = HostPort.presents p none true
      ∧ (s.cru.generation < generationLimit → t.log.records
          = ((logWith ((s.map.entryOf s.engine.sector).bind (·.target)) s.msTick
            (log.take s.retirementReport s.msTick)).take (refusal .retiredSector (some w.region) w.addr) s.msTick).records)

/-- For a state of its own, with the bad-spare set and the log as they are there. -/
theorem retireSector_seen {s : State} (hitem : s.engine.item.ofSector) (hres : s.host.reselect = false) :
    RetirementSeen s (refresh (finish (retireSector s))) s.map.bad s.log := by
  have hleaves := s.retired_leaves
  have hunstalled := fun h : s.stall = none => s.retired_unstalled h
  have hstalled := fun w p (hw : s.stall = some w) (hx : sectorOf w.addr = s.engine.sector) (hh : s.host = HostPort.holds p) =>
    s.retired_stalled hw hx hh
  rw [retireSector_eq]
  generalize s.retired = u at hleaves hunstalled hstalled
  obtain ⟨hengine, hremap, hbad, hcru, hport, hreader, -, hcalm⟩ := hleaves
  have hclosed := ((itemOver_endRelocated (by rw [hengine]; exact hitem) .retired).closed (hcalm.trans hres)).refreshed
  generalize refresh (finish (endRelocated .retired u)) = t at hclosed
  have hgen : u.cru.generation = s.cru.generation := by rw [hcru]
  refine ⟨hclosed.words.trans (by rw [hengine]), hclosed.remap.trans hremap, hclosed.bad.trans hbad, ?_, ?_, fun hs hd hg => ?_,
    fun hi hs r => ?_,
    fun w p hw hx hh hr hd => ?_⟩
  · exact hclosed.ended.congr (by rw [hengine]) (by rw [hengine]) (by rw [hengine])
  · rw [← hgen]
    exact hclosed.asks (by rw [hcru])
  · rw [hclosed.records (by rw [hport, hd]) (by rw [hgen]; exact hg), hunstalled hs]
    rfl
  · rw [hclosed.contents (by rw [hengine, hi]) r, hunstalled hs, State.contents, s.discarded_queue]
  · have hu := hstalled w p hw hx hh
    refine ⟨?_, ?_, fun hg => ?_⟩
    · rw [hclosed.stall, hu]; rfl
    · rw [hclosed.host (by rw [hreader, hr]) (by rw [hport, hd]), hu]; rfl
    · rw [hclosed.records (by rw [hport, hd]) (by rw [hgen]; exact hg), hu]
      rfl

end Sys2Proof.Machine

/-! Settles O48: the ends of the engine's ERASEs and PROGRAMs on a sector and on a spare. -/

namespace Sys2Proof.Machine

/-! ### The reports of the engine's operations -/

theorem State.EngineRuns.erase_ends {s : State} {x : RunningOp} (h : s.EngineRuns x) (hk : x.op.kind = .erase)
    (pass : Bool) : exec (.arrayEraseEnd pass) s
      = .next (refresh (finish (engineOpEnd x.op pass 0 (s.engineEnded x pass 0)))) := by
  obtain ⟨hruns, hissuer, -⟩ := h
  rw [exec_arrayEraseEnd hruns hk, issuerEnd_engine hissuer]

theorem State.EngineRuns.program_ends {s : State} {x : RunningOp} (h : s.EngineRuns x) (hk : x.op.kind = .program)
    (pass : Bool) : exec (.arrayProgramEnd pass) s
      = .next (refresh (finish (engineOpEnd x.op pass 0 (s.engineEnded x pass 0)))) := by
  obtain ⟨hruns, hissuer, -⟩ := h
  rw [exec_arrayProgramEnd hruns hk, issuerEnd_engine hissuer]

/-- The engine's next claim goes out in a FREE port (R95). -/
theorem State.EngineRuns.goesOn {s : State} {x : RunningOp} (h : s.EngineRuns x) (pass : Bool) {e : Engine}
    (he : e.phase ≠ .idle) (o : ArrayOp) : (raiseEngineClaim o ((s.engineEnded x pass 0).setEngine e)).EngineGoesOn o :=
  (h.atOpEnd pass 0).goesOn he o

/-! ### A failed attempt that is not the last -/

theorem State.EngineRuns.repeats {s : State} {x : RunningOp} (h : s.EngineRuns x) (hphase : s.engine.phase ≠ .idle) :
    (finish (raiseEngineClaim x.op (s.engineEnded x false 0))).Issues x.op
      ∧ (finish (raiseEngineClaim x.op (s.engineEnded x false 0))).map = s.map
      ∧ (x.op.kind = .program → (finish (raiseEngineClaim x.op (s.engineEnded x false 0))).engine
          = { s.engine with programAttempts := s.engine.programAttempts + 1 })
      ∧ (x.op.kind = .erase → (finish (raiseEngineClaim x.op (s.engineEnded x false 0))).engine
            = { s.engine with eraseAttempts := s.engine.eraseAttempts + 1 }
          ∧ (finish (raiseEngineClaim x.op (s.engineEnded x false 0))).port.suspCount = 0) := by
  have hissuer := h.2.1
  have hgo : (raiseEngineClaim x.op (s.engineEnded x false 0)).EngineGoesOn x.op :=
    h.goesOn false (e := s.engine) hphase x.op
  exact ⟨hgo.issues, hgo.map, fun hk => hgo.programs hissuer hk, fun hk => hgo.erases hissuer hk⟩

theorem engineProgramFail_repeats {s : State} {o : ArrayOp} (hphase : s.engine.phase ≠ .controlWrite)
    (htries : s.engine.programAttempts < 2) : engineProgramFail o s = raiseEngineClaim o s := by
  rw [engineProgramFail, if_neg hphase, if_pos (by exact htries)]

theorem engineEraseFail_repeats {s : State} {o : ArrayOp}
    (hphase : s.engine.phase ∈ [Phase.erase, .relocate, .jobErase, .clearErase]) (htries : s.engine.eraseAttempts < 3) :
    engineEraseFail o s = raiseEngineClaim o s := by
  have hlimit : s.engine.eraseAttempts < eraseTries := htries
  unfold engineEraseFail
  simp only [List.mem_cons, List.not_mem_nil, or_false] at hphase
  rcases hphase with hp | hp | hp | hp <;> rw [hp] <;> exact if_pos hlimit

/-! ### A sector that fails -/

theorem mem_of_sectorItems {s : State} {c : Instr} {x : RunningOp} (h : s.SectorFails c x) : s.engine.item.ofSector := by
  rcases h with ⟨-, -, -, hmem⟩ | ⟨-, -, -, hitem, -⟩
  · simp only [List.mem_cons, List.not_mem_nil, or_false, Prod.mk.injEq] at hmem
    rcases hmem with ⟨-, hi⟩ | ⟨-, hi⟩ | ⟨-, hi⟩
    · exact .inl hi
    · exact .inr (.inl hi)
    · exact .inr (.inr hi)
  · exact .inl hitem

/-- The third failed ERASE of a sector, or the second failed PROGRAM of its word, enters RELOCATE (R76, R78, R79). -/
theorem State.SectorFails.exec {s : State} {c : Instr} {x : RunningOp} (h : s.SectorFails c x) (hruns : s.EngineRuns x) :
    exec c s = .next (refresh (finish (enterRelocate (s.engineEnded x false 0)))) := by
  rcases h with ⟨rfl, hk, htries, hmem⟩ | ⟨rfl, hk, htries, hitem, hphase⟩
  · have hlimit : ¬(s.engineEnded x false 0).engine.eraseAttempts < eraseTries := Nat.not_lt.mpr htries
    have hphase : (s.engineEnded x false 0).engine.phase = .erase ∨ (s.engineEnded x false 0).engine.phase = .jobErase
        ∨ (s.engineEnded x false 0).engine.phase = .clearErase := by
      simp only [List.mem_cons, List.not_mem_nil, or_false, Prod.mk.injEq] at hmem
      rcases hmem with ⟨hp, -⟩ | ⟨hp, -⟩ | ⟨hp, -⟩
      · exact .inl hp
      · exact .inr (.inl hp)
      · exact .inr (.inr hp)
    have hfails : engineEraseFail x.op (s.engineEnded x false 0) = enterRelocate (s.engineEnded x false 0) := by
      unfold engineEraseFail
      rcases hphase with hp | hp | hp <;> rw [hp] <;> exact if_neg hlimit
    rw [hruns.erase_ends hk]
    simp only [engineOpEnd, hk, hfails]
  · have hlimit : ¬(s.engineEnded x false 0).engine.programAttempts < programTries := Nat.not_lt.mpr htries
    have hfails : engineProgramFail x.op (s.engineEnded x false 0) = enterRelocate (s.engineEnded x false 0) := by
      unfold engineProgramFail programExhausted
      rcases hphase with hp | ⟨hp, hpath⟩
      · have hp' : (s.engineEnded x false 0).engine.phase = .writeback := hp
        rw [hp', if_neg (by simp), if_neg hlimit]
      · have hp' : (s.engineEnded x false 0).engine.phase = .program := hp
        have hpath' : (s.engineEnded x false 0).engine.path = some .load := hpath
        rw [hp', if_neg (by simp), if_neg hlimit, hpath']
        exact if_neg (by simp)
    rw [hruns.program_ends hk]
    simp only [engineOpEnd, hk, hfails]

theorem failing_engine (s : State) (x : RunningOp) (bad : BitVec 32) (log : FaultLog) (c : ControlUnit) :
    (s.failing x bad log c).engine = { s.engine with phase := .relocate } := rfl

theorem failing_map (s : State) (x : RunningOp) (bad : BitVec 32) (log : FaultLog) (c : ControlUnit) :
    (s.failing x bad log c).map = { s.map with bad := bad } := rfl

theorem failing_log (s : State) (x : RunningOp) (bad : BitVec 32) (log : FaultLog) (c : ControlUnit) :
    (s.failing x bad log c).log = log := rfl

theorem failing_image (s : State) (x : RunningOp) (bad : BitVec 32) (log : FaultLog) (c : ControlUnit) :
    (s.failing x bad log c).image = s.image := by simp [State.failing, State.engineEnded]

theorem failing_hasRoom (s : State) (x : RunningOp) (bad : BitVec 32) (log : FaultLog) (c : ControlUnit) :
    (s.failing x bad log c).hasRoom
      = ((s.map.entryOf s.engine.sector).isSome || decide (s.map.remap.length < remapLimit)) := by
  rw [State.hasRoom, failing_engine, failing_map]
  rfl

/-- With room in the remap table a spare is tried (R118). -/
theorem enterRelocate_room {s : State} {x : RunningOp} (h : (s.map.entryOf s.engine.sector).isSome = true
    ∨ s.map.remap.length < 64) :
    enterRelocate (s.engineEnded x false 0) = trySpare (s.failing x s.map.bad s.log s.cru) := by
  have hroom : (s.failing x s.map.bad s.log s.cru).hasRoom = true := by
    rw [failing_hasRoom]
    rcases h with h | h <;> simp [h, remapLimit]
  exact if_pos hroom

/-- Without it the data is lost (R126). -/
theorem enterRelocate_noRoom {s : State} {x : RunningOp} (h : s.map.entryOf s.engine.sector = none)
    (hfull : 64 ≤ s.map.remap.length) :
    enterRelocate (s.engineEnded x false 0) = loseData (s.failing x s.map.bad s.log s.cru) := by
  have hroom : ¬(s.failing x s.map.bad s.log s.cru).hasRoom = true := by
    rw [failing_hasRoom]
    rw [h, decide_eq_false (by exact Nat.not_lt.mpr hfull)]
    simp
  exact if_neg hroom

/-! ### A spare that fails -/

/-- The third failed ERASE of a spare on trial, or the second failed PROGRAM of its word (R121, R123). -/
theorem State.SpareFails.exec {s : State} {c : Instr} {x : RunningOp} {i : Nat} (h : s.SpareFails c x i)
    (hruns : s.EngineRuns x) : exec c s = .next (refresh (finish (trySpare (s.failing x
      (s.map.bad ||| BitVec.ofNat 32 (2 ^ i))
      (s.log.take { kind := .spareBad, spare := some i, psec := some (1021 - i) } s.msTick)
      { s.cru with updatePending := true })))) := by
  obtain ⟨⟨hphase, htrial, -⟩, hc⟩ := h
  have hengine : s.engine = { s.engine with phase := .relocate } := by rw [← hphase]
  have hp : (s.engineEnded x false 0).engine.phase = .relocate := hphase
  have htrial' : (s.engineEnded x false 0).engine.spareOnTrial = some i := htrial
  have hfails : spareFails (s.engineEnded x false 0) = trySpare (s.failing x (s.map.bad ||| BitVec.ofNat 32 (2 ^ i))
      (s.log.take { kind := .spareBad, spare := some i, psec := some (1021 - i) } s.msTick)
      { s.cru with updatePending := true }) := by
    rw [spareFails, htrial', State.failing, ← hengine]
    rfl
  rw [← hfails]
  rcases hc with ⟨rfl, hk, htries⟩ | ⟨rfl, hk, htries⟩
  · have hlimit : ¬(s.engineEnded x false 0).engine.eraseAttempts < eraseTries := Nat.not_lt.mpr htries
    rw [hruns.erase_ends hk]
    simp only [engineOpEnd, hk, engineEraseFail, hp, if_neg hlimit]
  · have hlimit : ¬(s.engineEnded x false 0).engine.programAttempts < programTries := Nat.not_lt.mpr htries
    rw [hruns.program_ends hk]
    simp only [engineOpEnd, hk, engineProgramFail, programExhausted, hp, if_neg hlimit]
    rfl

/-! ### The next spare -/

/-- The lowest FREE spare goes on trial with its first ERASE (R118, R119). -/
theorem trySpare_next {s : State} {x : RunningOp} {bad : BitVec 32} {log : FaultLog} {c : ControlUnit} {k : Nat}
    (hruns : s.EngineRuns x) (hfree : (s.failing x bad log c).lowestFree = some k) :
    (finish (trySpare (s.failing x bad log c))).map = { s.map with bad := bad }
      ∧ (finish (trySpare (s.failing x bad log c))).log = log
      ∧ (finish (trySpare (s.failing x bad log c))).engine = { s.engine with
          phase := .relocate, spareOnTrial := some k, cursor := 0, itemPhys := some (1021 - k), eraseAttempts := 1 }
      ∧ (finish (trySpare (s.failing x bad log c))).Issues (engineOp .erase (1021 - k) 0 0) := by
  obtain ⟨-, -, hclaim, harst, hres⟩ := hruns
  have htry : trySpare (s.failing x bad log c) = raiseEngineClaim (engineOp .erase (1021 - k) 0 0)
      ((s.failing x bad log c).setEngine { s.engine with
        phase := .relocate, spareOnTrial := some k, cursor := 0, itemPhys := some (1021 - k), eraseAttempts := 0 }) := by
    rw [trySpare, hfree]; rfl
  have hgo : (raiseEngineClaim (engineOp .erase (1021 - k) 0 0) ((s.failing x bad log c).setEngine { s.engine with
      phase := .relocate, spareOnTrial := some k, cursor := 0, itemPhys := some (1021 - k)
      eraseAttempts := 0 })).EngineGoesOn (engineOp .erase (1021 - k) 0 0) :=
    ⟨Phase.noConfusion, ⟨rfl, hclaim, harst⟩, rfl, hres⟩
  rw [htry]
  exact ⟨hgo.map, hgo.log, (hgo.erases rfl rfl).1, hgo.issues⟩

/-- With none the sector is retired (R125). -/
theorem trySpare_none {s : State} (h : s.lowestFree = none) : trySpare s = retireSector s := by
  rw [trySpare, h]

/-! ### A spare that passes its trial -/

/-- The report of a change of a sector's entry, with the mark of its old spare. -/
theorem markOldSpare_report (old : Option RemapEntry) (f : FaultReport) (m : SectorMap) (s : State) :
    setUpdatePending (markOldSpare old (report f (s.setMap m)))
      = ((s.setMap { m with bad := badWith (old.bind (·.target)) m.bad }).setLog
          (logWith (old.bind (·.target)) s.msTick (s.log.take f s.msTick))).setCru { s.cru with updatePending := true } := by
  rw [markOldSpare_eq]
  rfl

/-- The part with the spare as the sector's home, before the end of the item (R124). -/
def State.remapped (s : State) (i : Nat) : State :=
  setUpdatePending (markOldSpare (s.map.entryOf s.engine.sector) (report
    { kind := .sectorRemapped, lsec := some s.engine.sector, spare := some i
      psec := some ((s.map.translate s.engine.sector).getD s.engine.sector) }
    (s.setMap (s.map.setEntry s.engine.sector (some i)))))

theorem remapTo_eq (i : Nat) (s : State) : remapTo i s = endRelocated .remapped (s.remapped i) := rfl

/-- What the spare's success leaves, to the end of the event. -/
structure RemapSeen (s t : State) (i : Nat) : Prop where
  remap : t.map.remap = (s.map.setEntry s.engine.sector (some i)).remap
  bad   : t.map.bad = badWith ((s.map.entryOf s.engine.sector).bind (·.target)) s.map.bad
  ended : s.ItemEnded t .remapped
  asks  : t.cru.updatePending = true ∨ t.engine.item = .controlUpdate ∨ generationLimit ≤ s.cru.generation
  records : s.port.direct = none → s.cru.generation < generationLimit → t.log.records
    = (logWith ((s.map.entryOf s.engine.sector).bind (·.target)) s.msTick (s.log.take
        { kind := .sectorRemapped, lsec := some s.engine.sector, spare := some i
          psec := some ((s.map.translate s.engine.sector).getD s.engine.sector) } s.msTick)).records

theorem remapTo_seen {s : State} (hitem : s.engine.item.ofSector) (hres : s.host.reselect = false) (i : Nat) :
    RemapSeen s (refresh (finish (remapTo i s))) i := by
  have hleaves : (s.remapped i).engine = s.engine
      ∧ (s.remapped i).map.remap = (s.map.setEntry s.engine.sector (some i)).remap
      ∧ (s.remapped i).map.bad = badWith ((s.map.entryOf s.engine.sector).bind (·.target)) s.map.bad
      ∧ (s.remapped i).cru = { s.cru with updatePending := true } ∧ (s.remapped i).port = s.port
      ∧ (s.remapped i).host = s.host
      ∧ (s.remapped i).log = logWith ((s.map.entryOf s.engine.sector).bind (·.target)) s.msTick (s.log.take
        { kind := .sectorRemapped, lsec := some s.engine.sector, spare := some i
          psec := some ((s.map.translate s.engine.sector).getD s.engine.sector) } s.msTick) := by
    rw [State.remapped, markOldSpare_report]
    refine ⟨?_, ?_, ?_, ?_, ?_, ?_, ?_⟩
    · rfl
    · rfl
    · exact congrArg (badWith _) (s.map.setEntry_bad _ _)
    · rfl
    · rfl
    · rfl
    · rfl
  rw [remapTo_eq]
  generalize s.remapped i = u at hleaves
  obtain ⟨hengine, hremap, hbad, hcru, hport, hhost, hlog⟩ := hleaves
  have hclosed := ((itemOver_endRelocated (by rw [hengine]; exact hitem) .remapped).closed
    (by rw [hhost, hres])).refreshed
  generalize refresh (finish (endRelocated .remapped u)) = t at hclosed
  have hgen : u.cru.generation = s.cru.generation := by rw [hcru]
  refine ⟨hclosed.remap.trans hremap, hclosed.bad.trans hbad, ?_, ?_, fun hd hg => ?_⟩
  · exact hclosed.ended.congr (by rw [hengine]) (by rw [hengine]) (by rw [hengine])
  · rw [← hgen]
    exact hclosed.asks (by rw [hcru])
  · rw [hclosed.records (by rw [hport, hd]) (by rw [hgen]; exact hg), hlog]

/-! ### The image is written (R78, R80, R120) -/

theorem Engine.nextToWrite_eq {e : Engine} {start o : Nat} (hs : start ≤ o) (ho : o < 2048) (hw : e.mergeWord o ≠ 0xFFFF)
    (hleast : ∀ j, start ≤ j → j < o → e.mergeWord j = 0xFFFF) : e.nextToWrite start = some o := by
  unfold Engine.nextToWrite
  rw [List.find?_range_eq_some]
  refine ⟨?_, by simpa [sectorWords] using ho, fun j hj => ?_⟩
  · simpa [hs] using hw
  · by_cases hc : start ≤ j
    · simp [hleast j hc hj]
    · simp [hc]

theorem Engine.nextToWrite_none {e : Engine} {start : Nat} (h : ∀ o, start ≤ o → o < 2048 → e.mergeWord o = 0xFFFF) :
    e.nextToWrite start = none := by
  unfold Engine.nextToWrite
  rw [List.find?_range_eq_none]
  intro o ho
  by_cases hc : start ≤ o
  · simp [h o hc ho]
  · simp [hc]

/-- The words to write are those of the merge buffer alone. -/
theorem Engine.nextToWrite_congr {e f : Engine} (h : e.merge = f.merge) (start : Nat) :
    e.nextToWrite start = f.nextToWrite start := by
  unfold Engine.nextToWrite Engine.mergeWord
  rw [h]

/-- The part when a word or the sector is done and the image is to be written on. -/
def State.writing (s : State) (x : RunningOp) : State :=
  (s.engineEnded x true 0).setEngine
    { s.engine with phase := if s.engine.phase = .relocate then .relocate else .writeback }

theorem State.writing_relocate {s : State} (h : s.engine.phase = .relocate) (x : RunningOp) :
    s.writing x = s.engineEnded x true 0 := by
  have hengine : { s.engine with phase := .relocate } = s.engine := by rw [← h]
  rw [State.writing, if_pos h, hengine]
  rfl

theorem State.writing_commit {s : State} (h : s.engine.phase ≠ .relocate) (x : RunningOp) :
    s.writing x = (s.engineEnded x true 0).setEngine { s.engine with phase := .writeback } := by
  rw [State.writing, if_neg h]

theorem State.writing_writeback {s : State} (h : s.engine.phase = .writeback) (x : RunningOp) :
    s.writing x = s.engineEnded x true 0 := by
  have hengine : { s.engine with phase := .writeback } = s.engine := by rw [← h]
  rw [s.writing_commit (by simp [h]), hengine]
  rfl

theorem State.WritesOn.exec {s : State} {c : Instr} {x : RunningOp} {start : Nat} (h : s.WritesOn c x start)
    (hruns : s.EngineRuns x) : exec c s = .next (refresh (finish (writeImage start (s.writing x)))) := by
  have hphase' : (s.engineEnded x true 0).engine.phase = s.engine.phase := rfl
  have hitem' : (s.engineEnded x true 0).engine.item = s.engine.item := rfl
  obtain ⟨hitem, ⟨rfl, hk, hphase, rfl⟩ | ⟨rfl, hk, hphase, rfl⟩⟩ := h
  · rw [hruns.erase_ends hk]
    rcases hphase with hp | hp
    · rw [s.writing_commit (by simp [hp])]
      simp only [engineOpEnd, hk, engineErasePass, hphase', hp]
      rfl
    · rw [s.writing_relocate hp]
      simp only [engineOpEnd, hk, engineErasePass, hphase', hp, hitem', hitem, if_true]
  · rw [hruns.program_ends hk]
    rcases hphase with hp | hp
    · rw [s.writing_writeback hp]
      simp only [engineOpEnd, hk, engineProgramPass, hphase', hp]
    · rw [s.writing_relocate hp]
      simp only [engineOpEnd, hk, engineProgramPass, hphase', hp]

/-- The next word of the image is programmed, with its first attempt. -/
theorem writeImage_next {s : State} {x : RunningOp} {start o psec : Nat} (hruns : s.EngineRuns x)
    (hphys : s.engine.itemPhys = some psec) (hnext : s.engine.nextToWrite start = some o) :
    (finish (writeImage start (s.writing x))).engine.phase
        = (if s.engine.phase = .relocate then .relocate else .writeback)
      ∧ (finish (writeImage start (s.writing x))).engine.programAttempts = 1
      ∧ (finish (writeImage start (s.writing x))).Issues (engineOp .program psec o (s.engine.mergeWord o)) := by
  have hwrite : writeImage start (s.writing x) = raiseEngineClaim (engineOp .program psec o (s.engine.mergeWord o))
      ((s.engineEnded x true 0).setEngine { s.engine with
        phase := if s.engine.phase = .relocate then .relocate else .writeback, programAttempts := 0 }) := by
    have hnext' : (s.writing x).engine.nextToWrite start = some o :=
      (Engine.nextToWrite_congr (e := (s.writing x).engine) (f := s.engine) rfl start).trans hnext
    have hop : (s.writing x).engine.op .program o ((s.writing x).engine.mergeWord o)
        = engineOp .program psec o (s.engine.mergeWord o) := by
      change engineOp .program (s.engine.itemPhys.getD 0) o (s.engine.mergeWord o) = _
      rw [hphys]; rfl
    unfold writeImage
    rw [hnext']
    dsimp only
    rw [engineProgram, hop]
    rfl
  have hgo := hruns.goesOn true (e := { s.engine with
    phase := if s.engine.phase = .relocate then .relocate else .writeback, programAttempts := 0 })
    (by dsimp only; split_ifs <;> simp) (engineOp .program psec o (s.engine.mergeWord o))
  have hengine := hgo.programs rfl rfl
  rw [hwrite]
  exact ⟨by rw [hengine]; rfl, by rw [hengine]; rfl, hgo.issues⟩

/-- With the image complete, the commit ends on the sector itself. -/
theorem writeImage_done {s : State} {start : Nat} (hphase : s.engine.phase ≠ .relocate)
    (hnone : s.engine.nextToWrite start = none) : writeImage start s = endCommit s := by
  unfold writeImage
  rw [hnone]
  exact if_neg hphase

/-- On a spare, the trial has succeeded. -/
theorem writeImage_spare {s : State} {start : Nat} (hphase : s.engine.phase = .relocate)
    (hnone : s.engine.nextToWrite start = none) : writeImage start s = spareSucceeds s := by
  unfold writeImage
  rw [hnone]
  exact if_pos hphase

/-- The spare on trial passes (R120, R121, R124). -/
theorem State.SparePasses.exec {s : State} {c : Instr} {x : RunningOp} {i : Nat} (h : s.SparePasses c x i)
    (hruns : s.EngineRuns x) : exec c s = .next (refresh (finish (remapTo i (s.engineEnded x true 0)))) := by
  obtain ⟨⟨hphase, htrial, -⟩, ⟨rfl, hk, hitem⟩ | ⟨start, hwrites, hdone⟩⟩ := h
  · have hp : (s.engineEnded x true 0).engine.phase = .relocate := hphase
    have hi : ¬(s.engineEnded x true 0).engine.item = .regionCommit := hitem
    have ht : (s.engineEnded x true 0).engine.spareOnTrial = some i := htrial
    rw [hruns.erase_ends hk]
    simp only [engineOpEnd, hk, engineErasePass, hp, if_neg hi, spareSucceeds, ht]
    rfl
  · have ht : (s.engineEnded x true 0).engine.spareOnTrial = some i := htrial
    have hnone : (s.engineEnded x true 0).engine.nextToWrite start = none :=
      (Engine.nextToWrite_congr (e := (s.engineEnded x true 0).engine) (f := s.engine) rfl start).trans
        (Engine.nextToWrite_none hdone)
    rw [hwrites.exec hruns, s.writing_relocate hphase, writeImage_spare (by exact hphase) hnone, spareSucceeds, ht]
    rfl

/-- The items that a spare is tried for. -/
theorem State.Tries.item {s : State} {i : Nat} (h : s.Tries i) : s.engine.item.ofSector := by
  obtain ⟨-, -, hmem⟩ := h
  simpa only [WorkItem.ofSector, List.mem_cons, List.not_mem_nil, or_false] using hmem

theorem State.retirementReport_eq (s : State) : s.retirementReport = { kind := .sectorRetired, lsec := some s.engine.sector
                                                                       count := if s.engine.item = .regionCommit then
                                                                           s.engine.entryCount + s.waitingIn
                                                                             (s.engine.itemRegion.getD 0) s.engine.sector
                                                                         else 0 } := by
  unfold State.retirementReport State.retiringRegion
  split_ifs <;> rfl

/-! ### The parts of O48 -/

theorem failing_lowestFree (s : State) (x : RunningOp) (bad : BitVec 32) (log : FaultLog) (c : ControlUnit) :
    (s.failing x bad log c).lowestFree = (s.setMap { s.map with bad := bad }).lowestFree := by
  unfold State.lowestFree State.spareCount
  rw [failing_map, failing_image, State.setMap_map, State.setMap_image]

/-- An operation of the engine that ends clears the consecutive timeout count, and no later move of the event raises it; nor
does one touch the flash. -/
theorem engineOpEnd_leaves {s : State} {o : ArrayOp} (ho : o.issuer = .engine) (pass : Bool)
    (hcount : s.port.consecutive = 0) : (finish (engineOpEnd o pass 0 s)).port.consecutive = 0
      ∧ (finish (engineOpEnd o pass 0 s)).flash = s.flash := by
  have hzero : Closed fun t => t.port.consecutive = 0 :=
    { engine := fun _ _ h => h, reading := fun _ h => h
      port := fun _ _ _ hle _ _ h => Nat.le_zero.mp (hle.trans h.le)
      host := fun _ _ h => h, reader := fun _ _ h => h, direct := fun _ _ h => h, stall := fun _ _ h => h
      report := fun _ _ h => h, coalesce := fun _ _ _ _ _ h => h, append := fun _ _ _ _ _ _ h => h
      keep := fun _ _ _ h => h
      mark := fun r s h => by obtain ⟨q, hq⟩ := markRegion_queues r s; rw [hq]; exact h
      gather := fun _ _ _ h => h, map := fun _ _ h => h, cru := fun _ _ h => h, control := fun _ _ _ h => h
      held := fun _ h => h }
  have hhost : o.issuer.ofHost = false := by rw [ho]; rfl
  refine ⟨hzero.finish (hzero.engineOpEnd hcount o hhost pass 0), ?_⟩
  rw [finish_flash]
  exact congrArg Outer.flash ((closed_outer s.outer).engineOpEnd rfl o hhost pass 0)

/-- What an ERASE that has ended leaves of the array (R92). -/
theorem read_ended {b : FlashBank} (hb : b.wf) {o : ArrayOp} (hk : o.kind = .erase) (pass : Bool) (w : Word) (a : Nat) :
    (b.ended o pass w).read a = if a / 2048 = o.psec then
      (if pass then FlashWord.ofWord 0xFFFF else FlashWord.unknown) else b.read a := by
  cases pass with
  | true =>
    have hended : b.ended o true w = b.eraseSector o.psec := by simp only [FlashBank.ended, hk]
    rw [hended, FlashBank.read_eraseSector hb]
    rfl
  | false =>
    have hended : b.ended o false w = b.loseSector o.psec := by simp only [FlashBank.ended, hk]
    rw [hended, FlashBank.read_loseSector]
    rfl

/-- The first half of O48: an ERASE attempt of a commit. -/
theorem commitErase_ends {s : State} {psec : Nat} {x : RunningOp} {pass : Bool} (hruns : s.EngineRuns x)
    (herases : s.ErasesForCommit psec) (hwf : s.flash.wf)
    (hop : x.op = { kind := .erase, psec := psec, offset := 0, value := 0, issuer := .engine }) :
    ∃ t, exec (.arrayEraseEnd pass) s = .next t ∧ t.port.consecutive = 0
      ∧ (∀ a, t.flash.read a = if a / 2048 = psec then
          (if pass then FlashWord.ofWord 0xFFFF else FlashWord.unknown) else s.flash.read a)
      ∧ (∀ o, pass = true → o < 2048 → s.engine.mergeWord o ≠ 0xFFFF → (∀ j < o, s.engine.mergeWord j = 0xFFFF) →
          t.engine.phase = .writeback ∧ t.engine.programAttempts = 1 ∧ t.port.state = .running
            ∧ t.port.op = some { op := { kind := .program, psec := psec, offset := o, value := s.engine.mergeWord o
                                         issuer := .engine }
                                 timer := 0, issued := true })
      ∧ (pass = false → s.engine.eraseAttempts < 3 →
          t.engine = { s.engine with eraseAttempts := s.engine.eraseAttempts + 1 } ∧ t.port.state = .running
            ∧ t.port.suspCount = 0 ∧ t.port.op = some { op := x.op, timer := 0, issued := true })
      ∧ (∀ i, pass = false → 3 ≤ s.engine.eraseAttempts → s.lowestFree = some i →
          ((s.map.entryOf s.engine.sector).isSome = true ∨ s.map.remap.length < 64) →
          t.engine.phase = .relocate ∧ t.engine.spareOnTrial = some i ∧ t.engine.itemPhys = some (1021 - i)
            ∧ t.engine.eraseAttempts = 1 ∧ t.map = s.map ∧ t.port.state = .running
            ∧ t.port.op = some { op := { kind := .erase, psec := 1021 - i, offset := 0, value := 0, issuer := .engine }
                                 timer := 0, issued := true }) := by
  obtain ⟨hphase, hitem, hphys, -⟩ := herases
  have hk : x.op.kind = .erase := by rw [hop]
  have hpsec : x.op.psec = psec := by rw [hop]
  have hexec := hruns.erase_ends hk pass
  obtain ⟨hcount, hflash⟩ := engineOpEnd_leaves hruns.2.1 pass (s := s.engineEnded x pass 0) rfl
  have hsame : ∀ {t : State}, exec (.arrayEraseEnd pass) s = .next t →
      refresh (finish (engineOpEnd x.op pass 0 (s.engineEnded x pass 0))) = t := fun h =>
    Host.Outcome.next.inj (hexec.symm.trans h)
  refine ⟨_, hexec, hcount, fun a => ?_, fun o hp ho hw hleast => ?_, fun hp htries => ?_, fun i hp htries hfree hroom => ?_⟩
  · rw [refresh_flash, hflash]
    change (s.flash.ended x.op pass 0).read a = _
    rw [read_ended hwf hk, hpsec]
  · subst hp
    have hwrites : s.WritesOn (.arrayEraseEnd true) x 0 := ⟨hitem, .inl ⟨rfl, hk, .inl hphase, rfl⟩⟩
    obtain ⟨hph, hattempts, hissues⟩ := writeImage_next hruns hphys
      (Engine.nextToWrite_eq (Nat.zero_le o) ho hw fun j _ hj => hleast j hj)
    rw [hsame (hwrites.exec hruns), refresh_engine, refresh_port]
    exact ⟨hph.trans (by simp [hphase]), hattempts, hissues.1, hissues.2⟩
  · subst hp
    obtain ⟨hissues, -, -, herase⟩ := hruns.repeats (by simp [hphase])
    have hrepeats : engineOpEnd x.op false 0 (s.engineEnded x false 0) = raiseEngineClaim x.op (s.engineEnded x false 0) := by
      simp only [engineOpEnd, hk]
      exact engineEraseFail_repeats (s := s.engineEnded x false 0)
        (by change s.engine.phase ∈ _; simp [hphase]) htries
    rw [hrepeats, refresh_engine, refresh_port]
    exact ⟨(herase hk).1, hissues.1, (herase hk).2, hissues.2⟩
  · subst hp
    have hfails : s.SectorFails (.arrayEraseEnd false) x := .inl ⟨rfl, hk, htries, by simp [hphase, hitem]⟩
    have hfree' : (s.failing x s.map.bad s.log s.cru).lowestFree = some i := by rw [failing_lowestFree]; exact hfree
    obtain ⟨hmap, -, hengine, hissues⟩ := trySpare_next hruns hfree'
    rw [hsame (hfails.exec hruns), enterRelocate_room hroom, refresh_engine, refresh_map, refresh_port, hengine]
    exact ⟨rfl, rfl, rfl, rfl, hmap, hissues.1, hissues.2⟩

/-- What a commit leaves when its image is complete on the sector itself (R80). -/
theorem writeImage_ends {s : State} {x : RunningOp} {start : Nat} (hruns : s.EngineRuns x)
    (hitem : s.engine.item = .regionCommit) (hphase : s.engine.phase ≠ .relocate)
    (hdone : ∀ o, start ≤ o → o < 2048 → s.engine.mergeWord o = 0xFFFF) :
    s.ItemEnded (refresh (finish (writeImage start (s.writing x)))) .none
      ∧ (refresh (finish (writeImage start (s.writing x)))).map.remap = s.map.remap
      ∧ (refresh (finish (writeImage start (s.writing x)))).map.bad = s.map.bad
      ∧ (s.ModeLawful → (refresh (finish (writeImage start (s.writing x)))).map = s.map) := by
  have hnone : (s.writing x).engine.nextToWrite start = none :=
    (Engine.nextToWrite_congr (e := (s.writing x).engine) (f := s.engine) rfl start).trans (Engine.nextToWrite_none hdone)
  have hphase' : (s.writing x).engine.phase ≠ .relocate := by
    rw [s.writing_commit hphase]; exact Phase.noConfusion
  obtain ⟨-, -, -, -, hres⟩ := hruns
  have hclosed := ((itemOver_endCommit (s := s.writing x) hitem .none).closed hres).refreshed
  rw [writeImage_done hphase' hnone]
  refine ⟨hclosed.ended.congr rfl rfl rfl, hclosed.remap, hclosed.bad, fun hlawful => hclosed.map hitem ?_⟩
  obtain ⟨hheld, -⟩ := hlawful
  exact fun hm => (hheld (.inr hm)).2 hitem

/-- What is left where there is no room for the sector in the remap table (R126). -/
theorem loseData_ends {s : State} (hitem : s.engine.item.ofSector) (hres : s.host.reselect = false) :
    (refresh (finish (loseData s))).map.remap = s.map.remap ∧ (refresh (finish (loseData s))).map.bad = s.map.bad
      ∧ s.ItemEnded (refresh (finish (loseData s))) .none
      ∧ (s.port.direct = none → s.cru.generation < generationLimit → (refresh (finish (loseData s))).log.records
        = (s.log.take { kind := .dataLost, lsec := some s.engine.sector, reason := some .tableFull
                        count := if s.engine.item = .regionCommit then s.engine.entryCount else 0 } s.msTick).records) := by
  have hclosed := ((itemOver_endRelocated (s := report
    { kind := .dataLost, lsec := some s.engine.sector, reason := some .tableFull
      count := if s.engine.item = .regionCommit then s.engine.entryCount else 0 } s) hitem .none).closed hres).refreshed
  exact ⟨hclosed.remap, hclosed.bad, hclosed.ended.congr rfl rfl rfl, fun hd hg => hclosed.records hd hg⟩

/-- `u` has all that the ends of an item read as `s` has it, but for the bad-spare set, the fault log and the phase. -/
structure SameItem (s u : State) : Prop where
  engine     : ∃ f, u.engine = { s.engine with phase := f }
  remap      : u.map.remap = s.map.remap
  queues     : u.queues = s.queues
  image      : u.image = s.image
  stall      : u.stall = s.stall
  direct     : u.port.direct = s.port.direct
  generation : u.cru.generation = s.cru.generation
  tick       : u.msTick = s.msTick
  host       : u.host = s.host
  reader     : u.reader = s.reader

theorem sameItem_failing {s : State} {x : RunningOp} {bad : BitVec 32} {log : FaultLog} {c : ControlUnit}
    (hc : c.generation = s.cru.generation) : SameItem s (s.failing x bad log c) where
  engine := ⟨_, failing_engine s x bad log c⟩
  remap := by rw [failing_map]
  queues := by simp [State.failing, State.engineEnded]
  image := by simp [State.failing, State.engineEnded]
  stall := by simp [State.failing, State.engineEnded]
  direct := by simp [State.failing, State.engineEnded]
  generation := hc
  tick := by simp [State.failing, State.engineEnded, State.msTick]
  host := by simp [State.failing, State.engineEnded]
  reader := by simp [State.failing, State.engineEnded]

theorem sameItem_ended (s : State) (x : RunningOp) : SameItem s (s.engineEnded x true 0) where
  engine := ⟨s.engine.phase, by simp [State.engineEnded]⟩
  remap := by simp [State.engineEnded]
  queues := by simp [State.engineEnded]
  image := by simp [State.engineEnded]
  stall := by simp [State.engineEnded]
  direct := by simp [State.engineEnded]
  generation := by simp [State.engineEnded]
  tick := by simp [State.engineEnded, State.msTick]
  host := by simp [State.engineEnded]
  reader := by simp [State.engineEnded]

namespace SameItem

variable {s u : State} (h : SameItem s u)
include h

theorem item : u.engine.item = s.engine.item := by obtain ⟨f, hf⟩ := h.engine; rw [hf]
theorem itemRegion : u.engine.itemRegion = s.engine.itemRegion := by obtain ⟨f, hf⟩ := h.engine; rw [hf]
theorem entryCount : u.engine.entryCount = s.engine.entryCount := by obtain ⟨f, hf⟩ := h.engine; rw [hf]
theorem sector : u.engine.sector = s.engine.sector := by
  obtain ⟨f, hf⟩ := h.engine
  unfold Engine.sector
  rw [hf]
theorem entryOf (x : Nat) : u.map.entryOf x = s.map.entryOf x := by unfold SectorMap.entryOf; rw [h.remap]
theorem setEntry (x : Nat) (v : Option Nat) : (u.map.setEntry x v).remap = (s.map.setEntry x v).remap := by
  rw [SectorMap.setEntry_remap, SectorMap.setEntry_remap, h.entryOf, h.remap]
theorem queue (r : Nat) : u.queue r = s.queue r := by unfold State.queue; rw [h.queues]
theorem retiringRegion : u.retiringRegion = s.retiringRegion := by
  unfold State.retiringRegion State.regionOf State.regions
  rw [h.item, h.itemRegion, h.sector, h.image]
theorem retirementReport : u.retirementReport = s.retirementReport := by
  unfold State.retirementReport State.waitingIn
  rw [h.item, h.entryCount, h.sector, h.retiringRegion, h.queue]

theorem retirementSeen {t : State} {bad : BitVec 32} {log : FaultLog} (hu : RetirementSeen u t bad log) :
    RetirementSeen s t bad log := by
  obtain ⟨hwords, hremap, hbad, hended, hasks, hrecords, hcontents, hstalled⟩ := hu
  obtain ⟨f, hf⟩ := h.engine
  rw [hf] at hwords
  rw [h.sector, h.setEntry] at hremap
  rw [h.sector, h.entryOf] at hbad
  rw [h.generation] at hasks
  rw [h.sector, h.entryOf, h.stall, h.direct, h.generation, h.tick, h.retirementReport] at hrecords
  rw [h.item, h.stall, h.retiringRegion, h.sector, h.queue] at hcontents
  rw [h.sector, h.entryOf, h.stall, h.host, h.reader, h.direct, h.generation, h.tick, h.retirementReport] at hstalled
  refine ⟨hwords, hremap, hbad, hended.congr h.item h.itemRegion h.sector, hasks, hrecords, fun hi hs r => ?_, hstalled⟩
  rw [hcontents hi hs r, h.queue]

theorem translate (x : Nat) : u.map.translate x = s.map.translate x := by unfold SectorMap.translate; rw [h.entryOf]

theorem remapSeen {t : State} {i : Nat} (hbad' : u.map.bad = s.map.bad) (hlog : u.log = s.log) (hu : RemapSeen u t i) :
    RemapSeen s t i := by
  obtain ⟨hremap, hbad, hended, hasks, hrecords⟩ := hu
  rw [h.sector, h.setEntry] at hremap
  rw [h.sector, h.entryOf, hbad'] at hbad
  rw [h.generation] at hasks
  rw [h.sector, h.entryOf, h.direct, h.generation, h.tick, h.translate, hlog] at hrecords
  exact ⟨hremap, hbad, hended.congr h.item h.itemRegion h.sector, hasks, hrecords⟩

end SameItem

/-- A failure that leads on to a spare: of the sector, with room in the table, or of the spare on trial. -/
theorem exec_trySpare {s : State} {c : Instr} {x : RunningOp} {bad : BitVec 32} {log : FaultLog} (hruns : s.EngineRuns x)
    (h : (s.SectorFails c x ∧ ((s.map.entryOf s.engine.sector).isSome = true ∨ s.map.remap.length < 64)
          ∧ bad = s.map.bad ∧ log = s.log)
      ∨ ∃ i, s.SpareFails c x i ∧ bad = s.map.bad ||| BitVec.ofNat 32 (2 ^ i)
          ∧ log = s.log.take { kind := .spareBad, spare := some i, psec := some (1021 - i) } s.msTick) :
    s.engine.item.ofSector ∧ ∃ cu : ControlUnit, cu.generation = s.cru.generation
      ∧ exec c s = .next (refresh (finish (trySpare (s.failing x bad log cu)))) := by
  rcases h with ⟨hfails, hroom, rfl, rfl⟩ | ⟨i, hfails, rfl, rfl⟩
  · refine ⟨mem_of_sectorItems hfails, s.cru, rfl, ?_⟩
    rw [hfails.exec hruns, enterRelocate_room hroom]
  · exact ⟨hfails.1.item, { s.cru with updatePending := true }, rfl, hfails.exec hruns⟩

/-- Settles O48: the attempts that are repeated, the image that is written on, and what follows a failure by the remap table
and the spares. -/
theorem commitEraseEnds : Obligations.CommitEraseEnds := by
  refine ⟨fun s psec x pass hr herases hwf hop hclaim hres harst => ?_, fun s x c hruns => ?_⟩
  · exact commitErase_ends ⟨hr, by rw [hop], hclaim, harst, hres⟩ herases hwf hop
  intro sector entry remap spareBad logOld badOld lost quiet asks
  have hres := hruns.2.2.2.2
  refine ⟨⟨fun hc hk hphase htries => ?_, fun hc hk hphase htries => ?_⟩, fun start psec hwrites hphys => ?_,
    fun hfails hnone hfull => ?_, fun bad log h => ?_, fun i hpasses => ?_⟩
  · subst hc
    have hidle : s.engine.phase ≠ .idle := by rintro hp; simp [hp] at hphase
    have hcontrol : s.engine.phase ≠ .controlWrite := by rintro hp; simp [hp] at hphase
    obtain ⟨hissues, hmap, hprogram, -⟩ := hruns.repeats hidle
    have hrepeats : engineOpEnd x.op false 0 (s.engineEnded x false 0) = raiseEngineClaim x.op (s.engineEnded x false 0) := by
      simp only [engineOpEnd, hk]
      exact engineProgramFail_repeats (s := s.engineEnded x false 0) hcontrol htries
    refine ⟨_, hruns.program_ends hk false, ?_⟩
    rw [hrepeats, refresh_issues, refresh_map, refresh_engine]
    exact ⟨hissues, hmap, hprogram hk⟩
  · subst hc
    have hidle : s.engine.phase ≠ .idle := by rintro hp; simp [hp] at hphase
    obtain ⟨hissues, hmap, -, herase⟩ := hruns.repeats hidle
    have hrepeats : engineOpEnd x.op false 0 (s.engineEnded x false 0) = raiseEngineClaim x.op (s.engineEnded x false 0) := by
      simp only [engineOpEnd, hk]
      exact engineEraseFail_repeats (s := s.engineEnded x false 0) hphase htries
    refine ⟨_, hruns.erase_ends hk false, ?_⟩
    rw [hrepeats, refresh_issues, refresh_map, refresh_engine, refresh_port]
    exact ⟨hissues, hmap, (herase hk).2, (herase hk).1⟩
  · refine ⟨_, hwrites.exec hruns, fun o hs ho hw hleast => ?_, fun hdone hphase => ?_⟩
    · rw [refresh_issues, refresh_engine]
      exact writeImage_next hruns hphys (Engine.nextToWrite_eq hs ho hw hleast)
    · exact writeImage_ends hruns hwrites.1 hphase hdone
  · have hsame := sameItem_failing (s := s) (x := x) (bad := s.map.bad) (log := s.log) (c := s.cru) rfl
    have hclosed := loseData_ends (s := s.failing x s.map.bad s.log s.cru)
      (by rw [hsame.item]; exact mem_of_sectorItems hfails) (by rw [hsame.host]; exact hres)
    refine ⟨_, hfails.exec hruns, ?_⟩
    rw [enterRelocate_noRoom hnone hfull]
    generalize refresh (finish (loseData (s.failing x s.map.bad s.log s.cru))) = t at hclosed
    obtain ⟨hremap, hbad, hended, hrecords⟩ := hclosed
    rw [hsame.direct, hsame.generation, hsame.sector, hsame.item, hsame.entryCount, hsame.tick, failing_log] at hrecords
    exact ⟨hremap.trans hsame.remap, hbad.trans (by rw [failing_map]), hended.congr hsame.item hsame.itemRegion hsame.sector,
      fun hq => hrecords hq.1 hq.2⟩
  · obtain ⟨hitem, cu, hgen, hexec⟩ := exec_trySpare hruns h
    refine ⟨fun k hk hfree hleast => ?_, fun hnone => ?_⟩
    · have hlowest : (s.failing x bad log cu).lowestFree = some k := by
        rw [failing_lowestFree]; exact State.lowestFree_eq (s := s.setMap { s.map with bad := bad }) hk hfree hleast
      obtain ⟨hmap, hlog, hengine, hissues⟩ := trySpare_next hruns hlowest
      refine ⟨_, hexec, ?_⟩
      rw [refresh_map, refresh_records, refresh_engine, refresh_issues, hmap, hlog, hengine]
      exact ⟨rfl, rfl, rfl, rfl, rfl, rfl, rfl, rfl, hissues⟩
    · have hlowest : (s.failing x bad log cu).lowestFree = none := by
        rw [failing_lowestFree]; exact State.lowestFree_none (s := s.setMap { s.map with bad := bad }) hnone
      have hsame := sameItem_failing (s := s) (x := x) (bad := bad) (log := log) hgen
      have hseen := retireSector_seen (s := s.failing x bad log cu) (by rw [hsame.item]; exact hitem)
        (by rw [hsame.host]; exact hres)
      rw [trySpare_none hlowest] at hexec
      refine ⟨_, hexec, ?_⟩
      generalize refresh (finish (retireSector (s.failing x bad log cu))) = t at hseen
      rw [failing_map, failing_log] at hseen
      obtain ⟨-, hremap, hbad, hended, hasks, hrecords, hcontents, hstalled⟩ := hsame.retirementSeen hseen
      rw [s.retirementReport_eq] at hrecords hstalled
      rw [SectorMap.setEntry_remap] at hremap
      refine ⟨hremap, hbad, hended, hasks, fun hs hq => hrecords hs hq.1 hq.2, fun r hi hr hs => ?_,
        fun w p hw hx hh hr hd => ?_⟩
      · have hregion : s.retiringRegion = r := by rw [State.retiringRegion, if_pos hi, hr]; rfl
        rw [hregion] at hcontents
        refine ⟨fun r' hne => ?_, ?_⟩
        · rw [hcontents hi hs r', if_neg hne]; rfl
        · rw [hcontents hi hs r, if_pos rfl]
      · obtain ⟨hstall, hhost, hrec⟩ := hstalled w p hw hx hh hr hd
        exact ⟨hstall, hhost, fun hq => hrec hq.2⟩
  · have hsame := sameItem_ended s x
    have hseen := remapTo_seen (s := s.engineEnded x true 0) (by rw [hsame.item]; exact hpasses.1.item)
      (by rw [hsame.host]; exact hres) i
    refine ⟨_, hpasses.exec hruns, ?_⟩
    generalize refresh (finish (remapTo i (s.engineEnded x true 0))) = t at hseen
    obtain ⟨hremap, hbad, hended, hasks, hrecords⟩ := hsame.remapSeen (by simp [State.engineEnded])
      (by simp [State.engineEnded]) hseen
    rw [SectorMap.setEntry_remap] at hremap
    exact ⟨hremap, hbad, hended, hasks, fun hq => hrecords hq.1 hq.2⟩

end Sys2Proof.Machine

/-! Settles O46: the end of a host READ, and the end of LOAD that has waited for it. -/

namespace Sys2Proof.Machine

/-! ### A host access that has been answered -/

/-- The host's access is answered, no other waits in the part, and the port stands as `p` but for the engine's claim. -/
structure State.Answered (s : State) (h : HostPort) (p : ArrayPort) : Prop where
  host   : s.host = h
  done   : h.state ≠ .busy
  reader : s.reader = { state := .idle, access := none }
  port   : ∃ c, s.port = { p with engClaim := c }
  free   : p.direct = none ∧ p.hostClaim = none

/-- A change of the port that the engine's claims do not meet. -/
structure PortChange (g : ArrayPort → ArrayPort) : Prop where
  claims : ∀ q c, g { q with engClaim := c } = { g q with engClaim := c }
  kept   : ∀ q, (g q).direct = q.direct ∧ (g q).hostClaim = q.hostClaim ∧ (g q).engClaim = q.engClaim

theorem portChange_id : PortChange id := ⟨fun _ _ => rfl, fun _ => ⟨rfl, rfl, rfl⟩⟩

/-- RESUME (R99). -/
def ArrayPort.resumed (q : ArrayPort) : ArrayPort :=
  { q with state := .running, inner := none, suspCount := q.suspCount + 1 }

theorem portChange_resumed : PortChange ArrayPort.resumed := ⟨fun _ _ => rfl, fun _ => ⟨rfl, rfl, rfl⟩⟩

theorem resumeErase_eq (s : State) : resumeErase s = s.setPort s.port.resumed := rfl

/-- After an access is answered, the engine's moves keep what was answered, and a change of the port may come before them or
after. -/
theorem sim_answered (h : HostPort) (p : ArrayPort) {g : ArrayPort → ArrayPort} (hg : PortChange g) :
    Sim fun t s => t = s.setPort (g s.port) ∧ s.Answered h p := by
  have hsame : ∀ {s u : State}, s.Answered h p → u.host = s.host → u.reader = s.reader → u.port = s.port → u.Answered h p :=
    fun hs hhost hreader hport => ⟨hhost.trans hs.host, hs.done, hreader.trans hs.reader, hport ▸ hs.port, hs.free⟩
  refine { core := ?_, setEngine := ?_, setMap := ?_, setCru := ?_, setQueues := ?_, setMode := ?_, unstall := ?_
           report := ?_, complete := ?_, engClaim := ?_, holds := ?_ }
  · rintro _ s ⟨rfl, -⟩
    obtain ⟨hd, hh, he⟩ := hg.kept s.port
    simp [State.core, hd, hh, he]
  · rintro _ s e ⟨rfl, hs⟩; exact ⟨rfl, hsame hs rfl rfl rfl⟩
  · rintro _ s m ⟨rfl, hs⟩; exact ⟨rfl, hsame hs rfl rfl rfl⟩
  · rintro _ s c ⟨rfl, hs⟩; exact ⟨rfl, hsame hs rfl rfl rfl⟩
  · rintro _ s q ⟨rfl, hs⟩; exact ⟨rfl, hsame hs rfl rfl rfl⟩
  · rintro _ s m k ⟨rfl, hs⟩; exact ⟨rfl, hsame hs rfl rfl rfl⟩
  · rintro _ s ⟨rfl, hs⟩; exact ⟨rfl, hsame hs rfl rfl rfl⟩
  · rintro _ s f ⟨rfl, hs⟩; exact ⟨rfl, hsame hs rfl rfl rfl⟩
  · rintro _ s e d ⟨rfl, hs⟩
    have hdone : s.host.state ≠ .busy := by rw [hs.host]; exact hs.done
    rw [completeAccess_not_busy hdone, completeAccess_not_busy (by exact hdone)]
    exact ⟨rfl, hs⟩
  · rintro _ s o ⟨rfl, hs⟩
    obtain ⟨hhost, hdone, hreader, ⟨c, hport⟩, hfree⟩ := hs
    refine ⟨?_, hhost, hdone, hreader, ⟨some o, by simp [raiseEngineClaim, hport]⟩, hfree⟩
    have hclaims := hg.claims s.port (some o)
    simp only [raiseEngineClaim, State.setPort_port, hclaims]
    rfl
  · rintro _ s x ⟨rfl, hs⟩
    obtain ⟨hd, -, -⟩ := hg.kept s.port
    obtain ⟨hhost, hdone, hreader, ⟨c, hport⟩, hdirect, hclaim⟩ := hs
    have hnone : s.port.direct = none := by rw [hport]; exact hdirect
    have hs' := releaseHolds_none (s := s) x (by simp [hreader]) (by simp [hnone])
    have ht' := releaseHolds_none (s := s.setPort (g s.port)) x (by simp [hreader]) (by simp [hd, hnone])
    rw [hs', ht']
    exact ⟨rfl, hhost, hdone, hreader, ⟨c, hport⟩, hdirect, hclaim⟩

namespace State.Answered

variable {s : State} {h : HostPort} {p : ArrayPort} (hs : s.Answered h p)
include hs

theorem endWaitingLoad : (Machine.endWaitingLoad s).Answered h p :=
  ((sim_answered h p portChange_id).endWaitingLoad ⟨rfl, hs⟩).2

theorem selections : (selectItems selectionsPerEvent (drain s)).Answered h p :=
  ((sim_answered h p portChange_id).selections ⟨rfl, hs⟩).2

/-- RESUME before the end of LOAD that has waited is RESUME after it. -/
theorem endWaitingLoad_resumed : resumeErase (Machine.endWaitingLoad s) = Machine.endWaitingLoad (resumeErase s) := by
  rw [resumeErase_eq, resumeErase_eq]
  exact ((sim_answered h p portChange_resumed).endWaitingLoad ⟨rfl, hs⟩).1.symm

/-- The end of the event leaves it answered; the port, unless it is FREE, but for the engine's claim. -/
theorem settled : (settle s).host = h ∧ (settle s).reader = { state := .idle, access := none }
    ∧ (settle s).port.hostClaim = none ∧ (settle s).port.consecutive = p.consecutive
    ∧ (p.state ≠ .free → ∃ c, (settle s).port = { p with engClaim := c }) := by
  obtain ⟨hhost, -, hreader, ⟨c, hport⟩, -, hclaim⟩ := hs.selections
  have hgrant : ∀ u : State, u.reader = { state := .idle, access := none } → (grant u).reader = u.reader := by
    have hissue : ∀ o (u : State), u.reader = { state := .idle, access := none } → (issueOp o u).reader = u.reader := by
      intro o u hu
      have hcount : (countAttempt o u).reader = u.reader := by unfold countAttempt; split <;> rfl
      unfold issueOp readIssued
      dsimp only
      rw [if_neg (by simp [hcount, hu])]
      exact hcount
    intro u hu
    unfold grant
    split_ifs
    · split
      · exact hissue _ u hu
      · split
        · exact hissue _ u hu
        · rfl
    · rfl
  have hkept := portKept_grant (selectItems selectionsPerEvent (drain s))
  rw [settle]
  refine ⟨(grant_host _).trans hhost, (hgrant _ hreader).trans hreader, hkept.claim.trans (by rw [hport]; exact hclaim),
    hkept.consecutive.trans (by rw [hport]), fun hstate => ?_⟩
  rw [grant_busy (by rw [hport]; exact hstate)]
  exact ⟨c, hport⟩

end State.Answered

/-! ### A retirement at the end of LOAD (R60, R125) -/

/-- The release of a region's COMMITTING entries, with the stalled write that it may let in, touches no more than the queues,
that write and its access. -/
theorem releaseAll_frame (r : Nat) (s : State) : ∃ q w h, h.reselect = s.host.reselect
    ∧ releaseAll r s = ((s.setQueues q).setStall w).setHost h := by
  unfold releaseAll removeEntries
  generalize hkept : keepEntries r (fun e => !!e.waits) s = u
  obtain ⟨q, rfl⟩ : ∃ q, u = s.setQueues q := ⟨_, hkept.symm⟩
  unfold stalledMayAppend
  split
  · next w _ =>
    split_ifs
    · obtain ⟨h, hh⟩ := completeAccess_eq false none ((appendEntry r w.addr w.mask w.data (s.setQueues q)).setStall none)
      have hres := completeAccess_reselect false none ((appendEntry r w.addr w.mask w.data (s.setQueues q)).setStall none)
      rw [hh] at hres
      rw [hh]
      exact ⟨(appendEntry r w.addr w.mask w.data (s.setQueues q)).queues, none, h, hres, rfl⟩
    · exact ⟨q, s.stall, s.host, rfl, rfl⟩
  · exact ⟨q, s.stall, s.host, rfl, rfl⟩

/-- The engine at the end of LOAD: the targets in the merge buffer, every gathered entry released (R74). -/
def Engine.loaded (e : Engine) : Engine :=
  { applyGathered e with gathered := (applyGathered e).gathered.map fun g => { g with released := true } }

/-- The part as the end of LOAD leaves it for a sector that is to be relocated. -/
def State.loadedForRelocation (s : State) : State :=
  (releaseAll (s.engine.itemRegion.getD 0) (s.setEngine s.engine.loaded)).setEngine
    { s.engine.loaded with phase := .relocate }

theorem endOfLoad_bound {s : State} (h : s.engine.boundReloc = true) :
    endOfLoad s = if s.loadedForRelocation.hasRoom then trySpare s.loadedForRelocation else loseData s.loadedForRelocation := by
  have hbound : (applyGathered s.engine).boundReloc = true := h
  obtain ⟨q, w, x, -, hrel⟩ := releaseAll_frame (s.engine.itemRegion.getD 0) (s.setEngine s.engine.loaded)
  have hengine : (releaseAll (s.engine.itemRegion.getD 0) (s.setEngine s.engine.loaded)).engine = s.engine.loaded := by
    rw [hrel]; rfl
  unfold endOfLoad
  dsimp only
  rw [if_pos hbound]
  change enterRelocate (releaseAll (s.engine.itemRegion.getD 0) (s.setEngine s.engine.loaded)) = _
  unfold enterRelocate State.loadedForRelocation
  rw [hengine]

theorem loaded_keeps (s : State) : s.loadedForRelocation.map = s.map
    ∧ s.loadedForRelocation.image = s.image
    ∧ s.loadedForRelocation.engine = { s.engine.loaded with phase := .relocate }
    ∧ s.loadedForRelocation.host.reselect = s.host.reselect
    ∧ (s.stall = none → s.loadedForRelocation.stall = none
      ∧ ∀ k, s.loadedForRelocation.queue k = if k = s.engine.itemRegion.getD 0
        then (s.queue (s.engine.itemRegion.getD 0)).filter Entry.waits else s.queue k) := by
  obtain ⟨q, w, x, hres, hrel⟩ := releaseAll_frame (s.engine.itemRegion.getD 0) (s.setEngine s.engine.loaded)
  refine ⟨?_, ?_, rfl, ?_, fun hs => ?_⟩
  · rw [State.loadedForRelocation, hrel]; simp
  · rw [State.loadedForRelocation, hrel]; simp
  · rw [State.loadedForRelocation, hrel]; exact hres
  · have hnot : (fun e : Entry => !!e.waits) = Entry.waits := funext fun e => Bool.not_not _
    have hkept : s.loadedForRelocation = (keepEntries (s.engine.itemRegion.getD 0) Entry.waits
        (s.setEngine s.engine.loaded)).setEngine { s.engine.loaded with phase := .relocate } := by
      rw [State.loadedForRelocation, releaseAll, removeEntries, stalledMayAppend_none _ (by exact hs), hnot]
    rw [hkept]
    refine ⟨hs, fun k => ?_⟩
    exact keepEntries_queue (s.engine.itemRegion.getD 0) Entry.waits (s.setEngine s.engine.loaded) k

/-- With no spare left the end of LOAD of a sector bound for RELOCATE retires it. -/
theorem endOfLoad_retires {s : State} (h : s.loadRetires = true) : endOfLoad s = retireSector s.loadedForRelocation := by
  obtain ⟨hmap, himage, hengine, -, -⟩ := loaded_keeps s
  simp only [State.loadRetires, Bool.and_eq_true] at h
  obtain ⟨⟨hbound, hroom⟩, hnone⟩ := h
  have hroom' : s.loadedForRelocation.hasRoom = true := by
    unfold State.hasRoom at hroom ⊢
    rw [hmap, hengine]
    exact hroom
  have hnone' : s.loadedForRelocation.lowestFree = none := by
    unfold State.lowestFree State.spareCount at hnone ⊢
    rw [hmap, himage]
    exact Option.isNone_iff_eq_none.mp hnone
  rw [endOfLoad_bound hbound, if_pos hroom', trySpare_none hnone']

/-- What such a retirement leaves of the map and the queues. -/
theorem endOfLoad_retired {s : State} (hitem : s.engine.item = .regionCommit) (h : s.loadRetires = true)
    (hres : s.host.reselect = false) : s.Retires (refresh (finish (endOfLoad s)))
      ∧ ∀ r, s.engine.itemRegion = some r → s.stall = none →
        (∀ k, k ≠ r → (refresh (finish (endOfLoad s))).contents k = s.contents k)
        ∧ (refresh (finish (endOfLoad s))).contents r
          = ((s.queue r).filter fun e => e.waits && sectorOf e.addr != s.engine.sector).map Entry.content := by
  obtain ⟨hmap, himage, hengine, hcalm, hunstalled⟩ := loaded_keeps s
  have hfields : s.loadedForRelocation.engine.item = s.engine.item ∧ s.loadedForRelocation.engine.itemRegion
      = s.engine.itemRegion ∧ s.loadedForRelocation.engine.sector = s.engine.sector := by
    rw [hengine]; exact ⟨rfl, rfl, rfl⟩
  rw [endOfLoad_retires h]
  generalize s.loadedForRelocation = v at hmap himage hengine hcalm hunstalled hfields
  obtain ⟨hi, hr, hx⟩ := hfields
  have hseen := retireSector_seen (s := v) (.inl (hi.trans hitem)) (hcalm.trans hres)
  generalize refresh (finish (retireSector v)) = t at hseen
  obtain ⟨-, hremap, -, hended, -, -, hcontents, -⟩ := hseen
  refine ⟨⟨hended.congr hi hr hx, ?_⟩, fun r hregion hs => ?_⟩
  · rw [hremap, hmap, hx, SectorMap.setEntry_remap]
  · obtain ⟨hstall, hqueue⟩ := hunstalled hs
    have hretiring : v.retiringRegion = r := by
      rw [State.retiringRegion, if_pos (hi.trans hitem), hr, hregion]; rfl
    have hgather : s.engine.itemRegion.getD 0 = r := by rw [hregion]; rfl
    rw [hretiring, hx] at hcontents
    rw [hgather] at hqueue
    refine ⟨fun k hk => ?_, ?_⟩
    · rw [hcontents (hi.trans hitem) hstall k, if_neg hk, hqueue, if_neg hk]
      rfl
    · rw [hcontents (hi.trans hitem) hstall r, if_pos rfl, hqueue, if_pos rfl, List.filter_filter]
      congr 2
      funext e
      cases e.waits <;> simp [bne]

/-! ### The end of a host READ -/

/-- The part when a host read has been answered: what is known of the flash, the port, the assembler and the access. -/
def State.readOver (s : State) (b : FlashBank) (q : ArrayPort) (h : HostPort) : State :=
  (((s.setFlash b).setPort q).setReader { state := .idle, access := none }).setHost h

/-- What an access is answered with reads the engine and the queues alone. -/
theorem assemble_congr {s u : State} (hengine : u.engine = s.engine) (hqueues : u.queues = s.queues) (x : ReadAccess)
    (w : Word) : u.assemble x w = s.assemble x w := by
  unfold State.assemble State.overlays State.waitingAt State.committingAt State.queue State.mergeHit
  rw [hengine, hqueues]

/-- The issuer of a host READ is answered with the word as assembled then (R51, R59). -/
theorem hostReadEnd_answers {s : State} {p : HostPins} {x : ReadAccess} (hhost : s.host = HostPort.holds p)
    (hreader : s.reader = { state := .reading, access := some x }) (w : Word) : hostReadEnd w s
      = endWaitingLoad (s.readOver s.flash { s.port with hostClaim := none }
        (HostPort.presents p (some (s.assemble x w)) false)) := by
  have haccess : (s.setPort { s.port with hostClaim := none }).reader.access = some x := by
    rw [State.setPort_reader, hreader]
  unfold hostReadEnd
  dsimp only
  rw [haccess]
  dsimp only
  rw [assemble_congr (s := s) rfl rfl, endRead, completeAccess_held (by exact hhost)]
  rfl

/-- The port in which an answered read leaves the array's side: FREE, or RUNNING the erase that goes on. -/
def ArrayPort.afterRead (q : ArrayPort) : ArrayPort :=
  if q.state = .suspended then { q with consecutive := 0, hostClaim := none, state := .running, inner := none
                                        suspCount := q.suspCount + 1 }
  else { q with state := .free, op := none, inner := none, ackTimer := 0, suspCount := 0, consecutive := 0
                hostClaim := none }

theorem State.Idles.reader {s : State} (h : s.Idles) (x : Reader) : (s.setReader x).Idles := h.congr rfl rfl rfl rfl rfl

/-- The effect of the report, in a RUNNING port and in a suspension. -/
theorem reportEnd_read {s : State} {p : HostPins} {x : ReadAccess} {y : RunningOp} {w : Word} (h : s.Reads p x)
    (hy : y.op = x.op) (hissued : y.issued = true) (hawake : s.inReset = false)
    (hport : (s.port.state = .running ∧ s.port.op = some y) ∨ (s.port.state = .suspended ∧ s.port.inner = some y)) :
    finish (reportEnd .read true w s) = finish (endWaitingLoad (s.readOver (s.flash.ended x.op true w) s.port.afterRead
      (HostPort.presents p (some (s.assemble x w)) false))) := by
  obtain ⟨-, hhost, hreader, hdirect, hclaim⟩ := h
  have hk : y.op.kind = .read := by rw [hy]; rfl
  have hissuer : ∀ u, issuerEnd y.op true w u = hostReadEnd w u := fun u => by rw [hy]; rfl
  rw [← hk]
  rcases hport with ⟨hstate, hop⟩ | ⟨hstate, hinner⟩
  · rw [reportEnd_runs ⟨hawake, hstate, hop, hissued⟩, hissuer, hostReadEnd_answers (s := s.opEnded y true w) hhost hreader,
      assemble_congr (s := s) (u := s.opEnded y true w) rfl rfl, ← hy, ArrayPort.afterRead, if_neg (by simp [hstate])]
    rfl
  · have hanswered : (s.readOver (s.flash.ended y.op true w) { s.port with consecutive := 0, hostClaim := none }
        (HostPort.presents p (some (s.assemble x w)) false)).Answered (HostPort.presents p (some (s.assemble x w)) false)
          { s.port with consecutive := 0, hostClaim := none } :=
      ⟨rfl, by simp [HostPort.presents], rfl, ⟨s.port.engClaim, rfl⟩, hdirect, rfl⟩
    have hends : issuerEnd y.op true w (s.innerEnded y true w) = endWaitingLoad (s.readOver (s.flash.ended y.op true w)
        { s.port with consecutive := 0, hostClaim := none } (HostPort.presents p (some (s.assemble x w)) false)) := by
      rw [hissuer, hostReadEnd_answers (s := s.innerEnded y true w) hhost hreader,
        assemble_congr (s := s) (u := s.innerEnded y true w) rfl rfl]
      rfl
    obtain ⟨-, -, -, ⟨c, hq⟩, -⟩ := hanswered.endWaitingLoad
    rw [reportEnd_suspended hstate hinner hissued]
    dsimp only
    rw [hends, hq, if_neg (by simp), hanswered.endWaitingLoad_resumed, ← hy, ArrayPort.afterRead, if_pos hstate]
    rfl

theorem afterRead_keeps (q : ArrayPort) : q.afterRead.direct = q.direct ∧ q.afterRead.hostClaim = none
    ∧ q.afterRead.engClaim = q.engClaim ∧ q.afterRead.consecutive = 0
    ∧ (q.state = .suspended → q.afterRead.state = .running ∧ q.afterRead.op = q.op ∧ q.afterRead.inner = none
      ∧ q.afterRead.suspCount = q.suspCount + 1) := by
  unfold ArrayPort.afterRead
  split_ifs with h
  · exact ⟨rfl, rfl, rfl, rfl, fun _ => ⟨rfl, rfl, rfl, rfl⟩⟩
  · exact ⟨rfl, rfl, rfl, rfl, fun hs => absurd hs h⟩

theorem readOver_keeps (s : State) (b : FlashBank) (q : ArrayPort) (h : HostPort) :
    (s.readOver b q h).engine = s.engine ∧ (s.readOver b q h).map = s.map ∧ (s.readOver b q h).queues = s.queues
      ∧ (s.readOver b q h).stall = s.stall ∧ (s.readOver b q h).flash = b ∧ (s.readOver b q h).port = q
      ∧ (s.Idles → (s.readOver b q h).Idles) ∧ (s.readOver b q h).image = s.image := by
  refine ⟨?_, ?_, ?_, ?_, ?_, ?_, fun hidles => (((hidles.flash _).port _).reader _).host _, ?_⟩ <;> simp [State.readOver]

/-- Settles O46: the answer, RESUME and the retirement that has waited, by the port in which the READ ran. -/
theorem hostReadReturnsAssembledWord : Obligations.HostReadReturnsAssembledWord := by
  intro s p x y w hreads hy hissued hawake hrests hlawful word hport
  obtain ⟨hdirect', hclaim', heng', hcount', hsuspended'⟩ := afterRead_keeps s.port
  have heffect := reportEnd_read (w := w) hreads hy hissued hawake hport
  have hword : s.assemble x w = word := rfl
  rw [hword] at heffect
  have hbase : (s.readOver (s.flash.ended x.op true w) s.port.afterRead (HostPort.presents p (some word) false)).Answered
      (HostPort.presents p (some word) false) s.port.afterRead :=
    ⟨rfl, by simp [HostPort.presents], rfl, ⟨s.port.afterRead.engClaim, rfl⟩, hdirect'.trans hreads.2.2.2.1, hclaim'⟩
  have hkept := readOver_keeps s (s.flash.ended x.op true w) s.port.afterRead (HostPort.presents p (some word) false)
  refine ⟨_, exec_awake hawake (by simp) (by simp), ?_⟩
  rw [effect, heffect]
  generalize s.readOver _ _ _ = u at hbase hkept
  obtain ⟨hengine, hmap, hqueues, hstall, hflash, hq, hidles, himage⟩ := hkept
  have hcalm : u.host.reselect = false := by rw [hbase.host]; rfl
  have hcalm' : (endWaitingLoad u).host.reselect = false := by rw [hbase.endWaitingLoad.host]; rfl
  have hwaits : u.endOfLoadWaits = s.endOfLoadWaits := by
    unfold State.endOfLoadWaits
    rw [hengine, hq, heng']
  have hqueue : ∀ r, u.queue r = s.queue r := fun r => by unfold State.queue; rw [hqueues]
  obtain ⟨h1, h2, h3, h4, h5⟩ := hbase.endWaitingLoad.settled
  rw [← finish_eq_settle hcalm'] at h1 h2 h3 h4 h5
  rw [refresh_host, refresh_reader, refresh_port]
  refine ⟨h1, h2, h3, h4.trans hcount', fun hno r => ?_, fun hawaits => ?_, fun a => ?_, fun hs => ?_⟩
  · have hnone : endWaitingLoad u = u := if_neg (by rw [hwaits, hno]; simp)
    rw [refresh_contents, hnone, (hidles hrests.idles).finish hcalm]
    unfold State.contents State.queue
    rw [grant_queues, hqueues]
  · obtain ⟨hload, hitem, hretires⟩ := hawaits
    have hsector : u.engine.sector = s.engine.sector := by rw [hengine]
    have hretires' : u.loadRetires = true := by
      unfold State.loadRetires State.hasRoom State.lowestFree State.spareCount at hretires ⊢
      rw [hengine, hmap, himage]
      exact hretires
    have hends : endWaitingLoad u = endOfLoad u := if_pos (by rw [hwaits, hload])
    obtain ⟨⟨hended, hremap⟩, hcontents⟩ := endOfLoad_retired (by rw [hengine, hitem]) hretires' hcalm
    rw [hends]
    rw [hmap, hsector] at hremap
    refine ⟨⟨hended.congr (by rw [hengine]) (by rw [hengine]) hsector, hremap⟩, fun r hr hs => ?_⟩
    obtain ⟨hothers, hown⟩ := hcontents r (by rw [hengine, hr]) (by rw [hstall, hs])
    rw [hqueue, hsector] at hown
    refine ⟨fun k hk => ?_, hown⟩
    rw [hothers k hk, State.contents, State.contents, hqueue]
  · have hflash' : (finish (endWaitingLoad u)).flash = s.flash.ended x.op true w := by
      rw [finish_flash, ← hflash]
      exact congrArg Outer.flash ((closed_outer u.outer).endWaitingLoad rfl)
    rw [refresh_flash, hflash']
    exact (FlashBank.read_write _ _ _ _).trans (by split_ifs with h1 h2 h2 <;> simp_all [FlashWord.ofWord])
  · obtain ⟨hstate, hop, hinner, hsusp⟩ := hsuspended' hs
    obtain ⟨c, hc⟩ := h5 (by simp [hstate])
    rw [hc]
    exact ⟨hstate, hop, hinner, hsusp⟩

end Sys2Proof.Machine

/-! The first parts of O56: the start of a REGION_COMMIT, and the last READ of LOAD. -/

namespace Sys2Proof.Machine

/-! ### The gather (R40, R69, R70) -/

/-- The engine with the entries of a sector gathered. -/
def Engine.gathering (e : Engine) (r x psec : Nat) (gs : List GatheredEntry) : Engine :=
  { e.committing r with itemSector := some x, itemPhys := some psec, gathered := gs, entryCount := gs.length
                        path := some .gather, cursor := 0 }

theorem gatherEntries_queue (r x : Nat) (s : State) (k : Nat) : (gatherEntries r x s).queue k = if k = r then
    (s.queue r).map (fun e => if e.waits && sectorOf e.addr == x then { e with state := .committing } else e)
    else s.queue k := by
  unfold gatherEntries
  rw [updateQueue_queue]
  split_ifs with hk
  · subst hk
    unfold State.queue
    cases s.queues[k]? <;> rfl
  · rfl

theorem gatherEntries_eq (r x : Nat) (s : State) : ∃ q, gatherEntries r x s = s.setQueues q := ⟨_, rfl⟩

/-- The part with the WAITING entries of the sector gathered. -/
def State.gathered (s : State) (r x : Nat) : State :=
  (gatherEntries r x s).setEngine (s.engine.gathering r x ((s.map.translate x).getD x) (s.gatherSet r x))

/-- A REGION_COMMIT of a region that holds a WAITING entry, by the number of entries in the sector. -/
theorem startCommit_gathers {s : State} {r x : Nat} (h : s.gatherSector r = some x) : startCommit r s =
    if (s.gatherSet r x).length ≤ 32 then
      engineRead (((s.gatherSet r x).head?.map fun g => offsetOf g.addr).getD 0) (s.gathered r x)
    else enterLoad (s.gathered r x) := by
  have hsector : (s.setEngine (s.engine.committing r)).gatherSector r = some x := h
  rw [startCommit_eq, gatherStart, hsector]
  rfl

/-- The first part of O56. -/
theorem startCommit_seen {s : State} {r : Nat} {e : Entry} (he : (s.queue r).find? Entry.waits = some e) :
    let x := sectorOf e.addr
    let n := (s.queue r).countP fun e => e.waits && sectorOf e.addr == x
    let t := startCommit r s
    t.queue r = (s.queue r).map (fun e =>
        if e.state = .waiting ∧ sectorOf e.addr = x then { e with state := .committing } else e)
      ∧ (∀ r', r' ≠ r → t.queue r' = s.queue r') ∧ (∀ r', t.marked r' = s.marked r')
      ∧ t.engine.item = .regionCommit ∧ t.engine.itemRegion = some r ∧ t.engine.itemSector = some x
      ∧ t.engine.itemPhys = some ((s.map.translate x).getD x) ∧ t.engine.entryCount = n
      ∧ t.engine.gathered = ((s.queue r).filter fun e => e.waits && sectorOf e.addr == x).map (fun e =>
          { addr := e.addr, data := e.data, mask := e.mask, old := none, differs := false, released := false })
      ∧ (if n ≤ 32 then t.engine.phase = .gather ∧ t.engine.path = some .gather
          else t.engine.phase = .load ∧ t.engine.path = some .load ∧ t.engine.mergeSector = some x)
      ∧ t = { s with queues := t.queues, engine := t.engine, port := { s.port with engClaim := t.port.engClaim } } := by
  intro x n t
  have hsector : s.gatherSector r = some x := by rw [State.gatherSector, he]; rfl
  have hlength : (s.gatherSet r x).length = n := by
    rw [State.gatherSet, List.length_map, ← List.countP_eq_length_filter]
  have hqueue : ∀ k, (gatherEntries r x s).queue k = if k = r then (s.queue r).map (fun e =>
      if e.state = .waiting ∧ sectorOf e.addr = x then { e with state := .committing } else e) else s.queue k := fun k => by
    rw [gatherEntries_queue]
    simp only [Entry.waits, Bool.and_eq_true, beq_iff_eq]
  have hmarked := fun k => gatherEntries_marked r x k s
  obtain ⟨q, hq⟩ := gatherEntries_eq r x s
  have hstart : t = if n ≤ 32 then engineRead (((s.gatherSet r x).head?.map fun g => offsetOf g.addr).getD 0) (s.gathered r x)
      else enterLoad (s.gathered r x) := by
    rw [← hlength]; exact startCommit_gathers hsector
  clear_value t
  subst hstart
  unfold State.gathered
  rw [hq] at hqueue hmarked ⊢
  split_ifs with hn
  · refine ⟨(hqueue r).trans (if_pos rfl), fun k hk => (hqueue k).trans (if_neg hk), hmarked, rfl, rfl, rfl, rfl, hlength, rfl,
      ⟨rfl, rfl⟩, rfl⟩
  · refine ⟨(hqueue r).trans (if_pos rfl), fun k hk => (hqueue k).trans (if_neg hk), hmarked, rfl, rfl, rfl, rfl, hlength, rfl,
      ⟨rfl, rfl, rfl⟩, rfl⟩

/-! ### The merge buffer at the end of LOAD (R74) -/

/-- The gathered entries with the words they were loaded over. -/
def Engine.withWords (e : Engine) : List GatheredEntry :=
  e.gathered.map fun g => if g.released then { g with differs := false } else g.withOld (e.mergeWord (offsetOf g.addr))

/-- One entry's target in the merge buffer. -/
def mergeTarget (m : Vector Word 2048) (g : GatheredEntry) : Vector Word 2048 :=
  if g.released then m else m.setIfInBounds (offsetOf g.addr) g.target

theorem loaded_merge (e : Engine) : e.loaded.merge = e.withWords.foldl mergeTarget e.merge := rfl

theorem offsetOf_lt (a : HostAddr) : offsetOf a < 2048 := by
  unfold offsetOf
  omega

theorem mergeTarget_other {m : Vector Word 2048} {g : GatheredEntry} {o : Nat}
    (h : g.released = true ∨ offsetOf g.addr ≠ o) : (mergeTarget m g)[o]? = m[o]? := by
  unfold mergeTarget
  split_ifs with hr
  · rfl
  · rw [Vector.getElem?_setIfInBounds]
    rcases h with h | h
    · exact absurd h hr
    · rw [if_neg h]

theorem foldl_mergeTarget_other {gs : List GatheredEntry} {o : Nat}
    (h : ∀ g ∈ gs, g.released = true ∨ offsetOf g.addr ≠ o) (m : Vector Word 2048) :
    (gs.foldl mergeTarget m)[o]? = m[o]? := by
  induction gs generalizing m with
  | nil => rfl
  | cons g gs ih =>
    rw [List.foldl_cons, ih fun x hx => h x (List.mem_cons_of_mem g hx)]
    exact mergeTarget_other (h g List.mem_cons_self)

/-- Where every entry of an offset has the same target, the merge buffer holds it. -/
theorem foldl_mergeTarget_at {gs : List GatheredEntry} {o : Nat} {v : Word} (ho : o < 2048)
    (hall : ∀ g ∈ gs, g.released = false → offsetOf g.addr = o → g.target = v)
    (hsome : ∃ g ∈ gs, g.released = false ∧ offsetOf g.addr = o) (m : Vector Word 2048) :
    (gs.foldl mergeTarget m)[o]? = some v := by
  induction gs generalizing m with
  | nil => obtain ⟨g, hg, -⟩ := hsome; simp at hg
  | cons g gs ih =>
    rw [List.foldl_cons]
    by_cases hlater : ∃ x ∈ gs, x.released = false ∧ offsetOf x.addr = o
    · exact ih (fun x hx => hall x (List.mem_cons_of_mem g hx)) hlater _
    · have hothers : ∀ x ∈ gs, x.released = true ∨ offsetOf x.addr ≠ o := fun x hx => by
        by_contra hne
        obtain ⟨hr, hoff⟩ := not_or.mp hne
        exact hlater ⟨x, hx, by simpa using hr, by simpa using hoff⟩
      obtain ⟨y, hy, hr, hoff⟩ := hsome
      have hyg : y = g := by
        rcases List.mem_cons.mp hy with rfl | hmem
        · rfl
        · exact absurd ⟨y, hmem, hr, hoff⟩ hlater
      subst hyg
      rw [foldl_mergeTarget_other hothers, mergeTarget, if_neg (by simp [hr]), Vector.getElem?_setIfInBounds, hoff,
        if_pos rfl, if_pos ho, hall y List.mem_cons_self hr hoff]

theorem mem_withWords {e : Engine} {x : GatheredEntry} : x ∈ e.withWords ↔ ∃ g ∈ e.gathered,
    x = if g.released then { g with differs := false } else g.withOld (e.mergeWord (offsetOf g.addr)) := by
  unfold Engine.withWords
  rw [List.mem_map]
  exact exists_congr fun g => and_congr_right fun _ => eq_comm

/-- An entry that is still to be programmed, over the word that it was loaded over. -/
theorem withWords_left {e : Engine} {x : GatheredEntry} (hx : x ∈ e.withWords) (hr : x.released = false) :
    ∃ g ∈ e.gathered, g.released = false ∧ x = g.withOld (e.mergeWord (offsetOf g.addr)) := by
  obtain ⟨g, hg, heq⟩ := mem_withWords.mp hx
  split_ifs at heq with hgr
  · rw [heq, hgr] at hr; exact absurd hr (by simp)
  · exact ⟨g, hg, by simpa using hgr, heq⟩

/-- A word that no entry is left for is as loaded. -/
theorem loaded_mergeWord {e : Engine} {o : Nat} (h : ∀ g ∈ e.gathered, g.released = false → offsetOf g.addr ≠ o) :
    e.loaded.mergeWord o = e.mergeWord o := by
  unfold Engine.mergeWord
  rw [loaded_merge, foldl_mergeTarget_other]
  intro x hx
  by_cases hr : x.released = true
  · exact .inl hr
  · obtain ⟨g, hg, hgr, heq⟩ := withWords_left hx (by simpa using hr)
    rw [heq]
    exact .inr (h g hg hgr)

/-- The word of an entry that is alone at its address is its target. -/
theorem loaded_target {e : Engine} {g : GatheredEntry} (hg : g ∈ e.gathered) (hr : g.released = false)
    (halone : ∀ g' ∈ e.gathered, g'.released = false → offsetOf g'.addr = offsetOf g.addr → g' = g) :
    e.loaded.mergeWord (offsetOf g.addr) = overlay g.mask g.data (e.mergeWord (offsetOf g.addr)) := by
  have hat : (e.withWords.foldl mergeTarget e.merge)[offsetOf g.addr]?
      = some (overlay g.mask g.data (e.mergeWord (offsetOf g.addr))) := by
    refine foldl_mergeTarget_at (offsetOf_lt g.addr) (fun x hx hxr hoff => ?_) ⟨g.withOld (e.mergeWord (offsetOf g.addr)),
      mem_withWords.mpr ⟨g, hg, by rw [hr]; rfl⟩, hr, rfl⟩ _
    obtain ⟨g', hg', hr', rfl⟩ := withWords_left hx hxr
    rw [halone g' hg' hr' hoff]
    rfl
  unfold Engine.mergeWord at hat ⊢
  rw [loaded_merge, hat]
  rfl

/-- An entry is infeasible over the words as loaded. -/
theorem applyGathered_infeasible (e : Engine) : (applyGathered e).someInfeasible = true
    ↔ ∃ g ∈ e.gathered, g.released = false ∧ feasible g.mask g.data (e.mergeWord (offsetOf g.addr)) = false := by
  change (e.withWords.any fun g => !g.released && !feasible g.mask g.data (g.old.getD 0)) = true ↔ _
  rw [List.any_eq_true]
  constructor
  · rintro ⟨x, hx, hinf⟩
    rw [Bool.and_eq_true, Bool.not_eq_true', Bool.not_eq_true'] at hinf
    obtain ⟨g, hg, hr, rfl⟩ := withWords_left hx hinf.1
    exact ⟨g, hg, hr, hinf.2⟩
  · rintro ⟨g, hg, hr, hinf⟩
    refine ⟨g.withOld (e.mergeWord (offsetOf g.addr)), mem_withWords.mpr ⟨g, hg, by rw [hr]; rfl⟩, ?_⟩
    rw [Bool.and_eq_true, Bool.not_eq_true', Bool.not_eq_true']
    exact ⟨hr, hinf⟩

/-- The offsets that a PROGRAM is left for. -/
def Engine.differsAt (e : Engine) (o : Nat) : Prop := ∃ g ∈ e.gathered, g.released = false ∧ offsetOf g.addr = o
  ∧ overlay g.mask g.data (e.mergeWord (offsetOf g.addr)) ≠ e.mergeWord o

theorem loaded_differs (e : Engine) (o : Nat) :
    (e.loaded.gathered.any fun g => g.differs && offsetOf g.addr == o) = true ↔ e.differsAt o := by
  change ((e.withWords.map fun g => { g with released := true }).any fun g => g.differs && offsetOf g.addr == o) = true ↔ _
  rw [List.any_map, List.any_eq_true]
  simp only [Function.comp_apply, Bool.and_eq_true, beq_iff_eq]
  constructor
  · rintro ⟨x, hx, hdiffers, hoff⟩
    obtain ⟨g, hg, heq⟩ := mem_withWords.mp hx
    split_ifs at heq with hr
    · rw [heq] at hdiffers; exact absurd hdiffers (by simp)
    · subst heq
      refine ⟨g, hg, by simpa using hr, hoff, ?_⟩
      rw [← hoff]
      simpa [GatheredEntry.withOld, targetWord] using hdiffers
  · rintro ⟨g, hg, hr, hoff, hne⟩
    refine ⟨g.withOld (e.mergeWord (offsetOf g.addr)), mem_withWords.mpr ⟨g, hg, by rw [hr]; rfl⟩, ?_, hoff⟩
    rw [← hoff] at hne
    simpa [GatheredEntry.withOld, targetWord] using hne

/-- Whether any PROGRAM is left at all. -/
theorem applyGathered_changed (e : Engine) :
    ((applyGathered e).gathered.any fun g => !g.released && g.differs) = true ↔ ∃ o, o < 2048 ∧ e.differsAt o := by
  change (e.withWords.any fun g => !g.released && g.differs) = true ↔ _
  rw [List.any_eq_true]
  simp only [Bool.and_eq_true, Bool.not_eq_true']
  constructor
  · rintro ⟨x, hx, hr, hdiffers⟩
    obtain ⟨g, hg, hgr, rfl⟩ := withWords_left hx hr
    refine ⟨offsetOf g.addr, offsetOf_lt _, g, hg, hgr, rfl, ?_⟩
    simpa [GatheredEntry.withOld, targetWord] using hdiffers
  · rintro ⟨o, -, g, hg, hr, hoff, hne⟩
    refine ⟨g.withOld (e.mergeWord (offsetOf g.addr)), mem_withWords.mpr ⟨g, hg, by rw [hr]; rfl⟩, hr, ?_⟩
    rw [← hoff] at hne
    simpa [GatheredEntry.withOld, targetWord] using hne

end Sys2Proof.Machine

/-! The second and third parts of O56: the last READ of LOAD, with and without a read of the sector that waits. -/

namespace Sys2Proof.Machine

theorem State.EngineGoesOn.contents {s : State} {o : ArrayOp} (h : s.EngineGoesOn o) (r : Nat) :
    (finish s).contents r = s.contents r := by
  obtain ⟨m, hm⟩ := drain_frame s
  unfold State.contents State.queue
  rw [h.finish_eq, grant_queues, hm]
  rfl

/-! ### What is left to program (R75, R76) -/

theorem Engine.nextToProgram_eq {e : Engine} {start o : Nat} (hs : start ≤ o) (ho : o < 2048)
    (hd : (e.gathered.any fun g => g.differs && offsetOf g.addr == o) = true)
    (hleast : ∀ j, start ≤ j → j < o → ¬(e.gathered.any fun g => g.differs && offsetOf g.addr == j) = true) :
    e.nextToProgram start = some o := by
  unfold Engine.nextToProgram
  rw [List.find?_range_eq_some]
  refine ⟨by rw [hd]; simpa using hs, by simpa [sectorWords] using ho, fun j hj => ?_⟩
  by_cases hc : start ≤ j
  · rw [Bool.eq_false_iff.mpr (hleast j hc hj), Bool.and_false]; rfl
  · simp [hc]

theorem Engine.nextToProgram_none {e : Engine} {start : Nat}
    (h : ∀ o, start ≤ o → o < 2048 → ¬(e.gathered.any fun g => g.differs && offsetOf g.addr == o) = true) :
    e.nextToProgram start = none := by
  unfold Engine.nextToProgram
  rw [List.find?_range_eq_none]
  intro o ho
  by_cases hc : start ≤ o
  · rw [Bool.eq_false_iff.mpr (h o hc ho), Bool.and_false]; rfl
  · simp [hc]

theorem Engine.nextToProgram_congr {e f : Engine} (h : e.gathered = f.gathered) (start : Nat) :
    e.nextToProgram start = f.nextToProgram start := by
  unfold Engine.nextToProgram
  rw [h]

/-! ### The part at the end of an operation of the engine -/

/-- The engine's claim goes out from this state. -/
structure State.Clear (s : State) : Prop where
  port : s.port.state = .free ∧ s.port.hostClaim = none ∧ s.port.arst = .inactive
  calm : s.host.reselect = false

theorem State.Clear.goesOn {s : State} (h : s.Clear) {e : Engine} (he : e.phase ≠ .idle) (o : ArrayOp) :
    (raiseEngineClaim o (s.setEngine e)).EngineGoesOn o := ⟨he, h.port, rfl, h.calm⟩

/-- What an event leaves in which the engine's next operation is issued. -/
structure State.WorksOn (s t : State) (o : ArrayOp) (e : Engine) : Prop where
  issues   : t.Issues o
  contents : ∀ k, t.contents k = s.contents k
  engine   : t.engine = e

theorem State.Clear.erases {s : State} (h : s.Clear) {e : Engine} (he : e.phase ≠ .idle) (psec : Nat) :
    s.WorksOn (refresh (finish (raiseEngineClaim (engineOp .erase psec 0 0) (s.setEngine e)))) (engineOp .erase psec 0 0)
      { e with eraseAttempts := e.eraseAttempts + 1 } := by
  have hgo := h.goesOn he (engineOp .erase psec 0 0)
  refine ⟨(refresh_issues _ _).mpr hgo.issues, fun k => ?_, ?_⟩
  · rw [refresh_contents]; exact hgo.contents k
  · rw [refresh_engine]; exact (hgo.erases rfl rfl).1

theorem State.Clear.programs {s : State} (h : s.Clear) {e : Engine} (he : e.phase ≠ .idle) (psec o : Nat) (w : Word) :
    s.WorksOn (refresh (finish (raiseEngineClaim (engineOp .program psec o w) (s.setEngine e)))) (engineOp .program psec o w)
      { e with programAttempts := e.programAttempts + 1 } := by
  have hgo := h.goesOn he (engineOp .program psec o w)
  refine ⟨(refresh_issues _ _).mpr hgo.issues, fun k => ?_, ?_⟩
  · rw [refresh_contents]; exact hgo.contents k
  · rw [refresh_engine]; exact hgo.programs rfl rfl

theorem State.Clear.reads {s : State} (h : s.Clear) {e : Engine} (he : e.phase ≠ .idle) (psec o : Nat) :
    s.WorksOn (refresh (finish (raiseEngineClaim (engineOp .read psec o 0) (s.setEngine e)))) (engineOp .read psec o 0)
      e := by
  have hgo := h.goesOn he (engineOp .read psec o 0)
  refine ⟨(refresh_issues _ _).mpr hgo.issues, fun k => ?_, ?_⟩
  · rw [refresh_contents]; exact hgo.contents k
  · rw [refresh_engine, hgo.granted, issueOp_engine (by rfl), drain_engine]
    rfl

/-! ### The end of LOAD (R74, R75) -/

/-- The part when the last word of LOAD is in the merge buffer, with its targets, and the region's COMMITTING entries are
released. -/
def State.loadReleased (s : State) : State := releaseAll (s.engine.itemRegion.getD 0) (s.setEngine s.engine.loaded)

theorem endOfLoad_unbound {s : State} (h : s.engine.boundReloc = false) : endOfLoad s =
    if (applyGathered s.engine).someInfeasible then
      engineErase .erase (s.loadReleased.engine.itemPhys.getD 0) s.loadReleased
    else if (applyGathered s.engine).gathered.any fun g => !g.released && g.differs then
      programChanged 0 (s.loadReleased.setEngine { s.loadReleased.engine with phase := .program })
    else endCommit s.loadReleased :=
  if_neg (by change ¬s.engine.boundReloc = true; simp [h])

theorem loadReleased_keeps {s : State} (hs : s.stall = none) (hc : s.Clear) : s.loadReleased.Clear
    ∧ s.loadReleased.engine = s.engine.loaded ∧ s.loadReleased.mc = s.mc
    ∧ ∀ k, s.loadReleased.queue k = if k = s.engine.itemRegion.getD 0
        then (s.queue (s.engine.itemRegion.getD 0)).filter Entry.waits else s.queue k := by
  have hnot : (fun e : Entry => !!e.waits) = Entry.waits := funext fun e => Bool.not_not _
  have hkept : s.loadReleased = keepEntries (s.engine.itemRegion.getD 0) Entry.waits (s.setEngine s.engine.loaded) := by
    rw [State.loadReleased, releaseAll, removeEntries, stalledMayAppend_none _ (by exact hs), hnot]
  rw [hkept]
  exact ⟨⟨hc.port, hc.calm⟩, rfl, rfl, keepEntries_queue _ _ _⟩

theorem loadedForRelocation_eq (s : State) (hs : s.loadReleased.engine = s.engine.loaded) : s.loadedForRelocation
    = s.loadReleased.setEngine { s.loadReleased.engine with phase := .relocate } := by
  rw [hs]; rfl

/-- The contents of the queues when the region's entries are released. -/
def State.ReleasedIn (s t : State) (r : Nat) : Prop := (∀ r', r' ≠ r → t.contents r' = s.contents r')
  ∧ t.contents r = ((s.queue r).filter Entry.waits).map Entry.content

theorem loadReleased_contents {s : State} {r : Nat} (hr : s.engine.itemRegion = some r) (hs : s.stall = none)
    (hc : s.Clear) : s.ReleasedIn s.loadReleased r := by
  obtain ⟨-, -, -, hq⟩ := loadReleased_keeps hs hc
  rw [hr, Option.getD_some] at hq
  refine ⟨fun k hk => ?_, ?_⟩
  · rw [State.contents, hq, if_neg hk]; rfl
  · rw [State.contents, hq, if_pos rfl]

theorem State.ReleasedIn.congr {s u t : State} {r : Nat} (h : s.ReleasedIn u r) (ht : ∀ k, t.contents k = u.contents k) :
    s.ReleasedIn t r := ⟨fun k hk => (ht k).trans (h.1 k hk), (ht r).trans h.2⟩

section EndOfLoad

variable {s : State} {r psec : Nat} (hc : s.Clear) (hitem : s.engine.item = .regionCommit)
  (hr : s.engine.itemRegion = some r) (hphys : s.engine.itemPhys = some psec) (hs : s.stall = none)

include hc hr hs

/-- A sector bound for RELOCATE with room in the table and a spare (R75, R118). -/
theorem endOfLoad_relocates {i : Nat} (hbound : s.engine.boundReloc = true) (hroom : s.hasRoom = true)
    (hfree : s.lowestFree = some i) : s.ReleasedIn (refresh (finish (endOfLoad s))) r
      ∧ (refresh (finish (endOfLoad s))).Issues (engineOp .erase (1021 - i) 0 0)
      ∧ (refresh (finish (endOfLoad s))).engine = { s.engine.loaded with
          phase := .relocate, spareOnTrial := some i, cursor := 0, itemPhys := some (1021 - i), eraseAttempts := 1 } := by
  obtain ⟨hclear, hengine, -, -⟩ := loadReleased_keeps hs hc
  have hcontents := loadReleased_contents hr hs hc
  obtain ⟨hmap, himage, hrengine, -, -⟩ := loaded_keeps s
  have hroom' : s.loadedForRelocation.hasRoom = true := by
    unfold State.hasRoom at hroom ⊢
    rw [hmap, hrengine]
    exact hroom
  have hfree' : s.loadedForRelocation.lowestFree = some i := by
    unfold State.lowestFree State.spareCount at hfree ⊢
    rw [hmap, himage]
    exact hfree
  have hends : endOfLoad s = raiseEngineClaim (engineOp .erase (1021 - i) 0 0) (s.loadReleased.setEngine
      { s.engine.loaded with
        phase := .relocate, spareOnTrial := some i, cursor := 0, itemPhys := some (1021 - i), eraseAttempts := 0 }) := by
    rw [endOfLoad_bound hbound, if_pos hroom', trySpare, hfree', loadedForRelocation_eq s hengine]
    dsimp only
    unfold engineErase
    simp only [State.setEngine_engine, hengine]
    rfl
  have hworks := hclear.erases (e := { s.engine.loaded with
    phase := .relocate, spareOnTrial := some i, cursor := 0, itemPhys := some (1021 - i), eraseAttempts := 0 })
    Phase.noConfusion (1021 - i)
  rw [hends]
  exact ⟨hcontents.congr hworks.contents, hworks.issues, hworks.engine⟩

include hphys in
/-- An infeasible entry: the sector is erased (R75). -/
theorem endOfLoad_erases (hbound : s.engine.boundReloc = false) (hinf : (applyGathered s.engine).someInfeasible = true) :
    s.ReleasedIn (refresh (finish (endOfLoad s))) r ∧ (refresh (finish (endOfLoad s))).Issues (engineOp .erase psec 0 0)
      ∧ (refresh (finish (endOfLoad s))).engine = { s.engine.loaded with
          phase := .erase, itemPhys := some psec, eraseAttempts := 1 } := by
  obtain ⟨hclear, hengine, -, -⟩ := loadReleased_keeps hs hc
  have hcontents := loadReleased_contents hr hs hc
  have hphys' : s.loadReleased.engine.itemPhys.getD 0 = psec := by
    rw [hengine]
    change s.engine.itemPhys.getD 0 = psec
    rw [hphys]; rfl
  have hends : endOfLoad s = raiseEngineClaim (engineOp .erase psec 0 0) (s.loadReleased.setEngine
      { s.engine.loaded with phase := .erase, itemPhys := some psec, eraseAttempts := 0 }) := by
    rw [endOfLoad_unbound hbound, if_pos hinf, hphys']
    unfold engineErase
    simp only [hengine]
    rfl
  have hworks := hclear.erases (e := { s.engine.loaded with phase := .erase, itemPhys := some psec, eraseAttempts := 0 })
    Phase.noConfusion psec
  rw [hends]
  exact ⟨hcontents.congr hworks.contents, hworks.issues, hworks.engine⟩

include hphys in
/-- Else the lowest offset that differs is programmed (R75). -/
theorem endOfLoad_programs {o : Nat} (hbound : s.engine.boundReloc = false)
    (hinf : ¬(applyGathered s.engine).someInfeasible = true) (ho : o < 2048) (hd : s.engine.differsAt o)
    (hleast : ∀ j < o, ¬s.engine.differsAt j) : s.ReleasedIn (refresh (finish (endOfLoad s))) r
      ∧ (refresh (finish (endOfLoad s))).Issues (engineOp .program psec o (s.engine.loaded.mergeWord o))
      ∧ (refresh (finish (endOfLoad s))).engine = { s.engine.loaded with phase := .program, programAttempts := 1 } := by
  obtain ⟨hclear, hengine, -, -⟩ := loadReleased_keeps hs hc
  have hcontents := loadReleased_contents hr hs hc
  have hnext : s.engine.loaded.nextToProgram 0 = some o := Engine.nextToProgram_eq (Nat.zero_le o) ho
    ((loaded_differs s.engine o).mpr hd) fun j _ hj h => hleast j hj ((loaded_differs s.engine j).mp h)
  have hphys' : s.engine.loaded.itemPhys = some psec := hphys
  have hends : endOfLoad s = raiseEngineClaim (engineOp .program psec o (s.engine.loaded.mergeWord o))
      (s.loadReleased.setEngine { s.engine.loaded with phase := .program, programAttempts := 0 }) := by
    rw [endOfLoad_unbound hbound, if_neg hinf, if_pos ((applyGathered_changed s.engine).mpr ⟨o, ho, hd⟩), hengine]
    generalize s.loadReleased = v
    generalize s.engine.loaded = e at hnext hphys'
    have hnext' : ({ e with phase := .program } : Engine).nextToProgram 0 = some o :=
      (Engine.nextToProgram_congr rfl 0).trans hnext
    unfold programChanged
    rw [State.setEngine_engine, hnext']
    dsimp only
    unfold engineProgram Engine.op
    simp only [State.setEngine_engine, hphys']
    rfl
  have hworks := hclear.programs (e := { s.engine.loaded with phase := .program, programAttempts := 0 })
    Phase.noConfusion psec o (s.engine.loaded.mergeWord o)
  rw [hends]
  exact ⟨hcontents.congr hworks.contents, hworks.issues, hworks.engine⟩

include hitem in
/-- With no word to program the commit ends (R75, R80). -/
theorem endOfLoad_ends (hbound : s.engine.boundReloc = false) (hinf : ¬(applyGathered s.engine).someInfeasible = true)
    (hnone : ∀ o < 2048, ¬s.engine.differsAt o) : s.ReleasedIn (refresh (finish (endOfLoad s))) r
      ∧ s.ItemEnded (refresh (finish (endOfLoad s))) .none
      ∧ (refresh (finish (endOfLoad s))).engine.merge = s.engine.loaded.merge := by
  obtain ⟨hclear, hengine, -, -⟩ := loadReleased_keeps hs hc
  have hcontents := loadReleased_contents hr hs hc
  have hitem' : s.loadReleased.engine.item = .regionCommit := by rw [hengine]; exact hitem
  have hunchanged : ¬((applyGathered s.engine).gathered.any fun g => !g.released && g.differs) = true := fun h => by
    obtain ⟨o, ho, hd⟩ := (applyGathered_changed s.engine).mp h
    exact hnone o ho hd
  have hclosed := ((itemOver_endCommit hitem' .none).closed hclear.calm).refreshed
  rw [endOfLoad_unbound hbound, if_neg hinf, if_neg hunchanged]
  refine ⟨hcontents.congr (hclosed.contents hitem'), hclosed.ended.congr ?_ ?_ ?_, hclosed.words.trans ?_⟩
  · rw [hengine]; rfl
  · rw [hengine]; rfl
  · rw [hengine]; rfl
  · rw [hengine]

include hitem hphys in
/-- The words in the merge buffer are those of the end of LOAD, whatever follows it. -/
theorem endOfLoad_words : (refresh (finish (endOfLoad s))).engine.merge = s.engine.loaded.merge := by
  by_cases hbound : s.engine.boundReloc = true
  · obtain ⟨hmap, himage, hengine, hcalm, -⟩ := loaded_keeps s
    have hcalm' : s.loadedForRelocation.host.reselect = false := hcalm.trans hc.calm
    have hitem' : s.loadedForRelocation.engine.item = .regionCommit := by rw [hengine]; exact hitem
    have hwords : s.loadedForRelocation.engine.merge = s.engine.loaded.merge := by rw [hengine]
    by_cases hroom : s.loadedForRelocation.hasRoom = true
    · rcases hfree : s.loadedForRelocation.lowestFree with - | i
      · have hends : endOfLoad s = retireSector s.loadedForRelocation := by
          rw [endOfLoad_bound hbound, if_pos hroom, trySpare_none hfree]
        rw [hends]
        exact (retireSector_seen (.inl hitem') hcalm').words.trans hwords
      · have hroom' : s.hasRoom = true := by
          unfold State.hasRoom at hroom ⊢
          rw [hmap, hengine] at hroom
          exact hroom
        have hfree' : s.lowestFree = some i := by
          unfold State.lowestFree State.spareCount at hfree ⊢
          rw [hmap, himage] at hfree
          exact hfree
        rw [(endOfLoad_relocates hc hr hs hbound hroom' hfree').2.2]
    · have hclosed := ((itemOver_endRelocated (s := report
        { kind := .dataLost, lsec := some s.loadedForRelocation.engine.sector, reason := some .tableFull
          count := if s.loadedForRelocation.engine.item = .regionCommit then s.loadedForRelocation.engine.entryCount
            else 0 } s.loadedForRelocation) (.inl hitem') .none).closed hcalm').refreshed
      rw [endOfLoad_bound hbound, if_neg hroom]
      exact hclosed.words.trans hwords
  · rw [Bool.not_eq_true] at hbound
    by_cases hinf : (applyGathered s.engine).someInfeasible = true
    · rw [(endOfLoad_erases hc hr hphys hs hbound hinf).2.2]
    · by_cases hd : ∃ o, o < 2048 ∧ s.engine.differsAt o
      · classical
        obtain ⟨ho, hdo⟩ := Nat.find_spec hd
        rw [(endOfLoad_programs hc hr hphys hs hbound hinf ho hdo fun j hj h =>
          Nat.find_min hd hj ⟨hj.trans ho, h⟩).2.2]
      · exact (endOfLoad_ends hc hitem hr hs hbound hinf fun o ho h => hd ⟨o, ho, h⟩).2.2

end EndOfLoad

/-! ### The last READ of LOAD -/

/-- The part with the last word of the sector in the merge buffer. -/
def State.wordLoaded (s : State) (x : RunningOp) (w : Word) : State :=
  (s.engineEnded x true w).setEngine { s.engine with merge := s.engine.merge.setIfInBounds 2047 w, cursor := 2048 }

theorem exec_lastRead {s : State} {x : RunningOp} (hruns : s.Runs x) (hissuer : x.op.issuer = .engine)
    (hk : x.op.kind = .read) (hphase : s.engine.phase = .load) (hcursor : s.engine.cursor = 2047) (w : Word) :
    exec (.arrayReadEnd w) s = .next (refresh (finish (lastWordLoaded (s.wordLoaded x w)))) := by
  have hload : engineOpEnd x.op true w (s.engineEnded x true w) = lastWordLoaded (s.wordLoaded x w) := by
    have hphase' : (s.engineEnded x true w).engine.phase = .load := hphase
    have hcursor' : (s.engineEnded x true w).engine.cursor = 2047 := hcursor
    simp only [engineOpEnd, hk, engineReadEnd, hphase']
    unfold loadRead
    rw [hcursor']
    rfl
  rw [exec_arrayReadEnd hruns hk, issuerEnd_engine hissuer, hload]

/-- What the engine finds then. -/
structure State.AtLoadEnd (s z : State) (w : Word) : Prop where
  clear  : z.port.state = .free ∧ z.port.arst = .inactive
  host   : z.host = s.host ∧ z.port.hostClaim = s.port.hostClaim ∧ z.reader = s.reader
  engine : z.engine = { s.engine with merge := s.engine.merge.setIfInBounds 2047 w, cursor := 2048 }
  map    : z.map = s.map
  image  : z.image = s.image
  queues : z.queues = s.queues
  stall  : z.stall = s.stall
  claim  : z.port.engClaim = none

theorem wordLoaded_keeps {s : State} (harst : s.port.arst = .inactive) (x : RunningOp) (w : Word) :
    s.AtLoadEnd (s.wordLoaded x w) w where
  clear := ⟨rfl, harst⟩
  host := ⟨rfl, rfl, rfl⟩
  engine := rfl
  map := by simp [State.wordLoaded, State.engineEnded]
  image := by simp [State.wordLoaded, State.engineEnded]
  queues := by simp [State.wordLoaded, State.engineEnded]
  stall := by simp [State.wordLoaded, State.engineEnded]
  claim := rfl

/-- The words as loaded, with the last one. -/
theorem State.AtLoadEnd.mergeWord {s z : State} {w : Word} (h : s.AtLoadEnd z w) (o : Nat) :
    z.engine.mergeWord o = if o = 2047 then w else s.engine.mergeWord o := by
  unfold Engine.mergeWord
  rw [h.engine]
  dsimp only
  rw [Vector.getElem?_setIfInBounds]
  by_cases ho : o = 2047
  · subst ho
    rw [if_pos rfl, if_pos rfl, if_pos (by decide)]
    rfl
  · rw [if_neg (Ne.symm ho), if_neg ho]

theorem State.AtLoadEnd.room {s z : State} {w : Word} (h : s.AtLoadEnd z w) : z.hasRoom = s.hasRoom
    ∧ z.lowestFree = s.lowestFree ∧ z.loadRetires = s.loadRetires := by
  have hroom : z.hasRoom = s.hasRoom := by
    unfold State.hasRoom
    rw [h.engine, h.map]
    rfl
  have hfree : z.lowestFree = s.lowestFree := by
    unfold State.lowestFree State.spareCount
    rw [h.map, h.image]
  refine ⟨hroom, hfree, ?_⟩
  unfold State.loadRetires
  rw [hroom, hfree, h.engine]

/-- The entries left, and the offsets that differ, in the words of the obligation. -/
theorem differsAt_iff (e : Engine) (o : Nat) : e.differsAt o ↔ ∃ g ∈ e.gathered.filter fun g => !g.released,
    offsetOf g.addr = o ∧ overlay g.mask g.data (e.mergeWord (offsetOf g.addr)) ≠ e.mergeWord o := by
  unfold Engine.differsAt
  simp only [List.mem_filter, Bool.not_eq_true', and_assoc]

theorem someInfeasible_iff (e : Engine) : (applyGathered e).someInfeasible = true ↔ ∃ g ∈ e.gathered.filter fun g => !g.released,
    feasible g.mask g.data (e.mergeWord (offsetOf g.addr)) = false := by
  rw [applyGathered_infeasible]
  simp only [List.mem_filter, Bool.not_eq_true', and_assoc]

/-- The second part of O56. -/
theorem lastRead_ends {s : State} {x : RunningOp} {r psec : Nat} {w : Word} (hruns : s.EngineRuns x)
    (hk : x.op.kind = .read) (hphase : s.engine.phase = .load) (hitem : s.engine.item = .regionCommit)
    (hr : s.engine.itemRegion = some r) (hphys : s.engine.itemPhys = some psec) (hcursor : s.engine.cursor = 2047)
    (hs : s.stall = none) :
    let loaded := fun (o : Nat) => if o = 2047 then w else s.engine.mergeWord o
    let target := fun (g : GatheredEntry) => overlay g.mask g.data (loaded (offsetOf g.addr))
    let left := s.engine.gathered.filter fun g => !g.released
    let infeasible := ∃ g ∈ left, feasible g.mask g.data (loaded (offsetOf g.addr)) = false
    let differs := fun (o : Nat) => ∃ g ∈ left, offsetOf g.addr = o ∧ target g ≠ loaded o
    let released := fun (t : State) => (∀ r', r' ≠ r → t.contents r' = s.contents r')
      ∧ t.contents r = ((s.queue r).filter Entry.waits).map Entry.content
    ∃ t, exec (.arrayReadEnd w) s = .next t
      ∧ (∀ o < 2048, (∀ g ∈ left, offsetOf g.addr ≠ o) → t.engine.mergeWord o = loaded o)
      ∧ (∀ g ∈ left, (∀ g' ∈ left, offsetOf g'.addr = offsetOf g.addr → g' = g) →
          t.engine.mergeWord (offsetOf g.addr) = target g)
      ∧ (∀ i, s.engine.boundReloc = true → s.lowestFree = some i →
          (s.map.entryOf s.engine.sector).isSome = true ∨ s.map.remap.length < 64 →
          released t ∧ t.engine.mergeValid = true ∧ t.engine.phase = .relocate ∧ t.engine.spareOnTrial = some i
            ∧ t.Issues (engineOp .erase (1021 - i) 0 0))
      ∧ (s.engine.boundReloc = false → infeasible → released t ∧ t.engine.mergeValid = true ∧ t.engine.phase = .erase
          ∧ t.engine.eraseAttempts = 1 ∧ t.Issues (engineOp .erase psec 0 0))
      ∧ (∀ o, s.engine.boundReloc = false → ¬infeasible → o < 2048 → differs o → (∀ j < o, ¬differs j) →
          released t ∧ t.engine.mergeValid = true ∧ t.engine.phase = .program ∧ t.engine.programAttempts = 1
            ∧ t.Issues (engineOp .program psec o (t.engine.mergeWord o)))
      ∧ (s.engine.boundReloc = false → ¬infeasible → (∀ o < 2048, ¬differs o) → released t ∧ s.ItemEnded t .none) := by
  intro loaded target left infeasible differs released
  obtain ⟨hrun, hissuer, hclaim, harst, hres⟩ := hruns
  have hexec := exec_lastRead hrun hissuer hk hphase hcursor w
  have hkept := wordLoaded_keeps harst x w
  generalize s.wordLoaded x w = z at hexec hkept
  have hnoRead : z.itemReadWaits = false := by
    unfold State.itemReadWaits
    rw [hkept.host.2.1, hclaim]
    rfl
  rw [lastWordLoaded, hnoRead, Bool.and_false, if_neg Bool.false_ne_true] at hexec
  have hword : ∀ o, z.engine.mergeWord o = loaded o := hkept.mergeWord
  obtain ⟨hroom', hfree', -⟩ := hkept.room
  obtain ⟨⟨hfree, harst'⟩, ⟨hhost, hclaim', -⟩, hengine, -, -, hqueues, hstall, -⟩ := hkept
  have hc : z.Clear := ⟨⟨hfree, hclaim'.trans hclaim, harst'⟩, by rw [hhost]; exact hres⟩
  have hgathered : z.engine.gathered = s.engine.gathered := by rw [hengine]
  have hitem' : z.engine.item = .regionCommit := by rw [hengine]; exact hitem
  have hr' : z.engine.itemRegion = some r := by rw [hengine]; exact hr
  have hphys' : z.engine.itemPhys = some psec := by rw [hengine]; exact hphys
  have hbound : z.engine.boundReloc = s.engine.boundReloc := by rw [hengine]
  have hs' : z.stall = none := hstall.trans hs
  have hreleased : ∀ {t}, z.ReleasedIn t r → released t := fun {t} h => by
    unfold State.ReleasedIn State.contents State.queue at h
    rw [hqueues] at h
    exact h
  have hinf : (applyGathered z.engine).someInfeasible = true ↔ infeasible := by
    rw [someInfeasible_iff, hgathered]
    simp only [hword]
    rfl
  have hdiffers : ∀ o, z.engine.differsAt o ↔ differs o := fun o => by
    rw [differsAt_iff, hgathered]
    simp only [hword]
    rfl
  have hwords := endOfLoad_words hc hitem' hr' hphys' hs'
  refine ⟨_, hexec, fun o ho hno => ?_, fun g hg halone => ?_, fun i hb hf hroom => ?_, fun hb hi => ?_,
    fun o hb hi ho hd hleast => ?_, fun hb hi hnone => ?_⟩
  · have hmerged : z.engine.loaded.mergeWord o = z.engine.mergeWord o := loaded_mergeWord fun g hg hrel =>
      hno g (List.mem_filter.mpr ⟨hgathered ▸ hg, by simp [hrel]⟩)
    rw [Engine.mergeWord, hwords, ← hword o, ← hmerged]
    rfl
  · obtain ⟨hmem, hrel⟩ := List.mem_filter.mp hg
    have htarget : z.engine.loaded.mergeWord (offsetOf g.addr)
        = overlay g.mask g.data (z.engine.mergeWord (offsetOf g.addr)) :=
      loaded_target (hgathered ▸ hmem) (by simpa using hrel) fun g' hg' hrel' hoff =>
        halone g' (List.mem_filter.mpr ⟨hgathered ▸ hg', by simp [hrel']⟩) hoff
    rw [Engine.mergeWord, hwords]
    refine htarget.trans ?_
    rw [hword]
  · have hroom'' : z.hasRoom = true := by
      rw [hroom', State.hasRoom, Bool.or_eq_true, decide_eq_true_eq]
      exact hroom
    obtain ⟨hrel, hissues, heng⟩ := endOfLoad_relocates hc hr' hs' (hbound.trans hb) hroom'' (hfree'.trans hf)
    rw [heng]
    exact ⟨hreleased hrel, rfl, rfl, rfl, hissues⟩
  · obtain ⟨hrel, hissues, heng⟩ := endOfLoad_erases hc hr' hphys' hs' (hbound.trans hb) (hinf.mpr hi)
    rw [heng]
    exact ⟨hreleased hrel, rfl, rfl, rfl, hissues⟩
  · obtain ⟨hrel, hissues, heng⟩ := endOfLoad_programs hc hr' hphys' hs' (hbound.trans hb) (fun h => hi (hinf.mp h)) ho
      ((hdiffers o).mpr hd) fun j hj h => hleast j hj ((hdiffers j).mp h)
    rw [heng]
    exact ⟨hreleased hrel, rfl, rfl, rfl, hissues⟩
  · obtain ⟨hrel, hended, -⟩ := endOfLoad_ends hc hitem' hr' hs' (hbound.trans hb) (fun h => hi (hinf.mp h))
      fun o ho h => hnone o ho ((hdiffers o).mp h)
    refine ⟨hreleased hrel, hended.congr (hitem'.trans hitem.symm) (hr'.trans hr.symm) ?_⟩
    rw [hengine]
    rfl

/-! ### A read of the sector that waits (R51, R60; log entry 35) -/

/-- A FREE port takes the host's READ first, and no more of the part is changed by it (R94, R95). -/
theorem grant_hostRead {s : State} {a : ReadAccess} (hfree : s.port.state = .free) (hclaim : s.port.hostClaim = some a.op)
    (harst : s.port.arst = .inactive) (hreader : s.reader = { state := .portWait, access := some a }) :
    (grant s).Issues a.op ∧ (grant s).reader = { state := .reading, access := some a } ∧ (grant s).engine = s.engine
      ∧ (grant s).port.engClaim = s.port.engClaim ∧ (grant s).port.hostClaim = some a.op := by
  have hcount : countAttempt a.op s = s := rfl
  have hgrant : grant s = issueOp a.op s := by
    rw [grant, if_pos hfree, hclaim]
  rw [hgrant]
  unfold issueOp State.Issues readIssued
  rw [hcount]
  dsimp only
  rw [if_pos (by simp [hreader, ReadAccess.op, harst])]
  simp [hreader, harst, hclaim]

/-- The third part of O56. -/
theorem lastRead_waits {s : State} {x : RunningOp} {p : HostPins} {a : ReadAccess} {w : Word} (hruns : s.Runs x)
    (hk : x.op.kind = .read) (hissuer : x.op.issuer = .engine) (hphase : s.engine.phase = .load)
    (hcursor : s.engine.cursor = 2047) (hretires : s.loadRetires = true) (harst : s.port.arst = .inactive)
    (hhost : s.host = HostPort.holds p) (hreader : s.reader = { state := .portWait, access := some a })
    (hsector : sectorOf a.addr = s.engine.sector) (hclaim : s.port.hostClaim = some a.op) :
    ∃ t, exec (.arrayReadEnd w) s = .next t ∧ t.Issues a.op ∧ t.reader = { state := .reading, access := some a }
      ∧ t.host = s.host ∧ t.map = s.map ∧ t.port.engClaim = none ∧ t.port.hostClaim = some a.op
      ∧ (∀ r, t.contents r = s.contents r) ∧ t.endOfLoadWaits = true ∧ t.loadRetires = true
      ∧ t.engine = { s.engine with cursor := 2048, merge := s.engine.merge.setIfInBounds 2047 w } := by
  have hexec := exec_lastRead hruns hissuer hk hphase hcursor w
  have hkept := wordLoaded_keeps harst x w
  generalize s.wordLoaded x w = z at hexec hkept
  obtain ⟨-, -, hretires'⟩ := hkept.room
  obtain ⟨⟨hfree, harst'⟩, ⟨hhost', hclaim', hreader'⟩, hengine, hmap, himage, hqueues, -, heng⟩ := hkept
  have hwaits : z.itemReadWaits = true := by
    unfold State.itemReadWaits
    rw [hclaim', hclaim, hreader', hreader, hengine]
    simpa [Engine.sector] using hsector
  rw [lastWordLoaded, hretires', hretires, hwaits, if_pos (by rfl)] at hexec
  obtain ⟨m, hm⟩ := drain_frame z
  have hbusy : z.maySelect = false := maySelect_of_phase (by rw [hengine]; simp [hphase])
  have hfinish : finish z = grant (z.setMc { z.mc with mode := m }) := by
    rw [finish_eq_settle (by rw [hhost', hhost]; rfl), settle_of_busy hbusy, hm]
  obtain ⟨hissues, hr, he, hec, hhc⟩ := grant_hostRead (s := z.setMc { z.mc with mode := m }) (a := a) hfree (hclaim'.trans hclaim) harst'
    (hreader'.trans hreader)
  rw [hfinish] at hexec
  have hgimage : (grant (z.setMc { z.mc with mode := m })).image = z.image := by
    obtain ⟨_, _, _, _, hg⟩ := grant_frame (z.setMc { z.mc with mode := m })
    rw [hg]
    rfl
  have hfacts : (grant (z.setMc { z.mc with mode := m })).host = s.host ∧ (grant (z.setMc { z.mc with mode := m })).map = s.map
      ∧ (grant (z.setMc { z.mc with mode := m })).queues = s.queues ∧ (grant (z.setMc { z.mc with mode := m })).image = s.image :=
    ⟨(grant_host _).trans hhost', (grant_map _).trans hmap, (grant_queues _).trans hqueues, hgimage.trans himage⟩
  generalize grant (z.setMc { z.mc with mode := m }) = t at hexec hissues hr he hec hhc hfacts
  obtain ⟨hth, htm, htq, hti⟩ := hfacts
  have he' : t.engine = { s.engine with cursor := 2048, merge := s.engine.merge.setIfInBounds 2047 w } := he.trans hengine
  have hec' : t.port.engClaim = none := hec.trans heng
  refine ⟨_, hexec, (refresh_issues _ _).mpr hissues, hr, hth, htm, hec', hhc, fun r => ?_, ?_, ?_, he'⟩
  · rw [refresh_contents, State.contents, State.queue, htq]
    rfl
  · unfold State.endOfLoadWaits
    rw [refresh_engine, refresh_port, hec', he', hphase]
    rfl
  · rw [← hretires]
    unfold State.loadRetires State.hasRoom State.lowestFree State.spareCount
    rw [refresh_engine, refresh_map, refresh_image, he', htm, hti]
    rfl

end Sys2Proof.Machine

/-! Settles O56: the GATHER path, PROGRAM on either path, and with the parts before them the whole of the statement. -/

namespace Sys2Proof.Machine

/-! ### Entries released on the GATHER path (R41, R73) -/

/-- The entries `gs` of the region are released in `u`, one by one. -/
structure Released (r : Nat) (s u : State) (gs : List GatheredEntry) : Prop where
  engine : u.engine = { s.engine with
    gathered := s.engine.gathered.map fun x => if gs.any (·.addr == x.addr) then { x with released := true } else x }
  queue  : ∀ k, u.queue k = if k = r then (s.queue r).filter fun e => e.waits || !gs.any (·.addr == e.addr) else s.queue k
  stall  : u.stall = s.stall
  port   : u.port = s.port
  host   : u.host = s.host

theorem released_nil (r : Nat) (s : State) : Released r s s [] where
  engine := by simp
  queue k := by
    split_ifs with hk
    · subst hk; simp
    · rfl
  stall := rfl
  port := rfl
  host := rfl

theorem releaseGathered_released {r : Nat} {s : State} (hr : s.engine.itemRegion = some r) (hs : s.stall = none)
    (g : GatheredEntry) : Released r s (releaseGathered g s) [g] := by
  have hsame : ∀ x : GatheredEntry, (x.addr == g.addr) = (g.addr == x.addr) := fun x => Bool.beq_comm
  have hkept : releaseGathered g s = keepEntries r (fun e => !(!e.waits && e.addr == g.addr))
      (s.setEngine { s.engine with
        gathered := s.engine.gathered.map fun x => if x.addr == g.addr then { x with released := true } else x }) := by
    unfold releaseGathered releaseOne removeEntries
    rw [hr, stalledMayAppend_none _ (by exact hs)]
    rfl
  rw [hkept]
  refine ⟨?_, fun k => (keepEntries_queue _ _ _ k).trans ?_, rfl, rfl, rfl⟩
  · simp only [List.any_cons, List.any_nil, Bool.or_false, ← hsame]
    rfl
  · have hkeep : (fun e : Entry => !(!e.waits && e.addr == g.addr)) = fun e => e.waits || !([g].any (·.addr == e.addr)) := by
      funext e
      rw [Bool.not_and, Bool.not_not, List.any_cons, List.any_nil, Bool.or_false, Bool.beq_comm]
    rw [hkeep]
    rfl

theorem Released.trans {r : Nat} {s u v : State} {gs hs : List GatheredEntry} (h : Released r s u gs)
    (h' : Released r u v hs) : Released r s v (gs ++ hs) where
  engine := by
    rw [h'.engine, h.engine]
    dsimp only
    rw [List.map_map]
    congr 2
    funext x
    rw [Function.comp_apply, List.any_append]
    by_cases hg : gs.any (·.addr == x.addr) = true
    · rw [if_pos hg, hg, Bool.true_or, if_pos rfl]
      exact ite_id _
    · rw [if_neg hg, Bool.eq_false_iff.mpr hg, Bool.false_or]
  queue k := by
    rw [h'.queue, h.queue, h.queue, if_pos rfl]
    split_ifs with hk
    · rw [List.filter_filter]
      congr 1
      funext e
      rw [List.any_append]
      cases e.waits <;> cases gs.any (·.addr == e.addr) <;> cases hs.any (·.addr == e.addr) <;> rfl
    · rfl
  stall := h'.stall.trans h.stall
  port := h'.port.trans h.port
  host := h'.host.trans h.host

/-! ### The entries that remain, in their order (R73) -/

/-- Entries that are released already are passed over. -/
theorem programGathered_released {done rest : List GatheredEntry} (h : ∀ d ∈ done, d.released = true) (s : State) :
    programGathered (done ++ rest) s = programGathered rest s := by
  induction done with
  | nil => rfl
  | cons d done ih =>
    rw [List.cons_append, programGathered, if_pos (h d List.mem_cons_self)]
    exact ih fun x hx => h x (List.mem_cons_of_mem d hx)

/-- What follows the release of `gone`, with `rest` to go, where `settled` holds of the entries whose target is the word
that stands. -/
structure State.GoesOn (s t : State) (r psec : Nat) (settled : GatheredEntry → Bool) (gs gone rest : List GatheredEntry) :
    Prop where
  others : ∀ k, k ≠ r → t.contents k = s.contents k
  own    : t.contents r = ((s.queue r).filter fun e =>
    e.waits || !(gone ++ rest.takeWhile settled).any (·.addr == e.addr)).map Entry.content
  done   : rest.dropWhile settled = [] → s.ItemEnded t .none
  next   : ∀ h tail, rest.dropWhile settled = h :: tail → ∀ w, h.old = some w → t.engine.phase = .program
    ∧ t.engine.programAttempts = 1 ∧ t.engine.gathered = gs.map (fun g =>
        if (gone ++ rest.takeWhile settled).any (·.addr == g.addr) then { g with released := true } else g)
    ∧ t.Issues (engineOp .program psec (offsetOf h.addr) (overlay h.mask h.data w))

section GatherPath

variable {s v : State} {r psec : Nat} {settled : GatheredEntry → Bool} {gone rest : List GatheredEntry}

theorem Released.clear (h : Released r s v gone) (hc : s.Clear) : v.Clear :=
  ⟨by rw [h.port]; exact hc.port, by rw [h.host]; exact hc.calm⟩

theorem Released.contents (h : Released r s v gone) {t : State} (ht : ∀ k, t.contents k = v.contents k) :
    (∀ k, k ≠ r → t.contents k = s.contents k)
      ∧ t.contents r = ((s.queue r).filter fun e => e.waits || !gone.any (·.addr == e.addr)).map Entry.content := by
  refine ⟨fun k hk => ?_, ?_⟩
  · rw [ht, State.contents, h.queue, if_neg hk]; rfl
  · rw [ht, State.contents, h.queue, if_pos rfl]

/-- The walk over the entries that remain. -/
theorem programGathered_goesOn (hc : s.Clear) (hitem : s.engine.item = .regionCommit) (hr : s.engine.itemRegion = some r)
    (hphys : s.engine.itemPhys = some psec) (hs : s.stall = none) (hphase : s.engine.phase = .program)
    (hsettled : ∀ g, settled g = decide (g.old = some g.target)) (hrest : ∀ d ∈ rest, d.released = false)
    (hv : Released r s v gone) :
    s.GoesOn (refresh (finish (programGathered rest v))) r psec settled s.engine.gathered gone rest := by
  induction rest generalizing v gone with
  | nil =>
    have hitem' : v.engine.item = .regionCommit := by rw [hv.engine]; exact hitem
    have hclosed := ((itemOver_endCommit hitem' .none).closed (hv.clear hc).calm).refreshed
    obtain ⟨hothers, hown⟩ := hv.contents (hclosed.contents hitem')
    rw [programGathered]
    refine ⟨hothers, by rw [List.takeWhile_nil, List.append_nil]; exact hown, fun _ => hclosed.ended.congr ?_ ?_ ?_,
      fun h tail hd => absurd hd (by simp)⟩
    · rw [hv.engine]
    · rw [hv.engine]
    · rw [hv.engine]; rfl
  | cons g rest ih =>
    rw [programGathered, if_neg (by simp [hrest g List.mem_cons_self])]
    by_cases hg : g.old = some g.target
    · have hstep := hv.trans (releaseGathered_released (r := r) (s := v) (by rw [hv.engine]; exact hr)
        (hv.stall.trans hs) g)
      have hset : settled g = true := by rw [hsettled]; exact decide_eq_true hg
      obtain ⟨h1, h2, h3, h4⟩ := ih (fun d hd => hrest d (List.mem_cons_of_mem g hd)) hstep
      rw [if_pos hg]
      rw [List.append_assoc, List.singleton_append] at h2 h4
      refine ⟨h1, ?_, ?_, ?_⟩
      · rw [List.takeWhile_cons_of_pos hset]; exact h2
      · rw [List.dropWhile_cons_of_pos hset]; exact h3
      · rw [List.dropWhile_cons_of_pos hset, List.takeWhile_cons_of_pos hset]; exact h4
    · have hset : ¬settled g = true := by rw [hsettled]; simpa using hg
      have hphys' : v.engine.itemPhys = some psec := by rw [hv.engine]; exact hphys
      have hprogram : engineProgram (offsetOf g.addr) g.target v = raiseEngineClaim
          (engineOp .program psec (offsetOf g.addr) g.target) (v.setEngine { v.engine with programAttempts := 0 }) := by
        unfold engineProgram Engine.op
        rw [hphys']
        rfl
      have hphase' : v.engine.phase = .program := by rw [hv.engine]; exact hphase
      have hworks := (hv.clear hc).programs (e := { v.engine with programAttempts := 0 }) (by simp [hphase']) psec
        (offsetOf g.addr) g.target
      obtain ⟨hothers, hown⟩ := hv.contents hworks.contents
      rw [if_neg hg, hprogram]
      refine ⟨hothers, ?_, fun hd => ?_, fun h tail hd w hw => ?_⟩
      · rw [List.takeWhile_cons_of_neg hset, List.append_nil]; exact hown
      · rw [List.dropWhile_cons_of_neg hset] at hd
        exact absurd hd (by simp)
      · rw [List.dropWhile_cons_of_neg hset, List.cons.injEq] at hd
        obtain ⟨rfl, rfl⟩ := hd
        have htarget : g.target = overlay g.mask g.data w := by
          unfold GatheredEntry.target
          rw [hw]; rfl
        rw [List.takeWhile_cons_of_neg hset, List.append_nil, hworks.engine, ← htarget]
        refine ⟨hphase', rfl, ?_, hworks.issues⟩
        change v.engine.gathered = _
        rw [hv.engine]

end GatherPath

/-- What an event is seen from: the queues and the item. -/
theorem State.GoesOn.congr {s u t : State} {r psec : Nat} {settled : GatheredEntry → Bool} {gs gone rest : List GatheredEntry}
    (h : u.GoesOn t r psec settled gs gone rest) (hqueues : u.queues = s.queues) (hitem : u.engine.item = s.engine.item)
    (hregion : u.engine.itemRegion = s.engine.itemRegion) (hsector : u.engine.sector = s.engine.sector) :
    s.GoesOn t r psec settled gs gone rest := by
  obtain ⟨h1, h2, h3, h4⟩ := h
  unfold State.contents State.queue at h1
  unfold State.queue at h2
  rw [hqueues] at h1 h2
  exact ⟨h1, h2, fun hd => (h3 hd).congr hitem hregion hsector, h4⟩

/-! ### The part when an operation of the engine has ended -/

/-- What the engine finds at the end of its operation. -/
structure State.AtEngineEnd (s z : State) : Prop where
  clear  : z.Clear
  engine : z.engine = s.engine
  queues : z.queues = s.queues
  stall  : z.stall = s.stall

theorem State.EngineRuns.atEngineEnd {s : State} {x : RunningOp} (h : s.EngineRuns x) (pass : Bool) (w : Word) :
    s.AtEngineEnd (s.engineEnded x pass w) := by
  obtain ⟨-, -, hclaim, harst, hres⟩ := h
  refine ⟨⟨⟨rfl, hclaim, harst⟩, hres⟩, rfl, ?_, ?_⟩ <;> simp [State.engineEnded]

theorem State.AtEngineEnd.contents {s z : State} (h : s.AtEngineEnd z) (k : Nat) : z.contents k = s.contents k := by
  unfold State.contents State.queue
  rw [h.queues]

theorem State.EngineRuns.read_ends {s : State} {x : RunningOp} (h : s.EngineRuns x) (hk : x.op.kind = .read) (w : Word) :
    exec (.arrayReadEnd w) s = .next (refresh (finish (engineOpEnd x.op true w (s.engineEnded x true w)))) := by
  obtain ⟨hruns, hissuer, -⟩ := h
  rw [exec_arrayReadEnd hruns hk, issuerEnd_engine hissuer]

/-- LOAD begins with the READ of the sector's first word (R72, R74). -/
structure State.Loads (s t : State) (psec : Nat) (gs : List GatheredEntry) : Prop where
  contents : ∀ k, t.contents k = s.contents k
  engine   : t.engine.phase = .load ∧ t.engine.path = some .load ∧ t.engine.mergeValid = false
    ∧ t.engine.mergeSector = s.engine.itemSector ∧ t.engine.gathered = gs
  issues   : t.Issues (engineOp .read psec 0 0)

theorem enterLoad_loads {s z : State} {psec : Nat} (hz : s.AtEngineEnd z) (hphys : s.engine.itemPhys = some psec) {e : Engine}
    (hp : e.itemPhys = s.engine.itemPhys) (hx : e.itemSector = s.engine.itemSector) :
    s.Loads (refresh (finish (enterLoad (z.setEngine e)))) psec e.gathered
      ∧ (refresh (finish (enterLoad (z.setEngine e)))).engine.boundReloc = e.boundReloc := by
  have hload : enterLoad (z.setEngine e) = raiseEngineClaim (engineOp .read psec 0 0) (z.setEngine
      { e with phase := .load, path := some .load, cursor := 0, mergeSector := e.itemSector, mergeValid := false }) := by
    have hphys' : e.itemPhys = some psec := hp.trans hphys
    unfold enterLoad engineRead Engine.op
    simp only [State.setEngine_engine, hphys']
    rfl
  have hworks := hz.clear.reads (e := { e with
    phase := .load, path := some .load, cursor := 0, mergeSector := e.itemSector, mergeValid := false })
    Phase.noConfusion psec 0
  rw [hload]
  refine ⟨⟨fun k => (hworks.contents k).trans (hz.contents k), ?_, hworks.issues⟩, ?_⟩
  · rw [hworks.engine]
    exact ⟨rfl, rfl, rfl, hx, rfl⟩
  · rw [hworks.engine]

/-! ### The end of a READ of the gather (R72) -/

/-- The entry whose word has been read is the first that has none. -/
theorem firstUnread {done rest : List GatheredEntry} {g : GatheredEntry} (hg : g.old = none)
    (hdone : ∀ d ∈ done, d.old.isSome = true) : (done ++ g :: rest).findIdx? (·.old.isNone) = some done.length := by
  induction done with
  | nil => simp [List.findIdx?_cons, hg]
  | cons d done ih =>
    have hd : d.old.isNone = false := by simpa using hdone d List.mem_cons_self
    rw [List.cons_append, List.findIdx?_cons, hd, if_neg Bool.false_ne_true,
      ih fun x hx => hdone x (List.mem_cons_of_mem d hx)]
    rfl

theorem modify_length_append {done rest : List GatheredEntry} {g : GatheredEntry} (f : GatheredEntry → GatheredEntry) :
    (done ++ g :: rest).modify done.length f = done ++ f g :: rest := by
  induction done with
  | nil => rfl
  | cons d done ih =>
    rw [List.cons_append, List.length_cons, List.modify_succ_cons, ih]
    rfl

/-- An entry that has been read and is infeasible leads to LOAD. -/
theorem gather_infeasible {done rest : List GatheredEntry} {g : GatheredEntry} {w : Word}
    (hdone : ∀ d ∈ done, ∃ o, d.old = some o ∧ feasible d.mask d.data o = true) (hrest : ∀ d ∈ rest, d.old = none) :
    ((done ++ g.withOld w :: rest).any fun x => x.old.isSome && !feasible x.mask x.data (x.old.getD 0))
      = !feasible g.mask g.data w := by
  have hdone' : (done.any fun x => x.old.isSome && !feasible x.mask x.data (x.old.getD 0)) = false := by
    rw [List.any_eq_false]
    intro d hd
    obtain ⟨o, ho, hf⟩ := hdone d hd
    simp [ho, hf]
  have hrest' : (rest.any fun x => x.old.isSome && !feasible x.mask x.data (x.old.getD 0)) = false := by
    rw [List.any_eq_false]
    intro d hd
    simp [hrest d hd]
  rw [List.any_append, List.any_cons, hdone', hrest', Bool.false_or, Bool.or_false]
  rfl

/-- The next entry to be read. -/
theorem gather_next {done rest : List GatheredEntry} {g : GatheredEntry} {w : Word}
    (hdone : ∀ d ∈ done, d.old.isSome = true) (hrest : ∀ d ∈ rest, d.old = none) :
    (done ++ g.withOld w :: rest).find? (·.old.isNone) = rest.head? := by
  have hdone' : done.find? (·.old.isNone) = none := by
    rw [List.find?_eq_none]
    intro d hd
    obtain ⟨o, ho⟩ := Option.isSome_iff_exists.mp (hdone d hd)
    simp [ho]
  rw [List.find?_append, hdone', Option.none_or, List.find?_cons_of_neg (by simp [GatheredEntry.withOld])]
  cases rest with
  | nil => rfl
  | cons h rest => rw [List.find?_cons_of_pos (by simp [hrest h List.mem_cons_self]), List.head?_cons]

/-- The settled entries are those whose target is the word that stands. -/
theorem settled_iff {settled : GatheredEntry → Bool} (hnone : ∀ g, g.old = none → settled g = false)
    (hsome : ∀ g w, g.old = some w → settled g = (overlay g.mask g.data w == w)) (g : GatheredEntry) :
    settled g = decide (g.old = some g.target) := by
  rcases hold : g.old with - | w
  · rw [hnone g hold]; simp
  · rw [hsome g w hold, GatheredEntry.target, hold, Option.getD_some, targetWord, Bool.eq_iff_iff, beq_iff_eq,
      decide_eq_true_iff, Option.some_inj]
    exact eq_comm

section Gather

variable {s : State} {x : RunningOp} {r psec : Nat} {settled : GatheredEntry → Bool}
  (hruns : s.EngineRuns x) (hitem : s.engine.item = .regionCommit) (hr : s.engine.itemRegion = some r)
  (hphys : s.engine.itemPhys = some psec) (hs : s.stall = none)
  (hsettled : ∀ g : GatheredEntry, settled g = decide (g.old = some g.target))

include hruns hitem hr hphys hs hsettled

/-- What follows the READ of an entry. -/
theorem gatherRead_ends {done rest : List GatheredEntry} {g : GatheredEntry} {w : Word} (hk : x.op.kind = .read)
    (hphase : s.engine.phase = .gather) (hgs : s.engine.gathered = done ++ g :: rest)
    (hunreleased : ∀ d ∈ done ++ g :: rest, d.released = false) (hg : g.old = none) (hrest : ∀ d ∈ rest, d.old = none)
    (hdone : ∀ d ∈ done, ∃ o, d.old = some o ∧ feasible d.mask d.data o = true) :
    ∃ t, exec (.arrayReadEnd w) s = .next t
      ∧ (feasible g.mask g.data w = false → s.Loads t psec (done ++ g.withOld w :: rest))
      ∧ (feasible g.mask g.data w = true →
        (∀ h tail, rest = h :: tail → (∀ k, t.contents k = s.contents k)
          ∧ t.engine = { s.engine with gathered := done ++ g.withOld w :: rest }
          ∧ t.Issues (engineOp .read psec (offsetOf h.addr) 0))
        ∧ (rest = [] → s.GoesOn t r psec settled (done ++ g.withOld w :: rest) [] (done ++ g.withOld w :: rest))) := by
  have hz := hruns.atEngineEnd true w
  have hexec := hruns.read_ends hk w
  generalize s.engineEnded x true w = z at hz hexec
  have hsome : ∀ d ∈ done, d.old.isSome = true := fun d hd => by
    obtain ⟨o, ho, -⟩ := hdone d hd
    rw [ho]; rfl
  have hread : engineOpEnd x.op true w z = if feasible g.mask g.data w = false then
        enterLoad (z.setEngine { s.engine with gathered := done ++ g.withOld w :: rest })
      else match rest.head? with
        | some h => engineRead (offsetOf h.addr) (z.setEngine { s.engine with gathered := done ++ g.withOld w :: rest })
        | none => programGathered (done ++ g.withOld w :: rest)
          (z.setEngine { s.engine with gathered := done ++ g.withOld w :: rest, phase := .program }) := by
    have hphase' : z.engine.phase = .gather := by rw [hz.engine]; exact hphase
    have hfind : (done ++ g :: rest).findIdx? (·.old.isNone) = some done.length := firstUnread hg hsome
    simp only [engineOpEnd, hk, engineReadEnd, hphase']
    unfold gatherRead
    rw [hz.engine, hgs, hfind]
    dsimp only
    rw [modify_length_append, gather_infeasible hdone hrest, gather_next hsome hrest]
    cases feasible g.mask g.data w <;> rfl
  refine ⟨_, hexec, fun hf => ?_, fun hf => ⟨fun h tail htail => ?_, fun hnil => ?_⟩⟩
  · rw [hread, if_pos hf]
    exact (enterLoad_loads hz hphys (e := { s.engine with gathered := done ++ g.withOld w :: rest }) rfl rfl).1
  · have hnext : engineRead (offsetOf h.addr) (z.setEngine { s.engine with gathered := done ++ g.withOld w :: rest })
        = raiseEngineClaim (engineOp .read psec (offsetOf h.addr) 0)
          (z.setEngine { s.engine with gathered := done ++ g.withOld w :: rest }) := by
      unfold engineRead Engine.op
      simp only [State.setEngine_engine, hphys]
      rfl
    have hworks := hz.clear.reads (e := { s.engine with gathered := done ++ g.withOld w :: rest }) (by simp [hphase]) psec
      (offsetOf h.addr)
    rw [hread, if_neg (by simp [hf]), htail, List.head?_cons, ← htail]
    dsimp only
    rw [hnext]
    exact ⟨fun k => (hworks.contents k).trans (hz.contents k), hworks.engine, hworks.issues⟩
  · subst hnil
    rw [hread, if_neg (by simp [hf]), List.head?_nil]
    dsimp only
    have hunreleased' : ∀ d ∈ done ++ [g.withOld w], d.released = false := fun d hd => by
      rcases List.mem_append.mp hd with hd | hd
      · exact hunreleased d (List.mem_append_left _ hd)
      · rw [List.mem_singleton.mp hd]
        exact hunreleased g (List.mem_append_right _ List.mem_cons_self)
    exact (programGathered_goesOn (s := z.setEngine { s.engine with gathered := done ++ [g.withOld w], phase := .program })
      ⟨hz.clear.port, hz.clear.calm⟩ hitem hr hphys (hz.stall.trans hs) rfl hsettled hunreleased'
      (released_nil r _)).congr hz.queues rfl rfl rfl

/-- What follows a PROGRAM on the GATHER path that passes. -/
theorem gatherProgram_ends {done rest : List GatheredEntry} {g : GatheredEntry} (hk : x.op.kind = .program)
    (hphase : s.engine.phase = .program) (hpath : s.engine.path = some .gather)
    (hgs : s.engine.gathered = done ++ g :: rest) (hdone : ∀ d ∈ done, d.released = true)
    (hunreleased : ∀ d ∈ g :: rest, d.released = false) (hnodup : (s.engine.gathered.map (·.addr)).Nodup) :
    ∃ t, exec (.arrayProgramEnd true) s = .next t ∧ s.GoesOn t r psec settled s.engine.gathered [g] rest := by
  have hz := hruns.atEngineEnd true 0
  have hexec := hruns.program_ends hk true
  generalize s.engineEnded x true 0 = z at hz hexec
  have hengine := hz.engine
  have hphase' : z.engine.phase = .program := by rw [hengine]; exact hphase
  have hunder : z.engine.underProgram = some g := by
    have hnone : done.find? (fun d => !d.released) = none := by
      rw [List.find?_eq_none]
      intro d hd
      simp [hdone d hd]
    unfold Engine.underProgram
    rw [hengine, hgs, List.find?_append, hnone, Option.none_or,
      List.find?_cons_of_pos (by simp [hunreleased g List.mem_cons_self])]
  have hreleased := releaseGathered_released (r := r) (s := z) (by rw [hengine]; exact hr) (hz.stall.trans hs) g
  have hrest : ∀ d ∈ rest, (g.addr == d.addr) = false := fun d hd => by
    rw [hgs, List.map_append, List.map_cons] at hnodup
    obtain ⟨-, hnodup', -⟩ := List.nodup_append.mp hnodup
    obtain ⟨hne, -⟩ := List.nodup_cons.mp hnodup'
    rw [beq_eq_false_iff_ne]
    exact fun heq => hne (heq ▸ List.mem_map_of_mem hd)
  have hgathered : ∃ done', (releaseGathered g z).engine.gathered = done' ++ rest ∧ ∀ d ∈ done', d.released = true := by
    refine ⟨(done ++ [g]).map fun d => if [g].any (·.addr == d.addr) then { d with released := true } else d, ?_,
      fun d hd => ?_⟩
    · have hsame : rest.map (fun d => if [g].any (·.addr == d.addr) then { d with released := true } else d) = rest := by
        refine (List.map_congr_left fun d hd => ?_).trans (List.map_id rest)
        rw [List.any_cons, List.any_nil, hrest d hd]
        rfl
      rw [hreleased.engine, hengine, hgs]
      dsimp only
      rw [List.append_cons, List.map_append, hsame]
    · obtain ⟨d', hd', rfl⟩ := List.mem_map.mp hd
      rcases List.mem_append.mp hd' with hmem | hmem
      · split_ifs
        · rfl
        · exact hdone d' hmem
      · rw [List.mem_singleton.mp hmem, List.any_cons, beq_self_eq_true, Bool.true_or, if_pos rfl]
  obtain ⟨done', hsplit, hdone'⟩ := hgathered
  have hpass : engineOpEnd x.op true 0 z = programGathered rest (releaseGathered g z) := by
    simp only [engineOpEnd, hk]
    unfold engineProgramPass
    rw [hphase']
    dsimp only
    rw [if_pos (by rw [hengine]; exact hpath), hunder]
    dsimp only
    rw [hsplit]
    exact programGathered_released hdone' _
  refine ⟨_, hexec, ?_⟩
  rw [hpass, ← hengine]
  exact (programGathered_goesOn hz.clear (by rw [hengine]; exact hitem) (by rw [hengine]; exact hr)
    (by rw [hengine]; exact hphys) (hz.stall.trans hs) hphase' hsettled
    (fun d hd => hunreleased d (List.mem_cons_of_mem g hd)) hreleased).congr hz.queues (by rw [hengine]) (by rw [hengine])
    (by rw [hengine])

end Gather

section Program

variable {s : State} {x : RunningOp} {psec : Nat} (hruns : s.EngineRuns x) (hphys : s.engine.itemPhys = some psec)
  (hk : x.op.kind = .program) (hphase : s.engine.phase = .program)

include hruns hphys hk hphase

/-- A word's second failed attempt leads to LOAD, bound for RELOCATE (R73). -/
theorem gatherProgram_fails (hpath : s.engine.path = some .gather) (htries : 2 ≤ s.engine.programAttempts) :
    ∃ t, exec (.arrayProgramEnd false) s = .next t ∧ t.engine.boundReloc = true ∧ s.Loads t psec s.engine.gathered := by
  have hz := hruns.atEngineEnd false 0
  have hexec := hruns.program_ends hk false
  generalize s.engineEnded x false 0 = z at hz hexec
  have hengine := hz.engine
  have hphase' : z.engine.phase = .program := by rw [hengine]; exact hphase
  have hfail : engineOpEnd x.op false 0 z = enterLoad (z.setEngine { s.engine with boundReloc := true }) := by
    simp only [engineOpEnd, hk]
    unfold engineProgramFail programExhausted
    rw [hphase']
    dsimp only
    rw [if_neg Phase.noConfusion, if_neg (by rw [hengine]; exact Nat.not_lt.mpr htries),
      if_pos (by rw [hengine]; exact hpath), hengine]
  obtain ⟨hloads, hbound⟩ := enterLoad_loads hz hphys (e := { s.engine with boundReloc := true }) rfl rfl
  rw [hfail] at hexec
  exact ⟨_, hexec, hbound, hloads⟩

/-- PROGRAM on the LOAD path goes on with the next offset that differed (R76). -/
theorem loadProgram_ends (hitem : s.engine.item = .regionCommit) (hpath : s.engine.path = some .load) :
    let differed := fun (o : Nat) => ∃ g ∈ s.engine.gathered, g.differs = true ∧ offsetOf g.addr = o
    ∃ t, exec (.arrayProgramEnd true) s = .next t ∧ (∀ k, t.contents k = s.contents k)
      ∧ (∀ o, x.op.offset < o → o < 2048 → differed o → (∀ j, x.op.offset < j → j < o → ¬differed j) →
          t.engine.phase = .program ∧ t.engine.programAttempts = 1
            ∧ t.Issues (engineOp .program psec o (s.engine.mergeWord o)))
      ∧ ((∀ o, x.op.offset < o → o < 2048 → ¬differed o) → s.ItemEnded t .none) := by
  intro differed
  have hz := hruns.atEngineEnd true 0
  have hexec := hruns.program_ends hk true
  generalize s.engineEnded x true 0 = z at hz hexec
  have hengine := hz.engine
  have hpass : engineOpEnd x.op true 0 z = programChanged (x.op.offset + 1) z := by
    have hphase' : z.engine.phase = .program := by rw [hengine]; exact hphase
    simp only [engineOpEnd, hk]
    unfold engineProgramPass
    rw [hphase']
    dsimp only
    rw [if_neg (by rw [hengine, hpath]; decide)]
  rw [hpass] at hexec
  have hdiffers : ∀ o, (s.engine.gathered.any fun g => g.differs && offsetOf g.addr == o) = true ↔ differed o := fun o => by
    rw [List.any_eq_true]
    simp only [Bool.and_eq_true, beq_iff_eq]
    rfl
  have hprograms : ∀ o, s.engine.nextToProgram (x.op.offset + 1) = some o →
      s.WorksOn (refresh (finish (programChanged (x.op.offset + 1) z)))
        (engineOp .program psec o (s.engine.mergeWord o)) { s.engine with programAttempts := 1 } := fun o hnext => by
    have hprogram : programChanged (x.op.offset + 1) z = raiseEngineClaim
        (engineOp .program psec o (s.engine.mergeWord o)) (z.setEngine { s.engine with programAttempts := 0 }) := by
      unfold programChanged
      rw [hengine, hnext]
      dsimp only
      unfold engineProgram Engine.op
      simp only [hengine, hphys]
      rfl
    have hworks := hz.clear.programs (e := { s.engine with programAttempts := 0 }) (by simp [hphase]) psec o
      (s.engine.mergeWord o)
    rw [hprogram]
    exact ⟨hworks.issues, fun k => (hworks.contents k).trans (hz.contents k), hworks.engine⟩
  have hends : s.engine.nextToProgram (x.op.offset + 1) = none →
      ItemClosed z (refresh (finish (programChanged (x.op.offset + 1) z))) .none := fun hnext => by
    have hend : programChanged (x.op.offset + 1) z = endCommit z := by
      unfold programChanged
      rw [hengine, hnext]
    rw [hend]
    exact ((itemOver_endCommit (by rw [hengine]; exact hitem) .none).closed hz.clear.calm).refreshed
  refine ⟨_, hexec, fun k => ?_, fun o ho hlt hd hleast => ?_, fun hnone => ?_⟩
  · rcases hnext : s.engine.nextToProgram (x.op.offset + 1) with - | o
    · exact ((hends hnext).contents (by rw [hengine]; exact hitem) k).trans (hz.contents k)
    · exact (hprograms o hnext).contents k
  · have hworks := hprograms o (Engine.nextToProgram_eq ho hlt ((hdiffers o).mpr hd)
      fun j hj hjo h => hleast j hj hjo ((hdiffers j).mp h))
    rw [hworks.engine]
    exact ⟨hphase, rfl, hworks.issues⟩
  · exact (hends (Engine.nextToProgram_none fun o ho hlt h => hnone o ho hlt ((hdiffers o).mp h))).ended.congr
      (by rw [hengine]) (by rw [hengine]) (by rw [hengine])

end Program

/-- Settles O56: the gather, the end of LOAD, a retirement that waits for a read, and the two paths of PROGRAM. -/
theorem commitStartsWithGather : Obligations.CommitStartsWithGather := by
  refine ⟨fun s r e he => startCommit_seen he, fun s x r psec w hruns hk hphase hitem hr hphys hcursor hs =>
    lastRead_ends hruns hk hphase hitem hr hphys hcursor hs,
    fun s x p a w hruns hk hissuer hphase hcursor hretires harst hhost hreader hsector hclaim _ =>
      lastRead_waits hruns hk hissuer hphase hcursor hretires harst hhost hreader hsector hclaim,
    fun s x r psec hruns hitem hr hphys hs => ?_⟩
  intro target still loads goesOn
  have hloads : ∀ t gs, s.Loads t psec gs → loads t gs := fun t gs ⟨hcontents, ⟨h1, h2, h3, h4, h5⟩, hissues⟩ =>
    ⟨hcontents, h1, h2, h3, h4, h5, hissues⟩
  have hgoesOn : ∃ settled : GatheredEntry → Bool, (∀ g, settled g = decide (g.old = some g.target))
      ∧ ∀ t gs gone rest, s.GoesOn t r psec settled gs gone rest → goesOn t gs gone rest := by
    refine ⟨_, settled_iff (settled := fun g => match g.old with
      | some w => target g w == w
      | none => false) (fun g hg => by rw [hg]) (fun g w hg => by rw [hg]), ?_⟩
    rintro t gs gone rest ⟨hothers, hown, hdone, hnext⟩
    refine ⟨hothers, hown, ?_⟩
    split
    · next hd => exact hdone hd
    · next h tail hd => exact hnext h tail hd
  obtain ⟨settled, hsettled, hgoes⟩ := hgoesOn
  refine ⟨fun done rest g w hk hphase hgs hunreleased hg hrest hdone => ?_,
    fun done rest g hk hphase hpath hgs hdone hunreleased hnodup => ⟨?_, fun htries => ?_⟩, fun hk hphase hpath => ?_⟩
  · have hdone' : ∀ d ∈ done, ∃ o, d.old = some o ∧ feasible d.mask d.data o = true := fun d hd => by
      have h := hdone d hd
      split at h
      · next o ho => exact ⟨o, ho, h⟩
      · exact h.elim
    obtain ⟨t, hexec, hinfeasible, hfeasible⟩ := gatherRead_ends hruns hitem hr hphys hs hsettled (w := w) hk hphase hgs
      hunreleased hg hrest hdone'
    refine ⟨t, hexec, fun hf => hloads _ _ (hinfeasible hf), fun hf => ?_⟩
    obtain ⟨hnext, hlast⟩ := hfeasible hf
    cases rest with
    | nil => exact hgoes _ _ _ _ (hlast rfl)
    | cons h tail => exact hnext h tail rfl
  · obtain ⟨t, hexec, hon⟩ := gatherProgram_ends hruns hitem hr hphys hs hsettled hk hphase hpath hgs hdone hunreleased hnodup
    exact ⟨t, hexec, hgoes _ _ _ _ hon⟩
  · obtain ⟨t, hexec, hbound, hl⟩ := gatherProgram_fails hruns hphys hk hphase hpath htries
    exact ⟨t, hexec, hbound, hloads _ _ hl⟩
  · exact loadProgram_ends hruns hphys hk hphase hitem hpath

end Sys2Proof.Machine

/-! The run after a first timeout beside the run after a fail report: they differ in the ARST# pulse, and in that the
operation issued next waits for its end (R103, R109, R212; log entry 14). -/

namespace Sys2Proof.Machine

/-! ### The relation -/

/-- An operation that waits for the end of the ARST# pulse. -/
def RunningOp.waiting (x : RunningOp) : RunningOp := { x with issued := false }

/-- `t` is `s` with an ARST# pulse that has just begun, and a consecutive timeout count of 1. -/
structure ButPulse (t s : State) : Prop where
  core  : t.core = s.core
  held  : t.reader.state = .eraseHold ↔ s.reader.state = .eraseHold
  rest  : t.mc = s.mc ∧ t.log = s.log ∧ t.host = s.host ∧ t.inReset = s.inReset
  state : t.port.state = s.port.state
  op    : t.port.op = s.port.op.map RunningOp.waiting
  pulse : t.port.arst = .pulse ∧ t.port.arstTimer = 0 ∧ t.port.consecutive = 1 ∧ t.port.inner = none

/-- The same while no ERASE runs and no select waits: up to the grant that ends the event. -/
structure ButPulseCalm (t s : State) : Prop where
  but     : ButPulse t s
  noErase : ∀ x, s.port.op = some x → x.op.kind ≠ .erase
  calm    : s.host.reselect = false

/-! ### The moves keep it -/

theorem ButPulse.setEngine {t s : State} (h : ButPulse t s) (e : Engine) : ButPulse (t.setEngine e) (s.setEngine e) :=
  ⟨congrArg (fun u : State => u.setEngine e) h.core, h.held, h.rest, h.state, h.op, h.pulse⟩

theorem ButPulse.setMap {t s : State} (h : ButPulse t s) (m : SectorMap) : ButPulse (t.setMap m) (s.setMap m) :=
  ⟨congrArg (fun u : State => u.setMap m) h.core, h.held, h.rest, h.state, h.op, h.pulse⟩

theorem ButPulse.setCru {t s : State} (h : ButPulse t s) (c : ControlUnit) : ButPulse (t.setCru c) (s.setCru c) :=
  ⟨congrArg (fun u : State => u.setCru c) h.core, h.held, h.rest, h.state, h.op, h.pulse⟩

theorem ButPulse.setQueues {t s : State} (h : ButPulse t s) (q : List RegionQueue) :
    ButPulse (t.setQueues q) (s.setQueues q) :=
  ⟨congrArg (fun u : State => u.setQueues q) h.core, h.held, h.rest, h.state, h.op, h.pulse⟩

theorem ButPulse.unstall {t s : State} (h : ButPulse t s) : ButPulse (t.setStall none) (s.setStall none) :=
  ⟨congrArg (fun u : State => u.setStall none) h.core, h.held, h.rest, h.state, h.op, h.pulse⟩

theorem ButPulse.setMode {t s : State} (h : ButPulse t s) (m : Mode) (k : Nat) :
    ButPulse (t.setMc { t.mc with mode := m, clearIndex := k }) (s.setMc { s.mc with mode := m, clearIndex := k }) := by
  obtain ⟨hmc, hlog, hhost, hawake⟩ := h.rest
  refine ⟨?_, h.held, ⟨?_, hlog, hhost, hawake⟩, h.state, h.op, h.pulse⟩
  · exact congrArg (fun u : State => u.setMc { u.mc with mode := m, clearIndex := k }) h.core
  · rw [State.setMc_mc, State.setMc_mc, hmc]

theorem ButPulse.report {t s : State} (h : ButPulse t s) (f : FaultReport) : ButPulse (report f t) (report f s) := by
  obtain ⟨hmc, hlog, hhost, hawake⟩ := h.rest
  have htick : t.msTick = s.msTick := (congrArg State.msTick h.core : t.core.msTick = s.core.msTick)
  refine ⟨h.core, h.held, ⟨hmc, ?_, hhost, hawake⟩, h.state, h.op, h.pulse⟩
  change t.log.take f t.msTick = s.log.take f s.msTick
  rw [hlog, htick]

theorem ButPulse.setHost {t s : State} (h : ButPulse t s) (x : HostPort) : ButPulse (t.setHost x) (s.setHost x) := by
  obtain ⟨hmc, hlog, -, hawake⟩ := h.rest
  exact ⟨h.core, h.held, ⟨hmc, hlog, rfl, hawake⟩, h.state, h.op, h.pulse⟩

theorem ButPulse.complete {t s : State} (h : ButPulse t s) (e : Bool) (d : Option Word) :
    ButPulse (completeAccess e d t) (completeAccess e d s) := by
  obtain ⟨-, -, hhost, -⟩ := h.rest
  unfold completeAccess
  rw [hhost]
  split_ifs
  · exact h.setHost _
  · exact h.setHost _
  · exact h

theorem ButPulse.setReader {t s : State} (h : ButPulse t s) {x : Reader} (hx : x.state ≠ .eraseHold) :
    ButPulse (t.setReader x) (s.setReader x) :=
  ⟨congrArg (fun u : State => u.setReader { state := .idle, access := x.access }) h.core, by simp [hx], h.rest,
    h.state, h.op, h.pulse⟩

theorem ButPulse.setDirect {t s : State} (h : ButPulse t s) (x : Option DirectWrite) :
    ButPulse (t.setPort { t.port with direct := x }) (s.setPort { s.port with direct := x }) :=
  ⟨congrArg (fun u : State => u.setPort { u.port with direct := x }) h.core, h.held, h.rest, h.state, h.op, h.pulse⟩

theorem ButPulse.setHostClaim {t s : State} (h : ButPulse t s) (x : Option ArrayOp) :
    ButPulse (t.setPort { t.port with hostClaim := x }) (s.setPort { s.port with hostClaim := x }) :=
  ⟨congrArg (fun u : State => u.setPort { u.port with hostClaim := x }) h.core, h.held, h.rest, h.state, h.op, h.pulse⟩

theorem ButPulse.setEngClaim {t s : State} (h : ButPulse t s) (x : Option ArrayOp) :
    ButPulse (t.setPort { t.port with engClaim := x }) (s.setPort { s.port with engClaim := x }) :=
  ⟨congrArg (fun u : State => u.setPort { u.port with engClaim := x }) h.core, h.held, h.rest, h.state, h.op, h.pulse⟩

theorem ButPulse.ports {t s : State} (h : ButPulse t s) : t.port.direct = s.port.direct
    ∧ t.port.hostClaim = s.port.hostClaim ∧ t.port.engClaim = s.port.engClaim :=
  ⟨(congrArg (fun u : State => u.port.direct) h.core : t.core.port.direct = s.core.port.direct),
    (congrArg (fun u : State => u.port.hostClaim) h.core : t.core.port.hostClaim = s.core.port.hostClaim),
    (congrArg (fun u : State => u.port.engClaim) h.core : t.core.port.engClaim = s.core.port.engClaim)⟩

theorem ButPulse.countAttempt {t s : State} (h : ButPulse t s) (o : ArrayOp) :
    ButPulse (countAttempt o t) (countAttempt o s) := by
  have hengine : t.engine = s.engine := (congrArg State.engine h.core : t.core.engine = s.core.engine)
  unfold Machine.countAttempt
  split
  · rw [hengine]; exact h.setEngine _
  · rw [hengine]; exact h.setEngine _
  · rw [h.ports.1]; exact h.setDirect _
  · exact h

/-- What is granted in the one run is issued at once or waits as ARST# says; in the other it waits for the pulse. -/
theorem ButPulse.issueOp {t s : State} (h : ButPulse t s) (o : ArrayOp) : ButPulse (issueOp o t) (issueOp o s) := by
  have hcount := h.countAttempt o
  have hpulse : (t.port.arst == .inactive) = false := by rw [h.pulse.1]; rfl
  have hread : ∀ (x : RunningOp) (u v : State), x.issued = false → ButPulse u v → ButPulse (Machine.readIssued x u) v :=
    fun x u v hx huv => by
      unfold Machine.readIssued
      rw [if_neg (by simp [hx])]
      exact huv
  have hissued : ∀ (x : RunningOp) (u v : State), ButPulse u v → ButPulse u (Machine.readIssued x v) :=
    fun x u v huv => by
      unfold Machine.readIssued
      split_ifs with hc
      · have hwait : v.reader.state = .portWait := by simp only [Bool.and_eq_true, beq_iff_eq] at hc; exact hc.2
        have hheld : u.reader.state ≠ .eraseHold := fun he => by
          rw [huv.held.mp he] at hwait; exact absurd hwait (by simp)
        exact ⟨huv.core, ⟨fun he => absurd he hheld, fun he => absurd he (by simp)⟩, huv.rest, huv.state, huv.op, huv.pulse⟩
      · exact huv
  unfold Machine.issueOp
  dsimp only
  refine hread _ _ _ hpulse (hissued _ _ _ ?_)
  refine ⟨hcount.core, hcount.held, hcount.rest, rfl, ?_, hcount.pulse⟩
  simp only [State.setPort_port, Option.map_some, RunningOp.waiting, hpulse]

theorem ButPulse.grant {t s : State} (h : ButPulse t s) : ButPulse (grant t) (grant s) := by
  obtain ⟨-, hclaim, heng⟩ := h.ports
  unfold Machine.grant
  rw [h.state, hclaim, heng]
  split_ifs
  · split
    · exact h.issueOp _
    · split
      · exact h.issueOp _
      · exact h
  · exact h

theorem readIssued_port (x : RunningOp) (s : State) : (readIssued x s).port = s.port := by
  unfold readIssued; split_ifs <;> rfl

theorem issueOp_op (o : ArrayOp) (s : State) :
    (issueOp o s).port.op = some { op := o, timer := 0, issued := s.port.arst == .inactive } := by
  unfold issueOp; dsimp only; rw [readIssued_port]; rfl

theorem raiseHostClaim_host (o : ArrayOp) (s : State) : (raiseHostClaim o s).host = s.host := by
  unfold raiseHostClaim considerSuspend
  split_ifs <;> exact grant_host _

/-- A host claim, in both runs. -/
theorem ButPulseCalm.claim {t s : State} (h : ButPulseCalm t s) {o : ArrayOp} (ho : o.kind ≠ .erase) :
    ButPulseCalm (raiseHostClaim o t) (raiseHostClaim o s) := by
  obtain ⟨hbut, hnone, hcalm⟩ := h
  have hraised := hbut.setHostClaim (some o)
  have hcalm' : (raiseHostClaim o s).host.reselect = false := by rw [raiseHostClaim_host]; exact hcalm
  by_cases hfree : s.port.state = .free
  · rw [raiseHostClaim_free o hfree ho] at hcalm' ⊢
    rw [raiseHostClaim_free o (hbut.state.trans hfree) ho]
    refine ⟨hraised.issueOp o, fun x hx => ?_, hcalm'⟩
    rw [issueOp_op] at hx
    rw [← Option.some.inj hx]; exact ho
  · have hrunning : ∀ u : State, (∀ x, u.port.op = some x → x.op.kind ≠ .erase) → u.eraseRunning = false := by
      intro u hu
      unfold State.eraseRunning
      cases hop : u.port.op with
      | none => simp
      | some x => simp [hu x hop]
    have hnone' : ∀ x, t.port.op = some x → x.op.kind ≠ .erase := by
      intro x hx
      rw [hbut.op] at hx
      obtain ⟨y, hy, rfl⟩ := Option.map_eq_some_iff.mp hx
      exact hnone y hy
    rw [raiseHostClaim_waits o hfree (hrunning s hnone),
      raiseHostClaim_waits o (by rw [hbut.state]; exact hfree) (hrunning t hnone')]
    exact ⟨hraised, hnone, hcalm⟩

theorem accesses_butPulse : Accesses ButPulseCalm where
  core h := h.but.core
  held h := h.but.held
  report f h := ⟨h.but.report f, h.noErase, h.calm⟩
  complete {_ s} e d h := by
    obtain ⟨x, hx⟩ := completeAccess_eq e d s
    exact ⟨h.but.complete e d, by rw [hx]; exact h.noErase, (completeAccess_reselect e d s).trans h.calm⟩
  waits a h := ⟨h.but.setReader (by simp), h.noErase, h.calm⟩
  rests h := ⟨h.but.setReader (by simp), h.noErase, h.calm⟩
  claim o ho _ h := h.claim ho
  direct d h := ⟨h.but.setDirect d, h.noErase, h.calm⟩
  unclaim h := ⟨h.but.setHostClaim none, h.noErase, h.calm⟩

/-- The two runs read alike and stay related. -/
theorem sim_butPulse : Sim ButPulseCalm where
  core h := h.but.core
  setEngine e h := ⟨h.but.setEngine e, h.noErase, h.calm⟩
  setMap m h := ⟨h.but.setMap m, h.noErase, h.calm⟩
  setCru c h := ⟨h.but.setCru c, h.noErase, h.calm⟩
  setQueues q h := ⟨h.but.setQueues q, h.noErase, h.calm⟩
  setMode m k h := ⟨h.but.setMode m k, h.noErase, h.calm⟩
  unstall h := ⟨h.but.unstall, h.noErase, h.calm⟩
  report := accesses_butPulse.report
  complete := accesses_butPulse.complete
  engClaim o h := ⟨h.but.setEngClaim (some o), h.noErase, h.calm⟩
  holds x h := accesses_butPulse.releaseHolds h x

/-! ### The ends of the two events -/

theorem ButPulseCalm.finish {t s : State} (h : ButPulseCalm t s) : ButPulse (finish t) (finish s) := by
  obtain ⟨-, -, hhost, -⟩ := h.but.rest
  rw [finish_eq_settle h.calm, finish_eq_settle (by rw [hhost]; exact h.calm)]
  exact (sim_butPulse.selections h).but.grant

/-- The outputs follow the same facts in both. -/
theorem ButPulse.refresh {t s : State} (h : ButPulse t s) : ButPulse (refresh t) (refresh s) := by
  obtain ⟨hmc, hlog, hhost, hawake⟩ := h.rest
  have hqueues : t.queuesEmpty = s.queuesEmpty :=
    (congrArg State.queuesEmpty h.core : t.core.queuesEmpty = s.core.queuesEmpty)
  have hengine : t.engine = s.engine := (congrArg State.engine h.core : t.core.engine = s.core.engine)
  have hcru : t.cru = s.cru := (congrArg State.cru h.core : t.core.cru = s.core.cru)
  have hattn : t.attnFacts = s.attnFacts := by unfold State.attnFacts; rw [hawake, hlog, hmc]
  have hdrained : t.drainedFacts = s.drainedFacts := by
    unfold State.drainedFacts; rw [hawake, hmc, hqueues, hengine, hcru, h.ports.1]
  refine ⟨h.core, h.held, ⟨?_, ?_, hhost, hawake⟩, h.state, h.op, h.pulse⟩
  · change { t.mc with drained := t.drainedFacts } = { s.mc with drained := s.drainedFacts }
    rw [hmc, hdrained]
  · change { t.log with attn := t.attnFacts } = { s.log with attn := s.attnFacts }
    rw [hlog, hattn]

/-- What the two runs have in common at the end. -/
theorem ButPulse.same {t s : State} (h : ButPulse t s) : t.SameButPulse s := by
  obtain ⟨hmc, hlog, hhost, -⟩ := h.rest
  obtain ⟨hdirect, hclaim, heng⟩ := h.ports
  exact ⟨(congrArg State.engine h.core : t.core.engine = s.core.engine),
    (congrArg State.map h.core : t.core.map = s.core.map), (congrArg State.cru h.core : t.core.cru = s.core.cru), hmc, hlog,
    hhost, fun r => ⟨(congrArg (fun u : State => u.contents r) h.core : t.core.contents r = s.core.contents r),
      (congrArg (fun u : State => u.marked r) h.core : t.core.marked r = s.core.marked r)⟩, hdirect, hclaim, heng, h.state,
    h.op⟩

end Sys2Proof.Machine

/-! What a timeout leaves for its issuers (R102 to R106), the first in a row; beside a fail report at that time. -/

namespace Sys2Proof.Machine

/-! ### The two states that the outcome starts from -/

/-- The part after a first timeout: reported as `l`, the operations abandoned, ARST# pulsed, the port FREE. -/
def State.timedOut (s : State) (b : FlashBank) (l : FaultLog) : State :=
  ((s.setLog l).setFlash b).setPort
    { s.port with state := .free, op := none, inner := none, ackTimer := 0, suspCount := 0, consecutive := 1
                  arst := .pulse, arstTimer := 0 }

/-- The part at that time, with that report, after an end that the array reports. -/
def State.endedAt (s : State) (time : Nat) (b : FlashBank) (l : FaultLog) : State :=
  (((s.setTime time).setLog l).setFlash b).setPort
    { s.port with state := .free, op := none, inner := none, ackTimer := 0, suspCount := 0, consecutive := 0 }

/-- The fault log with the report of a timeout at a time. -/
def FaultLog.timedOut (l : FaultLog) (reason : FaultReason) (psec time : Nat) : FaultLog :=
  l.take { kind := .arrayTimeout, psec := some psec, reason := some reason } (BitVec.ofNat 32 (time / 1000))

theorem timeout_first_eq (reason : FaultReason) (psec : Nat) (f : State → State) {s : State} (h : s.port.consecutive = 0) :
    timeout reason psec f s = f (s.timedOut ((s.flash.abandoned s.port.inner).abandoned s.port.op)
      (s.log.timedOut reason psec s.time)) := by
  rw [timeout_first reason psec f h]
  rfl

/-- The ticks to the limit touch the timers alone. -/
theorem elapse_core (d : Nat) (s : State) : (elapse d s).core = (s.setTime (s.time + d)).core := by
  have hstall : (s.stall.map fun w => { w with timer := w.timer + d }).map StalledWrite.untimed
      = s.stall.map StalledWrite.untimed := by
    rw [Option.map_map]
    rfl
  change { s.core with time := s.time + d
                       stall := (s.stall.map fun w => { w with timer := w.timer + d }).map StalledWrite.untimed }
    = { s.core with time := s.time + d, stall := s.stall.map StalledWrite.untimed }
  rw [hstall]

/-- The outcome after the timeout runs beside the outcome after the report. -/
theorem timedOut_but (s : State) (d : Nat) (b b' : FlashBank) (l : FaultLog) (hres : s.host.reselect = false) :
    ButPulseCalm ((elapse d s).timedOut b l) (s.endedAt (s.time + d) b' l) where
  but := by
    refine ⟨?_, Iff.rfl, ⟨rfl, rfl, rfl, rfl⟩, rfl, rfl, ⟨rfl, rfl, rfl, rfl⟩⟩
    change (elapse d s).core = (s.setTime (s.time + d)).core
    exact elapse_core d s
  noErase x hx := by simp [State.endedAt] at hx
  calm := hres

/-! ### The outcomes -/

theorem ButPulseCalm.unclaimEngine {t s : State} (h : ButPulseCalm t s) :
    ButPulseCalm (t.setPort { t.port with engClaim := none }) (s.setPort { s.port with engClaim := none }) :=
  ⟨h.but.setEngClaim none, h.noErase, h.calm⟩

theorem ButPulseCalm.engineReadTimeout {t s : State} (h : ButPulseCalm t s) (o : ArrayOp) :
    ButPulseCalm (engineReadTimeout o t) (engineReadTimeout o s) := by
  unfold Machine.engineReadTimeout
  rw [sim_butPulse.engine h]
  split
  · exact sim_butPulse.tryFails h _
  · exact sim_butPulse.engClaim o h

theorem ButPulseCalm.engineOpTimeout {t s : State} (h : ButPulseCalm t s) (o : ArrayOp) :
    ButPulseCalm (engineOpTimeout o t) (engineOpTimeout o s) := by
  unfold Machine.engineOpTimeout
  split
  · exact h.engineReadTimeout o
  · exact sim_butPulse.engineProgramFail h o
  · exact sim_butPulse.engineEraseFail h o

theorem ButPulseCalm.issuerTimeout {t s : State} (h : ButPulseCalm t s) (o : ArrayOp) :
    ButPulseCalm (issuerTimeout o t) (issuerTimeout o s) := by
  unfold Machine.issuerTimeout
  split
  · exact sim_butPulse.endWaitingLoad (accesses_butPulse.endRead (accesses_butPulse.unclaim h) true 0xFFFF)
  · exact accesses_butPulse.directAttemptEnd h false
  · exact h.unclaimEngine.engineOpTimeout o
  · exact sim_butPulse.engClaim o h

/-- A timeout of a direct write's PROGRAM, or of an ERASE or PROGRAM of the engine, is a failed attempt. -/
theorem issuerTimeout_fails {o : ArrayOp}
    (h : o.issuer = .directWrite ∨ (o.issuer = .engine ∧ (o.kind = .program ∨ o.kind = .erase))) (s : State) :
    issuerTimeout o s = issuerEnd o false 0 s := by
  unfold issuerTimeout issuerEnd engineOpTimeout engineOpEnd
  rcases h with h | ⟨h, hk | hk⟩
  · simp only [h]
  · simp only [h, hk]
  · simp only [h, hk]

/-! ### The end of the event -/

/-- What the ends of the two events have in common, and what the timeout leaves of the port. -/
structure TimeoutSeen (T t u : State) : Prop where
  same  : t.SameButPulse u
  port  : t.port.consecutive = 1 ∧ t.port.arst = .pulse ∧ t.port.arstTimer = 0 ∧ t.port.inner = none
  outer : t.time = T.time ∧ t.flash = T.flash ∧ t.startup = T.startup

theorem ButPulseCalm.seen {T t s : State} (h : ButPulseCalm t s) (ho : t.outer = T.outer) :
    TimeoutSeen T (refresh (Machine.finish t)) (refresh (Machine.finish s)) := by
  have hbut := h.finish.refresh
  obtain ⟨harst, htimer, hcount, hinner⟩ := hbut.pulse
  refine ⟨hbut.same, ⟨hcount, harst, htimer, hinner⟩, ?_, ?_, ?_⟩
  · rw [refresh_time, finish_time]; exact congrArg Outer.time ho
  · rw [refresh_flash, finish_flash]; exact congrArg Outer.flash ho
  · rw [refresh_startup, finish_startup]; exact congrArg Outer.startup ho

theorem issuerTimeout_outer (o : ArrayOp) (s : State) : (issuerTimeout o s).outer = s.outer := by
  have hclosed := closed_outer s.outer
  unfold issuerTimeout
  split
  · exact hclosed.hostReadTimeout rfl
  · exact hclosed.directAttemptEnd rfl _
  · exact hclosed.engineOpTimeout (s := s.setPort { s.port with engClaim := none }) rfl _ (by simp [*, Issuer.ofHost])
  · rfl

/-- The end of the event of a timeout whose operations' issuers are `os`, in their order. -/
theorem timedOut_seen (s : State) (d : Nat) (b b' : FlashBank) (l : FaultLog) (hres : s.host.reselect = false)
    (o : ArrayOp) : TimeoutSeen ((elapse d s).timedOut b l)
      (refresh (finish (issuerTimeout o ((elapse d s).timedOut b l))))
      (refresh (finish (issuerTimeout o (s.endedAt (s.time + d) b' l)))) :=
  ((timedOut_but s d b b' l hres).issuerTimeout o).seen (issuerTimeout_outer o _)

/-! ### The limit of the operation of a RUNNING port (R102, R103) -/

theorem FlashBank.abandoned_passes (m : FlashBank) (x : RunningOp) (k d : Nat) :
    m.abandoned (some (x.passes k d)) = m.abandoned (some x) := rfl

/-- What is known of the flash when ARST# abandons an operation that was issued (R92). -/
theorem FlashBank.abandoned_issued {m : FlashBank} {x : RunningOp} (h : x.issued = true) :
    m.abandoned (some x) = if x.op.kind = .read then m else m.ended x.op false 0 := by
  unfold FlashBank.abandoned
  dsimp only
  rw [if_pos h]
  cases x.op.kind <;> rfl

theorem elapse_op {s : State} {x : RunningOp} (hstate : s.port.state = .running ∨ s.port.state = .suspending)
    (hop : s.port.op = some x) (d : Nat) : (elapse d s).port.op = some (x.passes s.port.arstTimer d) := by
  change (if s.port.state = .running ∨ s.port.state = .suspending then s.port.op.map (·.passes s.port.arstTimer d)
    else s.port.op) = _
  rw [if_pos hstate, hop]
  rfl

/-- The command, for the operation `x` of a RUNNING port. -/
theorem exec_operationTimeout {s : State} {x : RunningOp} (hawake : s.inReset = false) (hstate : s.port.state = .running)
    (hop : s.port.op = some x) : exec .operationTimeout s = .next (refresh (finish
      (timeout x.op.kind.reason x.op.psec (issuerTimeout x.op) (elapse (x.ticksLeft s.port.arstTimer) s)))) := by
  have hticks : s.ticksToOpLimit = x.ticksLeft s.port.arstTimer := by
    rw [State.ticksToOpLimit, if_pos hstate, hop]
    rfl
  have htaken : ∀ d, operationTimeoutTaken (elapse d s)
      = timeout x.op.kind.reason x.op.psec (issuerTimeout x.op) (elapse d s) := fun d => by
    rw [operationTimeoutTaken, if_pos (by exact hstate), elapse_op (.inl hstate) hop]
    rfl
  rw [exec_awake hawake (by simp) (by simp), effect, hticks, htaken]

theorem exec_firstTimeout {s : State} {x : RunningOp} (hawake : s.inReset = false) (hstate : s.port.state = .running)
    (hop : s.port.op = some x) (hinner : s.port.inner = none) (hcount : s.port.consecutive = 0) :
    exec .operationTimeout s = .next (refresh (finish (issuerTimeout x.op
      ((elapse (x.ticksLeft s.port.arstTimer) s).timedOut (s.flash.abandoned (some x))
        (s.log.timedOut x.op.kind.reason x.op.psec (s.time + x.ticksLeft s.port.arstTimer)))))) := by
  rw [exec_operationTimeout hawake hstate hop, timeout_first_eq _ _ _ (by exact hcount), elapse_op (.inl hstate) hop,
    FlashBank.abandoned_passes]
  have hnone : (elapse (x.ticksLeft s.port.arstTimer) s).port.inner = none := by
    change s.port.inner.map _ = none
    rw [hinner]
    rfl
  rw [hnone]
  rfl

end Sys2Proof.Machine

/-! Settles O52: the ARST# pulse, the wait for AREADY after it, and what the wait's limit does; with the entry into OFFLINE
that a second timeout in a row makes (R107, R167). -/

namespace Sys2Proof.Machine

/-! ### A second timeout in a row -/

/-- What the loss of the array leaves, `b` being what is known of the flash. -/
structure ArrayLost (w t : State) (b : FlashBank) : Prop where
  outer   : t.time = w.time ∧ t.flash = b ∧ t.startup = none
  mode    : t.mc.mode = .offline ∧ t.mc.drained = false
  port    : t.port = w.port.lost
  engine  : t.engine = { w.engine with stopped := true }
  stopped : t.reader = { state := .idle, access := none } ∧ t.stall = none
  log     : t.log.attn = true ∧ t.log.records = w.log.records
  kept    : t.map = w.map ∧ t.cru = w.cru ∧ ∀ r, t.contents r = w.contents r
  host    : ∀ p, w.host = HostPort.holds p → t.host = HostPort.presents p (if p.write then none else some 0xFFFF) true

/-- The part in OFFLINE, but for the status stream and the access that the host is held for. -/
def State.offline (w : State) (b : FlashBank) (x : StatusStream) : State :=
  ((((((w.setFlash b).setPort w.port.lost).setEngine { w.engine with stopped := true }).setStall none).setReader
    { state := .idle, access := none }).setStartup none).setStream x |>.setMc { w.mc with mode := .offline }

theorem enterOffline_eq (w : State) : ∃ x, enterOffline w = failHeldAccess (w.offline (abandonOps w).flash x) := by
  obtain ⟨b, hb⟩ : ∃ b, abandonOps w = w.setFlash b := ⟨_, rfl⟩
  have hstream : ∀ v : State, ∃ x, (if v.stream.running then v
      else v.setStream { running := true, position := none, sts := 0, stsync := false }) = v.setStream x := fun v => by
    split_ifs
    · exact ⟨v.stream, rfl⟩
    · exact ⟨_, rfl⟩
  obtain ⟨x, hx⟩ := hstream ((((((w.setFlash b).setPort w.port.lost).setEngine { w.engine with stopped := true }).setStall
    none).setReader { state := .idle, access := none }).setStartup none)
  refine ⟨x, ?_⟩
  unfold enterOffline State.offline
  rw [hb]
  dsimp only
  exact congrArg (fun v : State => failHeldAccess (v.setMc { v.mc with mode := .offline })) hx

theorem failHeldAccess_held {s : State} {p : HostPins} (h : s.host = HostPort.holds p) :
    failHeldAccess s = s.setHost (HostPort.presents p (if p.write then none else some 0xFFFF) true) := by
  have haccess : s.host.access = some p := by rw [h]; rfl
  unfold failHeldAccess
  rw [haccess]
  dsimp only
  split_ifs
  · rw [completeAccess_held h]
  · rw [failRead, completeAccess_held h]

theorem enterOffline_leaves {w : State} (hawake : w.inReset = false) (hres : w.host.reselect = false) :
    ArrayLost w (refresh (finish (enterOffline w))) (abandonOps w).flash := by
  obtain ⟨y, heq⟩ := enterOffline_eq w
  generalize (abandonOps w).flash = b at heq ⊢
  obtain ⟨u, hu⟩ : ∃ u, u = w.offline b y := ⟨_, rfl⟩
  rw [← hu] at heq
  have hmc : u.mc = { w.mc with mode := .offline } := by rw [hu]; rfl
  have hport : u.port = w.port.lost := by rw [hu]; rfl
  have hengine : u.engine = { w.engine with stopped := true } := by rw [hu]; rfl
  have hreader : u.reader = { state := .idle, access := none } := by rw [hu]; rfl
  have hkept : u.stall = none ∧ u.log = w.log ∧ u.map = w.map ∧ u.cru = w.cru ∧ u.queues = w.queues ∧ u.host = w.host
      ∧ u.time = w.time ∧ u.flash = b ∧ u.startup = none ∧ u.inReset = w.inReset := by
    simp [hu, State.offline]
  clear hu
  obtain ⟨hstall, hlog, hmap, hcru, hqueues, hhost, htime, hflash, hstartup, hreset⟩ := hkept
  obtain ⟨x, hx⟩ := failHeldAccess_eq u
  have hxres : x.reselect = false := by
    have hkept : (failHeldAccess u).host.reselect = u.host.reselect := by
      unfold failHeldAccess failRead
      split
      · split_ifs <;> exact completeAccess_reselect _ _ u
      · rfl
    rw [hx] at hkept
    exact hkept.trans (by rw [hhost]; exact hres)
  have hheld : ∀ p, w.host = HostPort.holds p → x = HostPort.presents p (if p.write then none else some 0xFFFF) true :=
    fun p hp => congrArg State.host (hx.symm.trans (failHeldAccess_held (hhost.trans hp)))
  have hfinish : finish (enterOffline w) = u.setHost x := by
    rw [heq, hx, finish_eq_settle (by exact hxres)]
    exact settle_offline (by rw [State.setHost_mc, hmc]) (by rw [State.setHost_port, hport]; rfl)
  rw [hfinish]
  refine ⟨⟨htime, hflash, hstartup⟩, ⟨?_, ?_⟩, hport, hengine, ⟨hreader, hstall⟩, ⟨?_, ?_⟩, ⟨hmap, hcru, fun r => ?_⟩, hheld⟩
  · change u.mc.mode = _
    rw [hmc]
  · change (u.setHost x).drainedFacts = false
    unfold State.drainedFacts
    rw [State.setHost_mc, hmc]
    simp
  · change (u.setHost x).attnFacts = true
    unfold State.attnFacts
    rw [State.setHost_mc, State.setHost_inReset, hmc, hreset, hawake]
    simp
  · change u.log.records = _
    rw [hlog]
  · change (u.queue r).map _ = _
    unfold State.contents State.queue
    rw [hqueues]

/-- The log after a second timeout in a row (R106). -/
def FaultLog.lostArray (l : FaultLog) (time : Nat) : FaultLog :=
  l.take { kind := .arrayLost } (BitVec.ofNat 32 (time / 1000))

/-- A further timeout in a row is reported, then the loss of the array. -/
theorem timeout_lost (reason : FaultReason) (psec : Nat) (f : State → State) {s : State} (h : 1 ≤ s.port.consecutive) :
    timeout reason psec f s = enterOffline ((s.setLog ((s.log.timedOut reason psec s.time).lostArray s.time)).setPort
      { s.port with consecutive := s.port.consecutive + 1 }) := by
  unfold timeout
  dsimp only
  rw [if_pos (by change 2 ≤ s.port.consecutive + 1; omega)]
  rfl

theorem exec_secondTimeout {s : State} {x : RunningOp} (hawake : s.inReset = false) (hstate : s.port.state = .running)
    (hop : s.port.op = some x) (hinner : s.port.inner = none) (hres : s.host.reselect = false)
    (hcount : 1 ≤ s.port.consecutive) : ∃ w t, exec .operationTimeout s = .next t
      ∧ ArrayLost w t (s.flash.abandoned (some x)) ∧ w.time = s.time + x.ticksLeft s.port.arstTimer
      ∧ w.log = (s.log.timedOut x.op.kind.reason x.op.psec (s.time + x.ticksLeft s.port.arstTimer)).lostArray
        (s.time + x.ticksLeft s.port.arstTimer)
      ∧ w.port.consecutive = s.port.consecutive + 1 ∧ w.engine = s.engine ∧ w.map = s.map ∧ w.cru = s.cru ∧ w.host = s.host
      ∧ ∀ r, w.contents r = s.contents r := by
  obtain ⟨v, hv, hflash, hrest⟩ : ∃ v, timeout x.op.kind.reason x.op.psec (issuerTimeout x.op)
        (elapse (x.ticksLeft s.port.arstTimer) s) = enterOffline v
      ∧ (abandonOps v).flash = (s.flash.abandoned (elapse (x.ticksLeft s.port.arstTimer) s).port.inner).abandoned
        (elapse (x.ticksLeft s.port.arstTimer) s).port.op
      ∧ v.inReset = s.inReset ∧ v.time = s.time + x.ticksLeft s.port.arstTimer
      ∧ v.log = (s.log.timedOut x.op.kind.reason x.op.psec (s.time + x.ticksLeft s.port.arstTimer)).lostArray
        (s.time + x.ticksLeft s.port.arstTimer)
      ∧ v.port.consecutive = s.port.consecutive + 1 ∧ v.engine = s.engine ∧ v.map = s.map ∧ v.cru = s.cru ∧ v.host = s.host
      ∧ ∀ r, v.contents r = s.contents r :=
    ⟨_, timeout_lost _ _ _ (by exact hcount), rfl, rfl, rfl, rfl, rfl, rfl, rfl, rfl, rfl, fun _ => rfl⟩
  obtain ⟨hreset, htime, hlog, hcount', hengine, hmap, hcru, hhost, hcontents⟩ := hrest
  have hnone : (elapse (x.ticksLeft s.port.arstTimer) s).port.inner = none := by
    change s.port.inner.map _ = none
    rw [hinner]
    rfl
  rw [hnone, elapse_op (.inl hstate) hop, FlashBank.abandoned_passes] at hflash
  have hlost := enterOffline_leaves (w := v) (hreset.trans hawake) (by rw [hhost]; exact hres)
  rw [hflash] at hlost
  exact ⟨v, _, (exec_operationTimeout hawake hstate hop).trans (by rw [hv]), hlost, htime, hlog, hcount', hengine, hmap, hcru,
    hhost, hcontents⟩

/-! ### A first timeout whose operation is claimed again -/

/-- Beside a port that is FREE for it, the engine's side claims the operation again, and it waits for the end of the pulse. -/
theorem claimedAgain {u : State} {o : ArrayOp} (hport : u.port.state = .free) (hclaim : u.port.hostClaim = none)
    (hpulse : u.port.arst = .pulse) (hbusy : u.maySelect = false) (hres : u.host.reselect = false)
    (ho : o.issuer = .startUp ∨ (o.issuer = .engine ∧ o.kind = .read)) : (refresh (finish (raiseEngineClaim o u))).port.state = .running
      ∧ (refresh (finish (raiseEngineClaim o u))).port.op = some { op := o, timer := 0, issued := false }
      ∧ (refresh (finish (raiseEngineClaim o u))).engine = u.engine
      ∧ (refresh (finish (raiseEngineClaim o u))).log.records = u.log.records
      ∧ (u.mc.mode ≠ .holding → (refresh (finish (raiseEngineClaim o u))).mc.mode = u.mc.mode) := by
  have hcount : ∀ v : State, countAttempt o v = v := fun v => by
    unfold countAttempt
    rcases ho with hi | ⟨hi, hk⟩
    · rw [hi]
    · rw [hi, hk]
  have hfinish : finish (raiseEngineClaim o u) = issueOp o (drain (raiseEngineClaim o u)) := by
    rw [finish_eq_settle (by exact hres), settle_of_busy (by exact hbusy), grant,
      if_pos (by rw [drain_port]; exact hport), drain_port]
    have hclaim' : (raiseEngineClaim o u).port.hostClaim = none := hclaim
    rw [hclaim']
    rfl
  have hissue : issueOp o (drain (raiseEngineClaim o u)) = (drain (raiseEngineClaim o u)).setPort
      { (drain (raiseEngineClaim o u)).port with
        state := .running, op := some { op := o, timer := 0, issued := false }
        suspCount := if o.kind = .erase then 0 else (drain (raiseEngineClaim o u)).port.suspCount } := by
    have hpulse' : ((drain (raiseEngineClaim o u)).port.arst == .inactive) = false := by
      rw [drain_port]
      change (u.port.arst == .inactive) = false
      rw [hpulse]
      rfl
    unfold issueOp readIssued
    dsimp only
    rw [hcount, hpulse', if_neg (by simp)]
  rw [hfinish, hissue]
  refine ⟨rfl, rfl, ?_, ?_, fun hmode => ?_⟩
  · exact drain_engine (raiseEngineClaim o u)
  · rw [refresh_records, State.setPort_log, drain_log]
    rfl
  · change (drain (raiseEngineClaim o u)).mc.mode = _
    rw [drain_of_mode (by exact hmode)]
    rfl

/-! ### The pins (R212) -/

/-- Table of R212: what a rise of AREADY reports. -/
theorem readReport_eq (s : State) (pins : ArrayPins) :
    (s.arstPin = true ↔ s.port.arst = .held ∨ (s.port.arst = .pulse ∧ s.port.arstTimer < 10))
    ∧ (s.port.arst = .pulse → s.readReport pins = if s.port.arstTimer < 10 then none else some .arstPulseEnd)
    ∧ (s.port.arst ≠ .pulse →
      (s.port.state = .free ∨ s.port.state = .stopped → s.readReport pins = none)
      ∧ (s.port.state = .suspending → s.readReport pins =
          if pins.asusp = true then some .suspendAcknowledgement else some (.arrayEraseEnd (!pins.afail)))
      ∧ ∀ x, (s.port.state = .running ∧ s.port.op = some x) ∨ (s.port.state = .suspended ∧ s.port.inner = some x) →
        s.readReport pins = if x.issued = true then some (pins.endOf x.op.kind) else none) := by
  have hpin : s.arstPin = true ↔ s.port.arst = .held ∨ (s.port.arst = .pulse ∧ s.port.arstTimer < 10) := by
    unfold State.arstPin arstLimit
    cases s.port.arst <;> simp
  have hissued : ∀ x : RunningOp, ((some x).filter (·.issued)).map (fun y => pins.endOf y.op.kind)
      = if x.issued = true then some (pins.endOf x.op.kind) else none := fun x => by
    rw [Option.filter_some]
    split_ifs <;> rfl
  refine ⟨hpin, fun hpulse => ?_, fun hquiet => ⟨fun hstate => ?_, fun hstate => ?_, fun x hstate => ?_⟩⟩
  · have hshort : s.arstPin = true ↔ s.port.arstTimer < 10 := by rw [hpin]; simp [hpulse]
    rw [State.readReport, if_pos hpulse]
    by_cases hlt : s.port.arstTimer < 10
    · rw [if_pos (hshort.mpr hlt), if_pos hlt]
    · rw [if_neg fun h => hlt (hshort.mp h), if_neg hlt]
  · rw [State.readReport, if_neg hquiet]
    rcases hstate with hstate | hstate <;> rw [hstate]
  · rw [State.readReport, if_neg hquiet, hstate]
    dsimp only
    split_ifs <;> rfl
  · rw [State.readReport, if_neg hquiet]
    rcases hstate with ⟨hstate, hx⟩ | ⟨hstate, hx⟩ <;> rw [hstate] <;> dsimp only <;> rw [hx, hissued]

/-! ### The end of the pulse (R212) -/

theorem elapse_zero (s : State) : elapse 0 s = s := by
  have hpasses : ∀ (x : RunningOp) k, x.passes k 0 = x := fun x k => by
    unfold RunningOp.passes
    rw [Nat.add_zero, Nat.sub_self, ite_self, Nat.add_zero]
  have hports : s.port.passes 0 = s.port := by
    unfold ArrayPort.passes
    simp only [hpasses, Option.map_id', Nat.add_zero, ite_self]
  unfold elapse
  rw [hports]
  simp

/-- Outside a pulse, and with nothing that waits for its end, AREADY high issues nothing (log entry 4). -/
theorem endPulse_quiet {s : State} (h : s.port.arst ≠ .pulse) : endPulse s = s := if_neg h

/-- AREADY high after the pulse. -/
theorem endPulse_pulse {s : State} (h : s.port.arst = .pulse) : endPulse s
    = match s.port.op with
      | some x => if x.issued then s.setPort { s.port with arst := .inactive, arstTimer := 0 }
        else considerSuspend (readIssued { x with issued := true } (s.setPort
          { s.port with arst := .inactive, arstTimer := 0, op := some { x with issued := true } }))
      | none => s.setPort { s.port with arst := .inactive, arstTimer := 0 } := by
  unfold endPulse
  rw [if_pos h]
  cases hop : s.port.op with
  | none => simp [hop]
  | some x =>
    have hop' : (s.setPort { s.port with arst := .inactive, arstTimer := 0 }).port.op = some x := hop
    dsimp only
    rw [hop']
    rfl

theorem exec_arstPulseEnd {s : State} (hawake : s.inReset = false) :
    exec .arstPulseEnd s = .next (refresh (finish (endPulse (elapse s.ticksToPulseEnd s)))) :=
  exec_awake hawake (by simp) (by simp)

theorem exec_arstPulseEnd_now {s : State} (hawake : s.inReset = false) (hticks : s.ticksToPulseEnd = 0) :
    exec .arstPulseEnd s = .next (refresh (finish (endPulse s))) := by
  rw [exec_arstPulseEnd hawake, hticks, elapse_zero]

/-- A rest that the port's operation and the read's state are no part of. -/
theorem State.Rests.ofClaims {s t : State} (h : s.Rests) (hengine : t.engine = s.engine) (hmc : t.mc = s.mc)
    (hcru : t.cru = s.cru) (hdue : t.dueRegion = s.dueRegion) (hqueues : t.queues = s.queues)
    (hhost : t.host = s.host) (hport : t.port.state = .free → s.port.state = .free)
    (hclaims : t.port.hostClaim = s.port.hostClaim ∧ t.port.engClaim = s.port.engClaim) : t.Rests := by
  obtain ⟨hwork, hdrain⟩ := h.idles.congr hengine hmc hcru hdue hqueues
  obtain ⟨-, -, hfree, hselect⟩ := h
  refine ⟨hwork, hdrain, fun hf => ?_, by rw [hhost]; exact hselect⟩
  rw [hclaims.1, hclaims.2]
  exact hfree (hport hf)

theorem next_of_rests {t : State} (h : t.Rests) : (.next (refresh (finish t)) : Result) = .next (refresh t) := by
  rw [finish_of_rests h]

/-- The third part of O52. -/
theorem pulseEnds {s : State} (hawake : s.inReset = false) (hrests : s.Rests) :
    (s.port.arst ≠ .pulse → exec .arstPulseEnd s = .next (refresh s))
    ∧ (s.port.arst = .pulse → s.port.arstTimer < 10 →
      exec .arstPulseEnd s = exec .arstPulseEnd (elapse (10 - s.port.arstTimer) s))
    ∧ (s.port.arst = .pulse → 10 ≤ s.port.arstTimer → s.port.op = none →
      exec .arstPulseEnd s = .next (refresh (s.setPort { s.port with arst := .inactive, arstTimer := 0 })))
    ∧ ∀ x, s.port.arst = .pulse → 10 ≤ s.port.arstTimer → s.port.op = some x → x.issued = false →
      (x.op.kind ≠ .erase → exec .arstPulseEnd s = .next (refresh
        ((s.setReader { s.reader with
            state := if x.op.issuer = .hostRead ∧ s.reader.state = .portWait then .reading else s.reader.state }).setPort
          { s.port with arst := .inactive, arstTimer := 0, op := some { x with issued := true } })))
      ∧ (x.op.kind = .erase → x.op.issuer = .engine → s.port.state = .running →
        exec .arstPulseEnd s = .next (refresh (s.setPort
          (if s.port.hostClaim.isSome = true ∧ s.port.suspCount < s.suspendLimit then
            { s.port with arst := .inactive, arstTimer := 0, op := some { x with issued := true }
                          state := .suspending, ackTimer := 0 }
          else { s.port with arst := .inactive, arstTimer := 0, op := some { x with issued := true } })))) := by
  have hover : 10 ≤ s.port.arstTimer → s.ticksToPulseEnd = 0 := fun h => by
    unfold State.ticksToPulseEnd arstLimit
    split_ifs
    · omega
    · rfl
  refine ⟨fun hquiet => ?_, fun hpulse hlt => ?_, fun hpulse hlong hop => ?_, fun x hpulse hlong hop hwaits =>
    ⟨fun hk => ?_, fun hk hissuer hstate => ?_⟩⟩
  · rw [exec_arstPulseEnd_now hawake (if_neg hquiet), endPulse_quiet hquiet, finish_of_rests hrests]
  · have hpulse' : (elapse (10 - s.port.arstTimer) s).port.arst = .pulse := hpulse
    have htimer : (elapse (10 - s.port.arstTimer) s).port.arstTimer = 10 := by
      change (if s.port.arst = .pulse then s.port.arstTimer + (10 - s.port.arstTimer) else s.port.arstTimer) = 10
      rw [if_pos hpulse]
      omega
    have hticks : (elapse (10 - s.port.arstTimer) s).ticksToPulseEnd = 0 := by
      rw [State.ticksToPulseEnd, if_pos hpulse', htimer]
      rfl
    have hticks' : s.ticksToPulseEnd = 10 - s.port.arstTimer := if_pos hpulse
    rw [exec_arstPulseEnd_now (s := elapse (10 - s.port.arstTimer) s) hawake hticks, exec_arstPulseEnd hawake, hticks']
  · have hrests' : (s.setPort { s.port with arst := .inactive, arstTimer := 0 }).Rests :=
      hrests.ofClaims rfl rfl rfl rfl rfl rfl id ⟨rfl, rfl⟩
    rw [exec_arstPulseEnd_now hawake (hover hlong), endPulse_pulse hpulse, hop]
    dsimp only
    rw [finish_of_rests hrests']
  · rw [exec_arstPulseEnd_now hawake (hover hlong), endPulse_pulse hpulse, hop]
    dsimp only
    rw [if_neg (by simp [hwaits])]
    have hread : readIssued { x with issued := true } (s.setPort
          { s.port with arst := .inactive, arstTimer := 0, op := some { x with issued := true } })
        = (s.setReader { s.reader with
            state := if x.op.issuer = .hostRead ∧ s.reader.state = .portWait then .reading else s.reader.state }).setPort
          { s.port with arst := .inactive, arstTimer := 0, op := some { x with issued := true } } := by
      unfold readIssued
      by_cases hw : x.op.issuer = .hostRead ∧ s.reader.state = .portWait
      · rw [if_pos (by simp [hw.1, hw.2]), if_pos hw]
        rfl
      · rw [if_neg (by simpa using hw), if_neg hw]
        rfl
    have hnone : ∀ v : State, v.port.op = some { x with issued := true } → considerSuspend v = v := fun v hv => by
      unfold considerSuspend State.eraseRunning
      rw [hv, if_neg (by simp [hk])]
    rw [hread, hnone _ (by rfl)]
    exact next_of_rests (hrests.ofClaims rfl rfl rfl rfl rfl rfl id ⟨rfl, rfl⟩)
  · rw [exec_arstPulseEnd_now hawake (hover hlong), endPulse_pulse hpulse, hop]
    dsimp only
    rw [if_neg (by simp [hwaits])]
    have hread : readIssued { x with issued := true } (s.setPort
          { s.port with arst := .inactive, arstTimer := 0, op := some { x with issued := true } })
        = s.setPort { s.port with arst := .inactive, arstTimer := 0, op := some { x with issued := true } } := by
      unfold readIssued
      rw [if_neg (by simp [hissuer])]
    have hrunning : (s.setPort { s.port with
        arst := .inactive, arstTimer := 0, op := some { x with issued := true } }).eraseRunning = true := by
      unfold State.eraseRunning
      simp [hstate, hk]
    rw [hread]
    unfold considerSuspend
    rw [hrunning, Bool.true_and]
    simp only [Bool.and_eq_true, decide_eq_true_eq]
    by_cases hclaim : s.port.hostClaim.isSome = true ∧ s.port.suspCount < s.suspendLimit
    · rw [if_pos (by exact hclaim), if_pos hclaim]
      exact next_of_rests (hrests.ofClaims rfl rfl rfl rfl rfl rfl PortState.noConfusion ⟨rfl, rfl⟩)
    · rw [if_neg (by exact hclaim), if_neg hclaim]
      exact next_of_rests (hrests.ofClaims rfl rfl rfl rfl rfl rfl id ⟨rfl, rfl⟩)

/-! ### The limit of an operation that waits (R102, R154, R212) -/

theorem abandoned_waiting (m : FlashBank) {x : RunningOp} (h : x.issued = false) : m.abandoned (some x) = m := by
  unfold FlashBank.abandoned
  dsimp only
  rw [if_neg (by simp [h])]

theorem elapse_waiting {s : State} {x : RunningOp} (hstate : s.port.state = .running) (hop : s.port.op = some x)
    (hwaits : x.issued = false) (d : Nat) : (elapse d s).port.op = some { x with
        timer := x.timer + (s.port.arstTimer + d - 10) - (s.port.arstTimer - 10) } := by
  have htimer : x.timer + (s.port.arstTimer + d - 10 - (s.port.arstTimer - 10))
      = x.timer + (s.port.arstTimer + d - 10) - (s.port.arstTimer - 10) := by omega
  rw [elapse_op (.inl hstate) hop, RunningOp.passes, if_neg (by simp [hwaits])]
  exact congrArg some (congrArg (fun k => ({ x with timer := k } : RunningOp)) htimer)

/-- The second part of O52. -/
theorem waitingTimeout {s : State} {x : RunningOp} (hawake : s.inReset = false) (hlawful : s.port.Lawful)
    (hres : s.host.reselect = false) (hstate : s.port.state = .running) (hop : s.port.op = some x)
    (hwaits : x.issued = false) :
    let time := s.time + (10 - s.port.arstTimer) + (opLimit x.op.kind - x.timer)
    let log := s.log.timedOut x.op.kind.reason x.op.psec time
    ∃ t, exec .operationTimeout s = .next t ∧ t.time = time ∧ t.flash = s.flash ∧ t.arstPin = true
      ∧ (s.port.consecutive = 0 → t.port.consecutive = 1 ∧ t.port.arst = .pulse ∧ t.port.arstTimer = 0
        ∧ (x.op.issuer = .startUp → s.mc.mode = .startup → s.port.hostClaim = none →
          t.startup = s.startup ∧ t.mc.mode = .startup ∧ t.log.records = log.records ∧ t.port.state = .running
          ∧ t.port.op = some { op := x.op, timer := 0, issued := false }))
      ∧ (s.port.consecutive = 1 → t.mc.mode = .offline ∧ t.port.state = .stopped ∧ t.startup = none
        ∧ t.log.records = (log.lostArray time).records) := by
  intro time log
  have hinner : s.port.inner = none := hlawful.2.2.2 (by simp [hstate])
  have htime : s.time + x.ticksLeft s.port.arstTimer = time := by
    rw [RunningOp.ticksLeft, if_neg (by simp [hwaits]), ← Nat.add_assoc]
    rfl
  have hflash : s.flash.abandoned (some x) = s.flash := abandoned_waiting s.flash hwaits
  rcases Nat.eq_zero_or_pos s.port.consecutive with hcount | hcount
  · have hexec := exec_firstTimeout hawake hstate hop hinner hcount
    have hseen := timedOut_seen s (x.ticksLeft s.port.arstTimer) s.flash s.flash
      (s.log.timedOut x.op.kind.reason x.op.psec (s.time + x.ticksLeft s.port.arstTimer)) hres x.op
    have hagain := fun hi hmode hclaim => claimedAgain (o := x.op)
      (u := (elapse (x.ticksLeft s.port.arstTimer) s).timedOut s.flash log) rfl
      (by exact (hclaim : s.port.hostClaim = none)) rfl
      (by
        have hmode' : s.mc.mode = .startup := hmode
        change s.maySelect = false
        unfold State.maySelect
        rw [hmode']
        simp) hres (.inl hi)
    rw [hflash, htime] at hexec
    rw [htime] at hseen
    have hstartup : x.op.issuer = .startUp → issuerTimeout x.op
        ((elapse (x.ticksLeft s.port.arstTimer) s).timedOut s.flash log)
      = raiseEngineClaim x.op ((elapse (x.ticksLeft s.port.arstTimer) s).timedOut s.flash log) := fun hi => by
      unfold issuerTimeout
      rw [hi]
    obtain ⟨-, ⟨hcount', harst, htimer, -⟩, ht, hf, hs⟩ := hseen
    refine ⟨_, hexec, ht.trans htime, hf, ?_, fun _ => ⟨hcount', harst, htimer, fun hi hmode hclaim => ?_⟩,
      fun h1 => by omega⟩
    · unfold State.arstPin
      rw [harst, htimer]
      rfl
    · obtain ⟨hrunning, hop', -, hlog, hmode'⟩ := hagain hi hmode hclaim
      rw [← hstartup hi] at hrunning hop' hlog hmode'
      exact ⟨hs, (hmode' (by change s.mc.mode ≠ .holding; simp [hmode])).trans hmode, hlog, hrunning, hop'⟩
  · obtain ⟨w, t, hexec, ⟨⟨ht, hf, hs⟩, ⟨hmode, -⟩, hport, -, -, ⟨-, hlog⟩, -⟩, hwt, hwl, -⟩ :=
      exec_secondTimeout hawake hstate hop hinner hres hcount
    rw [htime] at hwt hwl
    have hheld : t.port.arst = .held ∧ t.port.state = .stopped := by rw [hport]; exact ⟨rfl, rfl⟩
    refine ⟨t, hexec, ht.trans hwt, hf.trans hflash, ?_, fun h0 => by omega, fun _ => ⟨hmode, hheld.2, hs, ?_⟩⟩
    · unfold State.arstPin
      rw [hheld.1]
    · rw [hlog, hwl]

/-- Settles O52: the pins, the limit of an operation that waits, and the end of the pulse. -/
theorem pulseEndIssuesWaitingOperation : Obligations.PulseEndIssuesWaitingOperation := by
  refine ⟨fun s pins => ?_, fun s x hawake hlawful hres hpulse hstate hop hwaits => ?_, fun s hawake hrests =>
    pulseEnds hawake hrests⟩
  · obtain ⟨hpin, hreport, hquiet⟩ := readReport_eq s pins
    refine ⟨hpin, hreport, fun hne => ?_⟩
    obtain ⟨hfree, hsuspending, hissued⟩ := hquiet hne
    refine ⟨hfree, hsuspending, fun x hx => (hissued x hx).trans ?_⟩
    congr 2
  · refine ⟨elapse_waiting hstate hop hwaits, fun _ => ?_⟩
    exact waitingTimeout hawake hlawful hres hstate hop hwaits

end Sys2Proof.Machine

/-! Settles O50: the limit of an issued operation of a RUNNING port, by its issuer and by the timeouts before it. -/

namespace Sys2Proof.Machine

theorem RunningOp.ticksLeft_issued {x : RunningOp} (h : x.issued = true) (k : Nat) :
    x.ticksLeft k = opLimit x.op.kind - x.timer := by
  rw [RunningOp.ticksLeft, if_pos h, Nat.zero_add]

/-- What ARST# leaves of the flash when it abandons an issued operation (R92). -/
theorem FlashBank.read_abandoned_issued {m : FlashBank} {x : RunningOp} (h : x.issued = true) (a : Nat) :
    (m.abandoned (some x)).read a = match x.op.kind with
      | .read => m.read a
      | .program => if a = x.op.word then (m.read a).halfProgrammed x.op.value else m.read a
      | .erase => if a / 2048 = x.op.psec then FlashWord.unknown else m.read a := by
  rw [FlashBank.read_abandoned]
  cases hk : x.op.kind with
  | read => simp
  | program => simp [h, eq_comm]
  | erase => simp [h, eq_comm]

section Timeout

variable {s : State} {x : RunningOp} (hruns : s.Runs x) (hlawful : s.port.Lawful) (hres : s.host.reselect = false)

/-- The part as a first timeout of `x` leaves it for its issuer. -/
def State.firstTimeout (s : State) (x : RunningOp) : State :=
  (elapse (opLimit x.op.kind - x.timer) s).timedOut (s.flash.abandoned (some x))
    (s.log.timedOut x.op.kind.reason x.op.psec (s.time + (opLimit x.op.kind - x.timer)))

include hruns hlawful in
theorem exec_runningTimeout (hcount : s.port.consecutive = 0) :
    exec .operationTimeout s = .next (refresh (finish (issuerTimeout x.op (s.firstTimeout x)))) := by
  obtain ⟨hawake, hstate, hop, hissued⟩ := hruns
  have hexec := exec_firstTimeout hawake hstate hop (hlawful.2.2.2 (by simp [hstate])) hcount
  rw [RunningOp.ticksLeft_issued hissued] at hexec
  exact hexec

/-- The part at that time with that report, after the end of `x`. -/
def State.endedInTime (s : State) (x : RunningOp) (b : FlashBank) : State :=
  s.endedAt (s.time + (opLimit x.op.kind - x.timer)) b
    (s.log.timedOut x.op.kind.reason x.op.psec (s.time + (opLimit x.op.kind - x.timer)))

include hres in
/-- The two ends of events, of the timeout and of a report at its time. -/
theorem firstTimeout_seen (b : FlashBank) : TimeoutSeen (s.firstTimeout x)
    (refresh (finish (issuerTimeout x.op (s.firstTimeout x))))
    (refresh (finish (issuerTimeout x.op (s.endedInTime x b)))) :=
  timedOut_seen s (opLimit x.op.kind - x.timer) (s.flash.abandoned (some x)) b
    (s.log.timedOut x.op.kind.reason x.op.psec (s.time + (opLimit x.op.kind - x.timer))) hres x.op

/-- What the issuer finds. -/
structure State.TimedOut (s : State) (x : RunningOp) (T : State) : Prop where
  port   : T.port = { s.port with state := .free, op := none, inner := none, ackTimer := 0, suspCount := 0, consecutive := 1
                                  arst := .pulse, arstTimer := 0 }
  engine : T.engine = s.engine ∧ T.map = s.map ∧ T.cru = s.cru ∧ T.mc = s.mc ∧ T.image = s.image ∧ T.startup = s.startup
  host   : T.host = s.host ∧ T.reader = s.reader
  queues : T.queues = s.queues
  log    : T.log = s.log.timedOut x.op.kind.reason x.op.psec (s.time + (opLimit x.op.kind - x.timer))
  flash  : T.flash = s.flash.abandoned (some x)
  time   : T.time = s.time + (opLimit x.op.kind - x.timer)

theorem firstTimeout_leaves (s : State) (x : RunningOp) : s.TimedOut x (s.firstTimeout x) :=
  ⟨rfl, ⟨rfl, rfl, rfl, rfl, rfl, rfl⟩, ⟨rfl, rfl⟩, rfl, rfl, rfl, rfl⟩

end Timeout

/-! ### A host read (R61) -/

/-- The part when the host has had the outcome of a READ that timed out. -/
def State.readTimedOut (s : State) (p : HostPins) : State :=
  ((s.setPort { s.port with hostClaim := none }).setReader { state := .idle, access := none }).setHost
    (HostPort.presents p (some 0xFFFF) true)

theorem hostReadTimeout_held {s : State} {p : HostPins} (h : s.host = HostPort.holds p) :
    hostReadTimeout s = endWaitingLoad (s.readTimedOut p) := by
  unfold hostReadTimeout endRead
  rw [completeAccess_held (by exact h)]
  rfl

/-- The end of the event of a READ that timed out. -/
theorem readTimeout_ends {s T : State} {x : RunningOp} {p : HostPins} {y : ReadAccess} (hT : s.TimedOut x T)
    (hreads : s.Reads p y) (hop : x.op = y.op) (hgen : s.cru.generation < generationLimit) :
    let t := refresh (finish (issuerTimeout x.op T))
    t.host = HostPort.presents p (some 0xFFFF) true ∧ t.reader = { state := .idle, access := none }
      ∧ t.port.hostClaim = none
      ∧ (s.endOfLoadWaits = false → (∀ r, t.contents r = s.contents r) ∧ t.log.records
        = (s.log.timedOut x.op.kind.reason x.op.psec (s.time + (opLimit x.op.kind - x.timer))).records)
      ∧ (s.AwaitsRetirement → s.Retires t) := by
  intro t
  obtain ⟨-, hhost, -, hdirect, -⟩ := hreads
  have hTdirect : T.port.direct = none := by rw [hT.port]; exact hdirect
  have hTeng : T.port.engClaim = s.port.engClaim := by rw [hT.port]
  have hout : t = refresh (finish (endWaitingLoad (T.readTimedOut p))) := by
    have hissuer : issuerTimeout x.op T = hostReadTimeout T := by rw [hop]; rfl
    exact congrArg (fun u => refresh (finish u)) (hissuer.trans (hostReadTimeout_held (hT.host.1.trans hhost)))
  clear_value t
  subst hout
  have hkept : (T.readTimedOut p).engine = T.engine ∧ (T.readTimedOut p).map = T.map ∧ (T.readTimedOut p).image = T.image
      ∧ (T.readTimedOut p).queues = T.queues ∧ (T.readTimedOut p).cru = T.cru ∧ (T.readTimedOut p).log = T.log
      ∧ (T.readTimedOut p).port.direct = T.port.direct ∧ (T.readTimedOut p).port.engClaim = T.port.engClaim := by
    simp [State.readTimedOut]
  have hanswered : (T.readTimedOut p).Answered (HostPort.presents p (some 0xFFFF) true) { T.port with hostClaim := none } :=
    ⟨rfl, by simp [HostPort.presents], rfl, ⟨T.port.engClaim, rfl⟩, hTdirect, rfl⟩
  generalize T.readTimedOut p = v at hkept hanswered
  obtain ⟨hengine, hmap, himage, hqueues, hcru, hlog, hdir, heng⟩ := hkept
  obtain ⟨hTengine, hTmap, hTcru, -, hTimage, -⟩ := hT.engine
  have hcalm : v.host.reselect = false := by rw [hanswered.host]; rfl
  have hcalm' : (endWaitingLoad v).host.reselect = false := by rw [hanswered.endWaitingLoad.host]; rfl
  have hwaits : v.endOfLoadWaits = s.endOfLoadWaits := by
    unfold State.endOfLoadWaits
    rw [hengine, hTengine, heng, hTeng]
  obtain ⟨h1, h2, h3, -, -⟩ := hanswered.endWaitingLoad.settled
  rw [← finish_eq_settle hcalm'] at h1 h2 h3
  rw [refresh_host, refresh_reader, refresh_port]
  refine ⟨h1, h2, h3, fun hno => ?_, fun ⟨hload, hitem, hretires⟩ => ?_⟩
  · have hnone : endWaitingLoad v = v := if_neg (by rw [hwaits, hno]; simp)
    rw [hnone, finish_eq_settle hcalm]
    refine ⟨fun r => ?_, ?_⟩
    · rw [refresh_contents, settle_contents]
      unfold State.contents State.queue
      rw [hqueues, hT.queues]
    · rw [refresh_records, settle_reportsNone (by rw [hcru, hTcru]; exact hgen) (hdir.trans hTdirect), hlog, hT.log]
  · have hretires' : v.loadRetires = true := by
      unfold State.loadRetires State.hasRoom State.lowestFree State.spareCount at hretires ⊢
      rw [hengine, hTengine, hmap, hTmap, himage, hTimage]
      exact hretires
    have hends : endWaitingLoad v = endOfLoad v := if_pos (by rw [hwaits, hload])
    have hsector : v.engine.sector = s.engine.sector := by rw [hengine, hTengine]
    obtain ⟨⟨hended, hremap⟩, -⟩ := endOfLoad_retired (by rw [hengine, hTengine, hitem]) hretires' hcalm
    rw [hmap, hTmap, hsector] at hremap
    rw [hends]
    exact ⟨hended.congr (by rw [hengine, hTengine]) (by rw [hengine, hTengine]) hsector, hremap⟩

/-! ### A PROGRAM or an ERASE (R103, R109) -/

/-- The fail report of `x` in the state with the report of its timeout. -/
theorem exec_failReport {s : State} {x : RunningOp} (hruns : s.Runs x) {c : Instr}
    (hc : (c = .arrayProgramEnd false ∧ x.op.kind = .program) ∨ (c = .arrayEraseEnd false ∧ x.op.kind = .erase))
    (hissuer : x.op.issuer = .engine ∨ x.op.issuer = .directWrite) (time : Nat) (l : FaultLog) :
    exec c ((s.setTime time).setLog l)
      = .next (refresh (finish (issuerTimeout x.op (s.endedAt time (s.flash.ended x.op false 0) l)))) := by
  have hruns' : ((s.setTime time).setLog l).Runs x := hruns
  have hfails : issuerTimeout x.op (s.endedAt time (s.flash.ended x.op false 0) l)
      = issuerEnd x.op false 0 (((s.setTime time).setLog l).opEnded x false 0) := by
    rw [issuerTimeout_fails]
    · rfl
    · rcases hissuer with hi | hi
      · exact .inr ⟨hi, hc.imp (·.2) (·.2)⟩
      · exact .inl hi
  rw [hfails]
  rcases hc with ⟨rfl, hk⟩ | ⟨rfl, hk⟩
  · exact exec_arrayProgramEnd hruns' hk false
  · exact exec_arrayEraseEnd hruns' hk false

/-! ### A READ of the engine or of start-up (R82, R88, R149) -/

theorem readTimeout_again {s T : State} {x : RunningOp} (hT : s.TimedOut x T) (hres : s.host.reselect = false)
    (hk : x.op.kind = .read) (hclaim : s.port.hostClaim = none) (hissuer : (x.op.issuer = .engine
      ∧ (s.engine.phase = .gather ∨ s.engine.phase = .load)) ∨ (x.op.issuer = .startUp ∧ s.mc.mode = .startup)) :
    let t := refresh (finish (issuerTimeout x.op T))
    t.port.state = .running ∧ t.port.op = some { op := x.op, timer := 0, issued := false } ∧ t.engine = s.engine
      ∧ t.log.records = (s.log.timedOut x.op.kind.reason x.op.psec (s.time + (opLimit x.op.kind - x.timer))).records
      ∧ (s.mc.mode ≠ .holding → t.mc.mode = s.mc.mode) := by
  intro t
  obtain ⟨hTengine, -, -, hTmc, -, -⟩ := hT.engine
  obtain ⟨u, hu, hengine, hmc, hlog, hhost, hport⟩ : ∃ u, issuerTimeout x.op T = raiseEngineClaim x.op u
      ∧ u.engine = T.engine ∧ u.mc = T.mc ∧ u.log = T.log ∧ u.host = T.host
      ∧ u.port.state = T.port.state ∧ u.port.hostClaim = T.port.hostClaim ∧ u.port.arst = T.port.arst := by
    rcases hissuer with ⟨hi, hp⟩ | ⟨hi, -⟩
    · refine ⟨T.setPort { T.port with engClaim := none }, ?_, rfl, rfl, rfl, rfl, rfl, rfl, rfl⟩
      unfold issuerTimeout engineOpTimeout engineReadTimeout
      simp only [hi, hk, State.setPort_engine, hTengine]
      rcases hp with hp | hp <;> rw [hp]
    · refine ⟨T, ?_, rfl, rfl, rfl, rfl, rfl, rfl, rfl⟩
      unfold issuerTimeout
      rw [hi]
  have hbusy : u.maySelect = false := by
    unfold State.maySelect
    rw [hengine, hTengine, hmc, hTmc]
    rcases hissuer with ⟨-, hp | hp⟩ | ⟨-, hp⟩ <;> simp [hp]
  obtain ⟨hstate, hclaim', harst⟩ := hport
  have hagain := claimedAgain (u := u) (o := x.op) (hstate.trans (by rw [hT.port])) (hclaim'.trans (by rw [hT.port]; exact hclaim))
    (harst.trans (by rw [hT.port])) hbusy (by rw [hhost, hT.host.1]; exact hres)
    (hissuer.elim (fun h => .inr ⟨h.1, hk⟩) fun h => .inl h.1)
  rw [hengine, hTengine, hlog, hT.log, hmc, hTmc, ← hu] at hagain
  exact hagain

/-- A READ of CONTROL_VERIFY that times out ends the try as a wrong word does. -/
theorem exec_wrongWord {s : State} {x : RunningOp} (hruns : s.Runs x) (hk : x.op.kind = .read)
    (hissuer : x.op.issuer = .engine) (hphase : s.engine.phase = .controlVerify) {w : Word}
    (hw : s.engine.record[s.engine.cursor]? ≠ some w) (time : Nat) (l : FaultLog) :
    exec (.arrayReadEnd w) ((s.setTime time).setLog l)
      = .next (refresh (finish (issuerTimeout x.op (s.endedAt time (s.flash.ended x.op true w) l)))) := by
  have hruns' : ((s.setTime time).setLog l).Runs x := hruns
  have hwrong : issuerEnd x.op true w (((s.setTime time).setLog l).opEnded x true w)
      = issuerTimeout x.op (s.endedAt time (s.flash.ended x.op true w) l) := by
    rw [issuerEnd_engine hissuer]
    have hphase' : (((s.setTime time).setLog l).engineEnded x true w).engine.phase = .controlVerify := hphase
    have hphase'' : ((s.endedAt time (s.flash.ended x.op true w) l).setPort
      { (s.endedAt time (s.flash.ended x.op true w) l).port with engClaim := none }).engine.phase = .controlVerify := hphase
    simp only [engineOpEnd, issuerTimeout, engineOpTimeout, hissuer, hk, engineReadEnd, hphase', engineReadTimeout, hphase'']
    unfold verifyRead
    rw [if_neg (by exact hw)]
    rfl
  rw [exec_arrayReadEnd hruns' hk, hwrong]

/-- Settles O50: the first timeout by its issuer, and the second in a row. -/
theorem readTimeoutsLoseTheArray : Obligations.ReadTimeoutsLoseTheArray := by
  intro s x hruns hlawful hres limit time tick log again quiet _
  refine ⟨fun hcount => ?_, fun hcount => ?_⟩
  · have hexec := exec_runningTimeout hruns hlawful hcount
    have hT := firstTimeout_leaves s x
    have hseen := firstTimeout_seen (s := s) (x := x) hres
    generalize s.firstTimeout x = T at hexec hT hseen
    obtain ⟨-, ⟨hconsecutive, harst, -⟩, htime, hflash, hstartup⟩ := hseen s.flash
    have hread : x.op.kind = .read → s.flash.abandoned (some x) = s.flash := fun hk => by
      rw [FlashBank.abandoned_issued hruns.2.2.2, if_pos hk]
    refine ⟨_, hexec, htime.trans hT.time, hconsecutive, harst, fun p y hreads hop ⟨_, hgen⟩ => ?_,
      fun c hc hissuer => ?_, fun hk hclaim => ⟨fun hi hp => ?_, fun hi hm => ?_, fun w hi hp hw => ?_⟩⟩
    · obtain ⟨hhost, hreader, hclaim, hloads, hretires⟩ := readTimeout_ends hT hreads hop hgen
      refine ⟨hhost, hreader, ?_, hclaim, hloads, hretires⟩
      rw [hflash, hT.flash, hread (by rw [hop]; rfl)]
    · obtain ⟨⟨h1, h2, h3, h4, h5, h6, h7, h8, h9, h10, h11, h12⟩, -⟩ := hseen (s.flash.ended x.op false 0)
      have hended : s.flash.abandoned (some x) = s.flash.ended x.op false 0 := by
        rw [FlashBank.abandoned_issued hruns.2.2.2, if_neg]
        rcases hc with ⟨-, hk⟩ | ⟨-, hk⟩ <;> simp [hk]
      refine ⟨_, exec_failReport hruns hc hissuer time log, h1, h2, h3, h4, h5, ?_, h6, h7, h8, h9, h10, h11, h12⟩
      rw [hflash, hT.flash, hended, refresh_flash, finish_flash]
      exact (congrArg Outer.flash (issuerTimeout_outer x.op (s.endedAt time (s.flash.ended x.op false 0) log))).symm
    · obtain ⟨h1, h2, h3, h4, -⟩ := readTimeout_again hT hres hk hclaim (.inl ⟨hi, hp⟩)
      exact ⟨⟨h1, h2⟩, h3, by rw [hflash, hT.flash, hread hk], h4⟩
    · obtain ⟨h1, h2, -, h4, h5⟩ := readTimeout_again hT hres hk hclaim (.inr ⟨hi, hm⟩)
      exact ⟨⟨h1, h2⟩, hstartup.trans hT.engine.2.2.2.2.2, (h5 (by simp [hm])).trans hm, h4⟩
    · obtain ⟨⟨h1, -, h3, -, h5, -, -, -, -, -, -, h12⟩, -⟩ := hseen (s.flash.ended x.op true w)
      refine ⟨_, exec_wrongWord hruns hk hi hp hw time log, h1, h3, h5, ?_, h12⟩
      rw [hflash, hT.flash, hread hk]
  · obtain ⟨hawake, hstate, hop, hissued⟩ := hruns
    obtain ⟨w, t, hexec, ⟨⟨ht, hf, hs⟩, ⟨hmode, hdrained⟩, hport, hengine, ⟨hreader, hstall⟩, ⟨hattn, hlog⟩,
      ⟨hmap, hcru, hcontents⟩, hhost⟩, hwt, hwl, hwc, hwe, hwm, hwu, hwh, hwq⟩ :=
      exec_secondTimeout hawake hstate hop (hlawful.2.2.2 (by simp [hstate])) hres hcount.ge
    rw [RunningOp.ticksLeft_issued hissued] at hwt hwl
    rw [hwe] at hengine
    refine ⟨t, hexec, ht.trans hwt, hmode, ?_, ?_, ?_, ?_, ?_, ?_, ?_, hstall, hs, hengine, hreader, hdrained, hattn, ?_,
      hmap.trans hwm, hcru.trans hwu, fun r => (hcontents r).trans (hwq r), fun a => ?_, fun p hp => hhost p (hwh.trans hp)⟩
    · rw [hport]; rfl
    · rw [hport]
      change w.port.consecutive = 2
      rw [hwc, hcount]
    · rw [hport]; rfl
    · unfold State.arstPin
      rw [hport]
      rfl
    · rw [hport]; rfl
    · rw [hport]; rfl
    · rw [hport]; rfl
    · rw [hlog, hwl]
      rfl
    · rw [hf]
      exact FlashBank.read_abandoned_issued hissued a

end Sys2Proof.Machine

/-! Settles O51: the timeouts of a suspension, beside the fail report of its erase. -/

namespace Sys2Proof.Machine

/-! ### The two commands (R104, R105) -/

/-- The operation kind that the report of a suspend limit names (R104). -/
def suspendReason : SuspendLimit → FaultReason
  | .acknowledgement => .suspend
  | .eraseTime => .erase

/-- The part as the limit of a SUSPENDING port leaves it for the erase's issuer. -/
def State.suspendTimedOut (s : State) (limit : SuspendLimit) (e : RunningOp) : State :=
  (elapse (s.ticksToSuspendLimit limit) s).timedOut (s.flash.abandoned (some e))
    (s.log.timedOut (suspendReason limit) e.op.psec (s.time + s.ticksToSuspendLimit limit))

theorem exec_suspendTimeout {s : State} {e : RunningOp} (hawake : s.inReset = false) (hstate : s.port.state = .suspending)
    (hop : s.port.op = some e) (hlawful : s.port.Lawful) (hcount : s.port.consecutive = 0) (limit : SuspendLimit) :
    exec (.suspendTimeout limit) s
      = .next (refresh (finish (issuerTimeout e.op (s.suspendTimedOut limit e)))) := by
  have hinner : s.port.inner = none := hlawful.2.2.2 (by simp [hstate])
  have hnone : ∀ d, (elapse d s).port.inner = none := fun d => by
    change s.port.inner.map _ = none
    rw [hinner]
    rfl
  have htaken : ∀ d, suspendTimeoutTaken limit (elapse d s)
      = timeout (suspendReason limit) e.op.psec (issuerTimeout e.op) (elapse d s) := fun d => by
    unfold suspendTimeoutTaken
    rw [if_pos (by exact hstate), elapse_op (.inr hstate) hop]
    cases limit <;> rfl
  rw [exec_awake hawake (by simp) (by simp), effect, htaken, timeout_first_eq _ _ _ (by exact hcount),
    elapse_op (.inr hstate) hop, FlashBank.abandoned_passes, hnone]
  rfl

/-- The part as the limit of the inner operation leaves it for the issuers of both. -/
def State.innerTimedOut (s : State) (e y : RunningOp) : State :=
  (elapse (y.ticksLeft s.port.arstTimer) s).timedOut ((s.flash.abandoned (some y)).abandoned (some e))
    (s.log.timedOut y.op.kind.reason y.op.psec (s.time + y.ticksLeft s.port.arstTimer))

theorem exec_innerTimeout {s : State} {e y : RunningOp} (hawake : s.inReset = false) (hstate : s.port.state = .suspended)
    (hop : s.port.op = some e) (hinner : s.port.inner = some y) (hcount : s.port.consecutive = 0) :
    exec .innerOperationTimeout s
      = .next (refresh (finish (issuerTimeout e.op (issuerTimeout y.op (s.innerTimedOut e y))))) := by
  have hop' : ∀ d, (elapse d s).port.op = some e := fun d => by
    change (if s.port.state = .running ∨ s.port.state = .suspending then s.port.op.map _ else s.port.op) = some e
    rw [if_neg (by simp [hstate]), hop]
  have hinner' : ∀ d, (elapse d s).port.inner = some (y.passes s.port.arstTimer d) := fun d => by
    change s.port.inner.map _ = _
    rw [hinner]
    rfl
  have hticks : s.ticksToInnerLimit = y.ticksLeft s.port.arstTimer := by
    rw [State.ticksToInnerLimit, if_pos hstate, hinner]
    rfl
  have htaken : ∀ d, innerTimeoutTaken (elapse d s) = timeout y.op.kind.reason y.op.psec
      (fun t => issuerTimeout e.op (issuerTimeout y.op t)) (elapse d s) := fun d => by
    rw [innerTimeoutTaken, if_pos (by exact hstate), hop', hinner']
    rfl
  rw [exec_awake hawake (by simp) (by simp), effect, hticks, htaken, timeout_first_eq _ _ _ (by exact hcount), hop', hinner',
    FlashBank.abandoned_passes]
  rfl

/-! ### Beside the fail report of the erase -/

/-- The fail report of an erase that runs, a SUSPEND outstanding or not. -/
theorem exec_eraseFails {u : State} {e : RunningOp} (hawake : u.inReset = false)
    (hstate : u.port.state = .running ∨ u.port.state = .suspending) (hop : u.port.op = some e) (hissued : e.issued = true)
    (hk : e.op.kind = .erase) (hissuer : e.op.issuer = .engine) :
    exec (.arrayEraseEnd false) u = .next (refresh (finish (issuerTimeout e.op (u.opEnded e false 0)))) := by
  have hreport : reportEraseEnd false u = issuerEnd e.op false 0 (u.opEnded e false 0) := by
    rw [reportEraseEnd, if_pos hstate, outstanding_runs hop hissued hk]
    rfl
  rw [exec_awake hawake (by simp) (by simp), effect, hreport, issuerTimeout_fails (.inr ⟨hissuer, .inr hk⟩)]

/-- What the flash is known to hold when the erase and its inner operation are abandoned. -/
theorem read_bothAbandoned {m : FlashBank} {e : RunningOp} {inner : Option RunningOp} (he : e.issued = true)
    (hk : e.op.kind = .erase) (a : Nat) : (∀ y, inner = some y → y.op.kind ≠ .erase) →
    ((m.abandoned inner).abandoned (some e)).read a = if a / 2048 = e.op.psec then FlashWord.unknown
      else match inner with
        | some y => if y.issued = true ∧ y.op.kind = .program ∧ y.op.word = a then (m.read a).halfProgrammed y.op.value
          else m.read a
        | none => m.read a := by
  intro hinner
  rw [FlashBank.read_abandoned_issued he, hk]
  dsimp only
  split_ifs
  · rfl
  · cases inner with
    | none => rfl
    | some y =>
      rw [FlashBank.read_abandoned, if_neg]
      exact fun h => hinner y rfl h.2.1

/-- The timeout has the effect of the erase's fail report in the state `u`, but for the pulse. -/
def State.Fails (s : State) (e : RunningOp) (c : Instr) (u : State) : Prop :=
  ∃ t v, exec c s = .next t ∧ exec (.arrayEraseEnd false) u = .next v
    ∧ t.SameButPulse v ∧ t.time = u.time ∧ t.port.consecutive = 1 ∧ t.port.arst = .pulse ∧ t.port.inner = none
    ∧ t.flash = (s.flash.abandoned s.port.inner).abandoned (some e)

section Fails

variable {s : State} {e : RunningOp} (hawake : s.inReset = false) (hlawful : s.port.Lawful) (hop : s.port.op = some e)
  (hissued : e.issued = true) (hk : e.op.kind = .erase) (hissuer : e.op.issuer = .engine) (hcount : s.port.consecutive = 0)
  (hres : s.host.reselect = false)

include hawake hlawful hop hissued hk hissuer hcount hres

theorem suspending_fails (hstate : s.port.state = .suspending) (limit : SuspendLimit) {time : Nat}
    (htime : s.time + s.ticksToSuspendLimit limit = time) :
    s.Fails e (.suspendTimeout limit) ((s.setTime time).setLog (s.log.timedOut (suspendReason limit) e.op.psec time)) := by
  subst htime
  have hseen := timedOut_seen s (s.ticksToSuspendLimit limit) (s.flash.abandoned (some e)) (s.flash.ended e.op false 0)
    (s.log.timedOut (suspendReason limit) e.op.psec (s.time + s.ticksToSuspendLimit limit)) hres e.op
  have hexec := exec_suspendTimeout hawake hstate hop hlawful hcount limit
  have hinner : s.port.inner = none := hlawful.2.2.2 (by simp [hstate])
  obtain ⟨hsame, ⟨hcount', harst, -, hnone⟩, ht, hf, -⟩ := hseen
  refine ⟨_, _, hexec, exec_eraseFails hawake (.inr hstate) hop hissued hk hissuer, hsame, ht, hcount', harst,
    hnone, hf.trans ?_⟩
  rw [hinner]
  rfl

omit hlawful in
/-- The host's outcome of the inner operation `y`, in the state of the report, gives the state whose erase fails. -/
theorem suspended_fails {y : RunningOp} (hstate : s.port.state = .suspended) (hinner : s.port.inner = some y)
    {time : Nat} (htime : s.time + y.ticksLeft s.port.arstTimer = time) {u : State} (hu : u.inReset = false ∧ u.port.state = .running
      ∧ u.port.op = some e ∧ u.time = time)
    (houtcome : issuerTimeout y.op (s.endedAt time (s.flash.ended e.op false 0)
      (s.log.timedOut y.op.kind.reason y.op.psec time)) = u.opEnded e false 0) : s.Fails e .innerOperationTimeout u := by
  subst htime
  obtain ⟨hawake', hrunning, hop', hut⟩ := hu
  have hexec := exec_innerTimeout hawake hstate hop hinner hcount
  have hbut := ((timedOut_but s (y.ticksLeft s.port.arstTimer) ((s.flash.abandoned (some y)).abandoned (some e))
    (s.flash.ended e.op false 0) (s.log.timedOut y.op.kind.reason y.op.psec (s.time + y.ticksLeft s.port.arstTimer))
    hres).issuerTimeout y.op).issuerTimeout e.op
  obtain ⟨hsame, ⟨hcount', harst, -, hnone⟩, ht, hf, -⟩ := hbut.seen
    ((issuerTimeout_outer e.op _).trans (issuerTimeout_outer y.op _))
  rw [houtcome] at hsame
  refine ⟨_, _, hexec, exec_eraseFails hawake' (.inl hrunning) hop' hissued hk hissuer, hsame, ?_, hcount', harst, hnone, ?_⟩
  · rw [hut]; exact ht
  · rw [hinner]; exact hf

end Fails

/-! ### The outcomes of the inner operation -/

/-- The outcome of a host read whose erase keeps the engine's claim (R61). -/
theorem readOutcome {v : State} {x : ReadAccess} {p : HostPins} (hhost : v.host = HostPort.holds p)
    (hclaim : v.port.engClaim ≠ none) : issuerTimeout x.op v = v.readTimedOut p := by
  have hno : (v.readTimedOut p).endOfLoadWaits = false := by
    unfold State.endOfLoadWaits
    change (_ && v.port.engClaim.isNone) = false
    rw [Option.isNone_eq_false_iff.mpr (Option.isSome_iff_ne_none.mpr hclaim), Bool.and_false]
  have hread : issuerTimeout x.op v = hostReadTimeout v := rfl
  rw [hread, hostReadTimeout_held hhost]
  exact if_neg (by rw [hno]; simp)

/-- A first failed attempt of a direct write keeps its claim (R109). -/
theorem directOutcome_again {v : State} {d : DirectWrite} (hdirect : v.port.direct = some d) (htries : d.attempts < 2) :
    issuerTimeout d.op v = v := by
  have hread : issuerTimeout d.op v = directAttemptEnd false v := rfl
  rw [hread, directAttemptEnd, hdirect]
  dsimp only
  rw [if_neg Bool.false_ne_true, if_pos (by exact htries)]

/-- A second ends it (R109). -/
theorem directOutcome_ends {v : State} {d : DirectWrite} {p : HostPins} (hhost : v.host = HostPort.holds p)
    (hdirect : v.port.direct = some d) (htries : 2 ≤ d.attempts) : issuerTimeout d.op v
      = ((v.setLog (v.log.take { kind := .directWriteFailed, region := some (v.reportRegion d), addr := some d.addr }
          v.msTick)).setPort { v.port with direct := none, hostClaim := none }).setHost (HostPort.presents p none true) := by
  have hread : issuerTimeout d.op v = directAttemptEnd false v := rfl
  rw [hread, directAttemptEnd, hdirect]
  dsimp only
  rw [if_neg Bool.false_ne_true, if_neg (by exact Nat.not_lt.mpr htries), endDirect, completeAccess_held (by exact hhost)]
  rfl

/-! ### A commit's erase with attempts left (R104, R105) -/

/-- The erase's failed attempt claims the port again (R77). -/
theorem eraseTimeout_repeats {v : State} {o : ArrayOp} {psec : Nat}
    (ho : o = { kind := .erase, psec := psec, offset := 0, value := 0, issuer := .engine }) (hphase : v.engine.phase = .erase)
    (htries : v.engine.eraseAttempts < 3) :
    issuerTimeout o v = raiseEngineClaim o (v.setPort { v.port with engClaim := none }) := by
  subst ho
  exact engineEraseFail_repeats (s := v.setPort { v.port with engClaim := none })
    (by rw [State.setPort_engine, hphase]; simp) htries

/-- While ARST# is pulsed a host's READ is granted first, and waits (R95, R104). -/
theorem finish_hostWaits {v : State} {x : ReadAccess} (hfree : v.port.state = .free) (hclaim : v.port.hostClaim = some x.op)
    (hpulse : v.port.arst = .pulse) (hbusy : v.engine.phase ≠ .idle) (hres : v.host.reselect = false) :
    finish v = (drain v).setPort { v.port with state := .running, op := some { op := x.op, timer := 0, issued := false } } := by
  have hwaits : (v.port.arst == .inactive) = false := by rw [hpulse]; rfl
  have hcount : countAttempt x.op (drain v) = drain v := rfl
  have hgrant : grant (drain v) = issueOp x.op (drain v) := by
    rw [grant, if_pos (by rw [drain_port]; exact hfree), drain_port, hclaim]
  rw [finish_eq_settle hres, settle_of_busy (maySelect_of_phase hbusy), hgrant]
  unfold issueOp readIssued
  rw [hcount, drain_port, hwaits]
  dsimp only
  rw [if_neg (by simp), drain_port]
  rfl

/-- With no host claim the erase is granted, and waits. -/
theorem finish_eraseWaits {v : State} {o : ArrayOp} (hk : o.kind = .erase) (hissuer : o.issuer = .engine)
    (hfree : v.port.state = .free) (hclaim : v.port.hostClaim = none) (heng : v.port.engClaim = some o)
    (hpulse : v.port.arst = .pulse) (hbusy : v.engine.phase ≠ .idle) (hres : v.host.reselect = false) :
    finish v = ((drain v).setEngine { v.engine with eraseAttempts := v.engine.eraseAttempts + 1 }).setPort
      { v.port with state := .running, op := some { op := o, timer := 0, issued := false }, suspCount := 0 } := by
  have hwaits : (v.port.arst == .inactive) = false := by rw [hpulse]; rfl
  have hcount : countAttempt o (drain v) = (drain v).setEngine
      { v.engine with eraseAttempts := v.engine.eraseAttempts + 1 } := by
    unfold countAttempt
    rw [hk, hissuer, drain_engine]
  have hgrant : grant (drain v) = issueOp o (drain v) := by
    rw [grant, if_pos (by rw [drain_port]; exact hfree), drain_port, hclaim]
    dsimp only
    rw [heng]
  rw [finish_eq_settle hres, settle_of_busy (maySelect_of_phase hbusy), hgrant]
  unfold issueOp readIssued
  rw [hcount, drain_port, hwaits]
  dsimp only
  rw [if_neg (by simp), State.setEngine_port, drain_port, if_pos hk]

theorem drain_kept (v : State) : (drain v).host = v.host ∧ (drain v).flash = v.flash ∧ (drain v).time = v.time := by
  obtain ⟨m, hm⟩ := drain_frame v
  rw [hm]
  exact ⟨rfl, rfl, rfl⟩

/-- Of SUSPENDING: the read that caused the SUSPEND is granted before the erase. -/
theorem suspending_waits {s : State} {x : ReadAccess} {e : RunningOp} {psec : Nat} (hawake : s.inReset = false)
    (hlawful : s.port.Lawful) (herases : s.ErasesForCommit psec) (hop : s.port.op = some e) (hissued : e.issued = true)
    (he : e.op = { kind := .erase, psec := psec, offset := 0, value := 0, issuer := .engine })
    (htries : s.engine.eraseAttempts < 3) (hcount : s.port.consecutive = 0) (hres : s.host.reselect = false)
    (limit : SuspendLimit) (hstate : s.port.state = .suspending) (hclaim : s.port.hostClaim = some x.op) :
    ∃ t, exec (.suspendTimeout limit) s = .next t ∧ t.port.consecutive = 1 ∧ t.port.arst = .pulse
      ∧ t.port.state = .running ∧ t.port.op = some { op := x.op, timer := 0, issued := false }
      ∧ t.port.engClaim = some e.op ∧ t.engine = s.engine ∧ t.host = s.host
      ∧ (∀ a, t.flash.read a = if a / 2048 = psec then FlashWord.unknown else s.flash.read a)
      ∧ t.log.records = (s.log.timedOut (suspendReason limit) psec t.time).records := by
  have hexec := exec_suspendTimeout hawake hstate hop hlawful hcount limit
  have hport : (s.suspendTimedOut limit e).port = { (elapse (s.ticksToSuspendLimit limit) s).port with
      state := .free, op := none, inner := none, ackTimer := 0, suspCount := 0, consecutive := 1
      arst := .pulse, arstTimer := 0 } := rfl
  have hkept : (s.suspendTimedOut limit e).engine = s.engine ∧ (s.suspendTimedOut limit e).host = s.host
      ∧ (s.suspendTimedOut limit e).flash = s.flash.abandoned (some e)
      ∧ (s.suspendTimedOut limit e).time = s.time + s.ticksToSuspendLimit limit
      ∧ (s.suspendTimedOut limit e).log = s.log.timedOut (suspendReason limit) e.op.psec
        (s.time + s.ticksToSuspendLimit limit)
      ∧ (s.suspendTimedOut limit e).port.hostClaim = s.port.hostClaim := ⟨rfl, rfl, rfl, rfl, rfl, rfl⟩
  generalize s.suspendTimedOut limit e = T at hexec hport hkept
  obtain ⟨hengine, hhost, hflash, htime, hlog, hhc⟩ := hkept
  obtain ⟨hphase, -, -, -⟩ := herases
  rw [eraseTimeout_repeats he (by rw [hengine]; exact hphase) (by rw [hengine]; exact htries)] at hexec
  obtain ⟨v, hv, hvport, hvkept⟩ : ∃ v, raiseEngineClaim e.op (T.setPort { T.port with engClaim := none }) = v
      ∧ v.port = { T.port with engClaim := some e.op }
      ∧ v.engine = T.engine ∧ v.host = T.host ∧ v.flash = T.flash ∧ v.time = T.time ∧ v.log = T.log :=
    ⟨_, rfl, rfl, rfl, rfl, rfl, rfl, rfl⟩
  obtain ⟨hvengine, hvhost, hvflash, hvtime, hvlog⟩ := hvkept
  have hfinish := finish_hostWaits (v := v) (x := x) (by rw [hvport, hport]) (by rw [hvport]; exact hhc.trans hclaim)
    (by rw [hvport, hport]) (by rw [hvengine, hengine, hphase]; simp) (by rw [hvhost, hhost]; exact hres)
  obtain ⟨hdhost, hdflash, hdtime⟩ := drain_kept v
  rw [hv, hfinish] at hexec
  refine ⟨_, hexec, ?_, ?_, rfl, rfl, ?_, ?_, ?_, fun a => ?_, ?_⟩
  · rw [refresh_port, State.setPort_port, hvport, hport]
  · rw [refresh_port, State.setPort_port, hvport, hport]
  · rw [refresh_port, State.setPort_port, hvport]
  · rw [refresh_engine, State.setPort_engine, drain_engine, hvengine, hengine]
  · rw [refresh_host, State.setPort_host, hdhost, hvhost, hhost]
  · rw [refresh_flash, State.setPort_flash, hdflash, hvflash, hflash, FlashBank.read_abandoned_issued hissued, he]
  · rw [refresh_records, State.setPort_log, drain_log, hvlog, hlog, refresh_time, State.setPort_time, hdtime, hvtime, htime, he]

/-- Of SUSPENDED with a host READ: the read has its outcome, and the erase is granted. -/
theorem suspended_waits {s : State} {p : HostPins} {x : ReadAccess} {e y : RunningOp} {psec : Nat} (hawake : s.inReset = false)
    (herases : s.ErasesForCommit psec) (hop : s.port.op = some e) (hissued : e.issued = true)
    (he : e.op = { kind := .erase, psec := psec, offset := 0, value := 0, issuer := .engine })
    (htries : s.engine.eraseAttempts < 3) (hcount : s.port.consecutive = 0)
    (hstate : s.port.state = .suspended) (hreads : s.Reads p x) (hinner : s.port.inner = some y) (hy : y.op = x.op) :
    ∃ t, exec .innerOperationTimeout s = .next t ∧ t.port.consecutive = 1 ∧ t.port.arst = .pulse
      ∧ t.port.state = .running ∧ t.port.op = some { op := e.op, timer := 0, issued := false }
      ∧ t.engine = { s.engine with eraseAttempts := s.engine.eraseAttempts + 1 }
      ∧ t.host = HostPort.presents p (some 0xFFFF) true
      ∧ (∀ a, t.flash.read a = if a / 2048 = psec then FlashWord.unknown else s.flash.read a)
      ∧ t.log.records = (s.log.timedOut .read x.psec t.time).records := by
  have hexec := exec_innerTimeout hawake hstate hop hinner hcount
  have hport : (s.innerTimedOut e y).port = { (elapse (y.ticksLeft s.port.arstTimer) s).port with
      state := .free, op := none, inner := none, ackTimer := 0, suspCount := 0, consecutive := 1
      arst := .pulse, arstTimer := 0 } := rfl
  have hkept : (s.innerTimedOut e y).engine = s.engine ∧ (s.innerTimedOut e y).host = s.host
      ∧ (s.innerTimedOut e y).flash = (s.flash.abandoned (some y)).abandoned (some e)
      ∧ (s.innerTimedOut e y).time = s.time + y.ticksLeft s.port.arstTimer
      ∧ (s.innerTimedOut e y).log = s.log.timedOut y.op.kind.reason y.op.psec (s.time + y.ticksLeft s.port.arstTimer)
      ∧ (s.innerTimedOut e y).port.engClaim = s.port.engClaim := ⟨rfl, rfl, rfl, rfl, rfl, rfl⟩
  generalize s.innerTimedOut e y = T at hexec hport hkept
  obtain ⟨hengine, hhost, hflash, htime, hlog, hec⟩ := hkept
  obtain ⟨hphase, -, -, hclaim⟩ := herases
  obtain ⟨-, hholds, -, -, -⟩ := hreads
  have hread : issuerTimeout y.op T = T.readTimedOut p := by
    rw [hy]
    exact readOutcome (hhost.trans hholds) (by rw [hec, hclaim]; simp)
  obtain ⟨v, hv, hvport, hvkept⟩ : ∃ v, raiseEngineClaim e.op ((T.readTimedOut p).setPort
        { (T.readTimedOut p).port with engClaim := none }) = v
      ∧ v.port = { T.port with hostClaim := none, engClaim := some e.op }
      ∧ v.engine = T.engine ∧ v.host = HostPort.presents p (some 0xFFFF) true ∧ v.flash = T.flash ∧ v.time = T.time
      ∧ v.log = T.log := ⟨_, rfl, rfl, by simp [raiseEngineClaim, State.readTimedOut]⟩
  obtain ⟨hvengine, hvhost, hvflash, hvtime, hvlog⟩ := hvkept
  rw [hread, eraseTimeout_repeats he (by change T.engine.phase = _; rw [hengine]; exact hphase)
    (by change T.engine.eraseAttempts < 3; rw [hengine]; exact htries), hv] at hexec
  have hfinish := finish_eraseWaits (v := v) (o := e.op) (by rw [he]) (by rw [he]) (by rw [hvport, hport]) (by rw [hvport])
    (by rw [hvport]) (by rw [hvport, hport]) (by rw [hvengine, hengine, hphase]; simp) (by rw [hvhost]; rfl)
  obtain ⟨hdhost, hdflash, hdtime⟩ := drain_kept v
  have hquiet : s.flash.abandoned (some y) = s.flash := by
    unfold FlashBank.abandoned
    dsimp only
    rw [hy]
    exact ite_self _
  rw [hfinish] at hexec
  refine ⟨_, hexec, ?_, ?_, rfl, rfl, ?_, ?_, fun a => ?_, ?_⟩
  · rw [refresh_port, State.setPort_port, hvport, hport]
  · rw [refresh_port, State.setPort_port, hvport, hport]
  · rw [refresh_engine, State.setPort_engine, State.setEngine_engine, hvengine, hengine]
  · rw [refresh_host, State.setPort_host, State.setEngine_host, hdhost, hvhost]
  · rw [refresh_flash, State.setPort_flash, State.setEngine_flash, hdflash, hvflash, hflash, hquiet,
      FlashBank.read_abandoned_issued hissued, he]
  · rw [refresh_records, State.setPort_log, State.setEngine_log, drain_log, hvlog, hlog, refresh_time, State.setPort_time,
      State.setEngine_time, hdtime, hvtime, htime, hy]
    rfl

/-- Settles O51: a commit's erase in a suspension, and any erase of the engine beside its fail report. -/
theorem suspensionTimeoutsFailTheErase : Obligations.SuspensionTimeoutsFailTheErase := by
  refine ⟨fun s p x e psec hawake hlawful herases hop hissued he htries hcount _ hres => ⟨fun limit hstate hclaim => ?_,
    fun y hstate hreads hinner hy => ?_⟩, fun s e hawake hlawful hop hissued hk hissuer hclaim hcount hres => ?_⟩
  · exact suspending_waits hawake hlawful herases hop hissued he htries hcount hres limit hstate hclaim
  · exact suspended_waits hawake herases hop hissued he htries hcount hstate hreads hinner hy
  intro reported fails
  have hread : ∀ c u, (∀ y, s.port.inner = some y → y.op.kind ≠ .erase) → s.Fails e c u → fails c u :=
    fun c u hinner ⟨t, v, h1, h2, h3, h4, h5, h6, h7, h8⟩ => ⟨t, v, h1, h2, h3, h4, h5, h6, h7, fun a => by
      rw [h8]; exact read_bothAbandoned hissued hk a hinner⟩
  refine ⟨fun hstate => ?_, fun p y hstate hinner hyissued => ?_⟩
  · have hnone : ∀ y, s.port.inner = some y → y.op.kind ≠ .erase := fun y hy => by
      rw [hlawful.2.2.2 (by simp [hstate])] at hy
      exact absurd hy (by simp)
    have hfails := fun limit time (htime : s.time + s.ticksToSuspendLimit limit = time) =>
      suspending_fails hawake hlawful hop hissued hk hissuer hcount hres hstate limit htime
    refine ⟨fun _ => hread _ _ hnone (hfails .acknowledgement _ ?_), fun _ => hread _ _ hnone (hfails .eraseTime _ ?_)⟩
    · rw [State.ticksToSuspendLimit, if_pos hstate]
      rfl
    · rw [State.ticksToSuspendLimit, if_pos hstate, hop]
      change s.time + ((some e).map (·.ticksLeft s.port.arstTimer)).getD 0 = _
      rw [Option.map_some, Option.getD_some, RunningOp.ticksLeft_issued hissued, hk]
      rfl
  · have hticks : y.ticksLeft s.port.arstTimer = opLimit y.op.kind - y.timer := RunningOp.ticksLeft_issued hyissued _
    refine ⟨fun x hreads hy _ => ?_, fun d hwrites hy _ => ?_⟩
    · have hnone : ∀ z, s.port.inner = some z → z.op.kind ≠ .erase := fun z hz => by
        rw [hinner, Option.some_inj] at hz
        rw [← hz, hy]
        simp [ReadAccess.op]
      refine hread _ _ hnone (suspended_fails hawake hop hissued hk hissuer hcount hres hstate hinner
        (time := s.time + (50 - y.timer)) (by rw [hticks, hy]; rfl) ⟨hawake, rfl, hop, rfl⟩ ?_)
      rw [hy, readOutcome (p := p) (by exact hreads.2.1) (by change s.port.engClaim ≠ none; rw [hclaim]; simp)]
      rfl
    · have hnone : ∀ z, s.port.inner = some z → z.op.kind ≠ .erase := fun z hz => by
        rw [hinner, Option.some_inj] at hz
        rw [← hz, hy]
        simp [DirectWrite.op]
      obtain ⟨hhost, -, hdirect, -, hdclaim⟩ := hwrites
      refine ⟨fun htries => hread _ _ hnone (suspended_fails hawake hop hissued hk hissuer hcount hres hstate hinner
          (time := s.time + (1000 - y.timer)) (by rw [hticks, hy]; rfl) ⟨hawake, rfl, hop, rfl⟩ ?_),
        fun htries => hread _ _ hnone (suspended_fails hawake hop hissued hk hissuer hcount hres hstate hinner
          (time := s.time + (1000 - y.timer)) (by rw [hticks, hy]; rfl) ⟨hawake, rfl, hop, rfl⟩ ?_)⟩
      · rw [hy, directOutcome_again (by exact hdirect) htries]
        rfl
      · rw [hy, directOutcome_ends (p := p) (by exact hhost) (by exact hdirect) htries]
        rfl

end Sys2Proof.Machine
